-- ==== Sys2Proof/Word.lean ====
section
/-! DEFINITION. The byte and word types of the package and nothing else (00 R12). -/

namespace Sys2Proof

/-- One byte of memory, of the local store or of a packet. -/
abbrev Byte := BitVec 8

/-- A 64-bit register or address word. -/
abbrev Word := BitVec 64

end Sys2Proof
end

