-- ==== Sys2Proof/Syntax.lean ====
section
/-! DEFINITION. The commands: one constructor per row of the opcode table, with the unit or in-flight command it acts
on, the data software supplies and what the environment contributes. Numbers that name a unit are Nat and are checked
in WellFormed.lean. -/

namespace Sys2Proof

/-- An in-flight command: its context and the ring and SEQ pair that identifies it (02 R65). -/
structure CmdId where
  ctx  : Nat
  ring : Nat
  seq  : Nat
  deriving DecidableEq, Repr

/-- The engines of a core that run tile-ops (04 R139). -/
inductive Engine where
  | mov | mx | vx | ga
  deriving DecidableEq, Repr

/-- Where the `nth` op in flight of an engine stopped: what it had done, in the unit of its engine (07 R243; log 99). -/
structure OpStop where
  eng  : Engine
  nth  : Nat
  done : Nat
  deriving DecidableEq, Repr

/-- The core that a PREEMPT_RELEASE releases: where each op that was at work stopped, and the lines that a restore had brought back
(07 R243, R247). -/
structure CoreStop where
  core     : Nat
  stops    : List OpStop
  restored : Nat
  deriving DecidableEq, Repr

/-- The accumulate in flight that an adder applies, `errs` bytes of the code word that it reads being in error (08 R278; 10 R328). -/
structure AddAt where
  index : Nat
  errs  : Nat
  deriving DecidableEq, Repr

/-- The stack whose map-out takes a step; `failed` says that the pseudo-channel being mapped out has failed (10 R347, R348). -/
structure MapoutAt where
  stack  : Nat
  failed : Bool
  deriving DecidableEq, Repr

/-- How a register access reaches the device: a host core, a host through BAR0, or the BMC over I3C. -/
inductive Via where
  | core | bar0 | i3c
  deriving DecidableEq, Repr

/-- The atomic memory operations of a host core (03 R90, R116). -/
inductive AmoOp where
  | swap | add | and | or | xor | min | max | minu | maxu
  deriving DecidableEq, Repr

/-- Kinds of a host-core access (03 R90, R94). `plain` is a load or store, `fetch` an instruction fetch, `lr` and `sc` the two
halves of a load-reserved and store-conditional pair. -/
inductive AccKind where
  | plain | fetch | vector | lr | sc
  | amo (op : AmoOp)
  deriving DecidableEq, Repr

/-- What a host-core load does: its kind, whether its page has a PBMT of NC, and how many bytes of the code word that it reads are in
error (03 R91, R119; 10 R328). -/
structure LoadOf where
  kind : AccKind
  nc   : Bool
  errs : Nat
  deriving DecidableEq, Repr

/-- What a host-core store does: its kind, and whether its page has a PBMT of NC (03 R91, R117). -/
structure StoreOf where
  kind : AccKind
  nc   : Bool
  deriving DecidableEq, Repr

/-- An access to the CSRs of the bus-error interrupt (03 R125): a write to UBERR_INFO, at 0x7C1 or from S-mode at 0x5C1; a read of a CSR;
bit 16 of mie or of mideleg. -/
inductive CsrOp where
  | info (smode : Bool) (value : Nat)
  | read (smode : Bool) (csr : Nat)
  | mie (on : Bool)
  | mideleg (on : Bool)
  deriving DecidableEq, Repr

/-- The outcome of one self-test on one unit (15 R476, R477). -/
structure TestResult where
  test   : Nat
  tile   : Nat
  unit   : Nat
  failed : Bool
  notRun : Bool
  deriving DecidableEq, Repr

/-- Units that can be charged (11 R372). -/
inductive ChargedUnit where
  | core (tile core : Nat)
  | sill (n : Nat)
  | edge (e : Nat)
  | link (k : Nat)
  deriving DecidableEq, Repr

/-- What a chunk of a reduction met: how many pairs of computations differed, from the first on, and the units whose values differed
from the one written (11 R371, R372). -/
structure PathFault where
  chunk : Nat
  wrong : Nat
  units : List ChargedUnit
  /-- A staging line of the chunk reads uncorrectable (11 R379). -/
  staging : Bool
  deriving DecidableEq, Repr

/-- A reduction, copy or barrier of the package; `late` says that another member of its gang started its part after RELEASE (11 R377). -/
structure RedAt where
  id   : CmdId
  late : Bool
  deriving DecidableEq, Repr

/-- Why a recalibration is triggered (10 R343). -/
inductive RecalCause where
  | temperature | laneErrors | period
  deriving DecidableEq, Repr

/-- Which request timed out (03 R126, R127): a tracked store, the row read of a gather position, an accumulate in flight, or a request of a
copy or reduction of an in-flight command, which left at `since`. -/
inductive TimeoutOf where
  | store (tile ucore k : Nat)
  | row (tile core pos : Nat)
  | accumulate (k : Nat)
  | command (id : CmdId) (seg addr since : Nat)
  deriving DecidableEq, Repr

/-- A received flit (12 R384, R385): its sequence number, the acknowledgement it carries, whether its CRC holds after
correction, the symbols corrected and the message bytes it carries. -/
structure Flit where
  seq       : Nat
  ack       : Nat
  crcOk     : Bool
  corrected : Nat
  bytes     : Nat
  /-- Credit returns of its trailer, in bytes, by virtual channel (12 R384, R386). -/
  credits   : List Nat
  deriving DecidableEq, Repr

/-- What the ends of a link exchange after training (12 R391), with the measured delay and the number of working
wavelengths in the worse direction. -/
structure PeerInfo where
  addr     : Nat
  assigned : Bool
  link     : Nat
  nonce    : Nat
  digest   : Nat
  delayPs  : Nat
  waves    : Nat
  deriving DecidableEq, Repr

/-- Classes of messages (12 R386): management and time, requests, responses and acknowledgements. -/
inductive MsgClass where
  | mg | rq | rs
  deriving DecidableEq, Repr

/-- A message passing through this package (12 R386): source, destination, 0x7FFF for one that follows GM_PATH, links crossed so far, class,
source unit number, destination offset, GM_PATH, size in bytes and the link it came on. -/
structure FwdMsg where
  src    : Nat
  dst    : Nat
  hops   : Nat
  cls    : MsgClass
  unit   : Nat
  offset : Nat
  path   : Nat
  bytes  : Nat
  arrival : Nat
  deriving DecidableEq, Repr

/-- Where a request of another package comes from: the package, and the link on which it came, which its response takes back (12 R395). -/
structure Origin where
  pkg  : Nat
  link : Nat
  deriving DecidableEq, Repr

/-- A wavelength that fails: of a link alone, or its source in the laser module, which fails it on the module's four links (12 R389, R390). -/
structure WaveFault where
  wave   : Nat
  source : Bool
  deriving DecidableEq, Repr

/-- What a remote request asks of this package (03 R87, 08 R277): a read, a write, or an accumulate of one line
(`lanes` are four attar codes or sixteen FP32 codes). `after` is the number of the write that precedes a write of a host core in that
core's program order; none for the first, and for a write of an accelerator, which has no order (12 R388). -/
inductive RemoteReq where
  | read (addr len : Nat)
  | write (addr : Nat) (data : List Byte) (after : Option Nat)
  | accumulate (addr : Nat) (fp32 : Bool) (lanes : List Nat)
  deriving DecidableEq, Repr

/-- What an Announce tells of a member: TIM_CTRL.PRIORITY, and whether its own reference is present (12 R404, R406). -/
structure Announced where
  pkg      : Nat
  priority : Nat
  hasRef   : Bool
  deriving DecidableEq, Repr

/-- What a two-step Sync says: the upstream's time corrected for the measured delay minus this package's time, in ns, the upstream's
announced class, hops and gang time source; with it the one-way delay that the link's last peer-delay exchange measured, and what the
upstream's last Announce tells of the members (12 R406). -/
structure SyncMsg where
  offset   : Int
  cls      : Nat
  hops     : Nat
  source   : Nat
  errBound : Nat
  delayPs  : Nat
  announces : List Announced
  deriving DecidableEq, Repr

/-- A host request (12 R410). `vf` is none for the physical function. A write carries `data`; a read asks for `len`
bytes. `mem` is a CXL.mem access to the home window. `bar` 7 stands for the configuration space (15 R465). -/
structure Tlp where
  vf   : Option Nat
  bar  : Nat
  off  : Nat
  isWrite : Bool
  len  : Nat
  data : List Byte
  mem  : Bool
  deriving DecidableEq, Repr

/-- What makes a port host-down at once (12 R413): a function-level reset of its physical function, or a hot reset, a link disable or
PERST#. -/
structure HostLoss where
  port : Nat
  flr  : Bool
  deriving DecidableEq, Repr

/-- Supply domains (14 R434). -/
inductive Domain where
  | tile (n : Nat)
  | io0
  | io1
  | laser (n : Nat)
  deriving DecidableEq, Repr

/-- Groups per role of a row of a lane plan: memory, stream and coherence (13 R422). -/
abbrev PlanRow := Nat × Nat × Nat

/-- What a check of a start image finds (15 R459): the source is readable, the signature verifies, the version, the lane plan, a row
for each width: 16, 12 and 8 groups of a tile edge, 4, 3 and 2 of an I/O-die edge (13 R422), the gang-manager public keys as pairs of
coordinates, and its three measured digests. -/
structure ImageView where
  readable : Bool
  sigOk    : Bool
  version  : Nat
  plan     : List PlanRow
  keys     : List (Nat × Nat)
  digests  : List (List Byte)
  deriving DecidableEq, Repr

/-- What a training of an edge finds: the tile to which its loopback test attributes more of the failed lanes, another number for a tie
(13 R428), and the capability words of its two dies, the lower-numbered or the I/O die first (13 R423). -/
structure Training where
  blamed : Nat
  loc    : Nat
  peer   : Nat
  deriving DecidableEq, Repr

/-- A training of an edge. -/
structure EdgeTraining where
  edge     : Nat
  training : Training
  deriving DecidableEq, Repr

/-- What the environment contributes to a start stage (15 R464): the checks of the boot ROM and of the identity key; the
good copies of the repair ledger, 0 to 2; masks of the tiles whose rails came up, of the stacks that trained and of the laser
modules seated; die and sill revisions in 4 bits a tile, stack temperatures in 8 bits a stack; the features that each tile's two dies
offer (13 R424); the training of each edge; the lanes of a stack interface that failed their test, each as stack, pseudo-channel, lane and the
spare that the stack's lane repair allows for it (10 R339); physical cores and Ultur cores that failed their test, by tile;
the tile whose steward firmware did not start; ADDR_STRAP; and what the further tests find that follow a rebuilt ledger (15 R480). -/
structure StageEnv where
  romOk      : Bool
  keyOk      : Bool
  ledgerGood : Nat
  tilesUp    : Nat
  dieRev     : Nat
  sillRev    : Nat
  tileFeats  : List Nat
  hinges     : List Training
  stacksUp   : Nat
  stackTemp  : Nat
  hbmLanes   : List (Nat × Nat × Nat × Option Nat)
  coresBad   : List (Nat × Nat)
  ucoresBad  : List (Nat × Nat)
  lasers     : Nat
  firmwareBad : Option Nat
  strap      : Nat
  found      : List TestResult := []
  deriving DecidableEq, Repr


/-- The commands of the block, one constructor per row of the opcode table, in its order. -/
inductive Instr where
  /-- SYS_CTX_CMD operation 1 on a context (02 R29). -/
  | enable (ctx : Nat)
  /-- SYS_CTX_CMD operation 2 (02 R30). -/
  | disable (ctx : Nat)
  /-- SYS_CTX_CMD operation 3 (02 R30). -/
  | terminate (ctx : Nat)
  /-- A store of `width` bytes to DB_TAIL[ring] (02 R43, R44). -/
  | doorbell (ctx ring width : Nat) (value : Word)
  /-- The fetcher's next slot read, in round-robin turn (02 R46, R47). -/
  | packetFetch
  /-- The 250 ns re-read of a slot (02 R48). -/
  | slotReread (ctx ring : Nat)
  /-- The re-read of descriptor blocks (02 R36). -/
  | descBlockReread (ctx ring : Nat)
  /-- The re-read of a program image (04 R132). -/
  | progImageReread (ctx ring : Nat)
  /-- Station time reaches the RELEASE of an accepted command (02 R60). -/
  | releaseTime (id : CmdId)
  /-- The steward dispatches a ready command (02 R52); `tile core` is the core it pre-empts where R53 applies. -/
  | commandDispatch (id : CmdId) (tile core : Nat)
  /-- The pane record header is written and the core released (06 R220). -/
  | preemptRelease (tile : Nat) (core : CoreStop)
  /-- Run `idx` of a command starts on a core (07 R226). -/
  | instanceStart (id : CmdId) (idx tile core : Nat)
  /-- The run on the core ends (07 R228). -/
  | instanceEnd (tile core : Nat)
  /-- The oldest op of an engine completes (04 R140). -/
  | tileOpComplete (tile core : Nat) (eng : Engine)
  /-- The held word's token is non-zero and is decremented (04 R140). -/
  | progTokenWaitSatisfied (tile core : Nat)
  /-- A program-token hold reaches the wait limit (04 R140). -/
  | progTokenHoldTimeout (tile core : Nat)
  /-- A TILE_STEP op takes one count and does its next 128-row tile (04 R142). -/
  | tileStepWait (tile core : Nat) (eng : Engine)
  /-- A finished command's record, signal and message (02 R66). -/
  | commandFinish (id : CmdId)
  /-- The wait limit of a token wait is reached (02 R58). -/
  | tokenWaitTimeout (id : CmdId)
  /-- A write to DB_CQ_HEAD (02 R45). -/
  | dbCqHeadWrite (ctx : Nat) (value : Word)
  /-- A write to DB_CQ_ARM (02 R39). -/
  | dbCqArmWrite (ctx : Nat) (value : Word)
  /-- A register write of 4 or 8 bytes at a Shutter offset (00 R14). -/
  | registerWrite (via : Via) (off width : Nat) (value : Word)
  /-- A register read at a Shutter offset; RC fields clear (00 R14). -/
  | registerReadClear (via : Via) (off width : Nat)
  /-- A 1- or 2-byte store to the Shutter space (03 R94). -/
  | shutterNarrowStore (off width : Nat) (value : Word)
  /-- A dispatched SYS_NOP executes (02 R39). -/
  | sysNop (id : CmdId)
  /-- A dispatched SYS_TOKEN_SET executes (02 R59). -/
  | sysTokenSet (id : CmdId)
  /-- A dispatched SYS_SELFTEST runs, with the outcome of each test of a unit (15 R476). -/
  | sysSelftest (id : CmdId) (results : List TestResult)
  /-- The drain of an exclusive self-test reaches DRAIN_MS (15 R477). -/
  | selftestDrainTimeout
  /-- A dispatched SYS_RESET runs (15 R474). -/
  | sysReset (id : CmdId)
  /-- A dispatched SEG_SYNC runs (03 R103). -/
  | segSync (id : CmdId)
  /-- A PROG_RUN whose runs have all ended, or which failed, completes (04 R136, R137). -/
  | progRun (id : CmdId)
  /-- The sequencer issues a PROG_NOP word (07 R227). -/
  | progNop (tile core : Nat)
  /-- The sequencer issues a PROG_LOOP word (04 R143). -/
  | progLoop (tile core : Nat)
  /-- The sequencer issues a PROG_ENDLOOP word (04 R143). -/
  | progEndloop (tile core : Nat)
  /-- The sequencer passes a PROG_DRAIN word (04 R155). -/
  | progDrain (tile core : Nat)
  /-- The core issues a MOV_LOAD (04 R155). -/
  | movLoad (tile core : Nat)
  /-- The core issues a MOV_STORE (04 R155). -/
  | movStore (tile core : Nat)
  /-- The core issues a MOV_COPY (04 R155). -/
  | movCopy (tile core : Nat)
  /-- The core issues a MOV_LS (04 R155). -/
  | movLs (tile core : Nat)
  /-- The core issues a MOV_ZERO (04 R155). -/
  | movZero (tile core : Nat)
  /-- The core issues an MX_WLOAD (06 R199). -/
  | mxWload (tile core : Nat)
  /-- The core issues an MX_STREAM (06 R205). -/
  | mxStream (tile core : Nat)
  /-- The SWAP of the MX_STREAM at the next word takes place (06 R200). -/
  | streamSwap (tile core : Nat)
  /-- The core issues a VX_EW (07 R236). -/
  | vxEw (tile core : Nat)
  /-- The core issues a VX_FUNC (07 R238). -/
  | vxFunc (tile core : Nat)
  /-- The core issues a VX_CMP (07 R236). -/
  | vxCmp (tile core : Nat)
  /-- The core issues a VX_SELECT (07 R236). -/
  | vxSelect (tile core : Nat)
  /-- The core issues a VX_CVT (05 R186). -/
  | vxCvt (tile core : Nat)
  /-- The core issues a VX_REDUCE (07 R239). -/
  | vxReduce (tile core : Nat)
  /-- The core issues a VX_NORM (07 R240). -/
  | vxNorm (tile core : Nat)
  /-- The core issues a VX_SOFTMAX (07 R241). -/
  | vxSoftmax (tile core : Nat)
  /-- The core issues a VX_ATTAR_SUM (07 R242). -/
  | vxAttarSum (tile core : Nat)
  /-- The core issues a VX_ATTAR_FROM (05 R185). -/
  | vxAttarFrom (tile core : Nat)
  /-- The core issues a VX_ATTAR_ROUND (07 R242). -/
  | vxAttarRound (tile core : Nat)
  /-- The core issues a GA_GATHER (08 R263). -/
  | gaGather (tile core : Nat)
  /-- The core issues a GA_BAG (08 R264). -/
  | gaBag (tile core : Nat)
  /-- The core issues a GA_SCATTER_ADD (08 R266). -/
  | gaScatterAdd (tile core : Nat)
  /-- The core issues a GA_SCATTER (08 R267). -/
  | gaScatter (tile core : Nat)
  /-- The last line of the row of index position `pos` arrives (08 R273). -/
  | rowArrival (tile core pos : Nat)
  /-- A run-ahead read of the row of position `pos` (08 R274). -/
  | runAheadRead (tile core pos : Nat)
  /-- A remote-gather request from package `src` for `len` bytes at an address of this package (08 R272). -/
  | remoteGatherRequest (src : Origin) (addr len : Nat)
  /-- An adder applies the accumulate in flight (08 R278). -/
  | accumulateApply (k : AddAt)
  /-- A residue or check failure of a core (06 R222). -/
  | paneCheckFault (tile core : Nat)
  /-- A Louvre slot of a die (06 R215). -/
  | louvreSlot (tile : Nat)
  /-- One step of a rising issue limit (06 R216). -/
  | issueLimitStep (tile core : Nat)
  /-- A keep-warm gap begins: eight cycles have passed without a real row; `rows` is the n of the 256 cycles before it (06 R213). -/
  | keepWarmGap (tile core rows : Nat)
  /-- 128 cycles passed with no row (06 R213). -/
  | coreCold (tile core : Nat)
  /-- A dispatched RED_ALLREDUCE runs; `faults` are the path computations that came out different (11 R358, R371). -/
  | redAllreduce (r : RedAt) (faults : List PathFault)
  /-- A dispatched RED_REDUCE_SCATTER runs (11 R358). -/
  | redReduceScatter (r : RedAt) (faults : List PathFault)
  /-- A dispatched RED_ALLGATHER runs (11 R358). -/
  | redAllgather (r : RedAt)
  /-- A dispatched RED_ALLTOALL runs (11 R358). -/
  | redAlltoall (r : RedAt)
  /-- A dispatched RED_BARRIER ends (11 R378). -/
  | redBarrier (r : RedAt)
  /-- A unit charged three times within 600 s is fenced (11 R373). -/
  | unitFence (u : ChargedUnit)
  /-- A dispatched TIER_LAYER_SCHEDULE runs (09 R310). -/
  | tierLayerSchedule (id : CmdId)
  /-- A dispatched TIER_QUOTA runs (09 R304). -/
  | tierQuota (id : CmdId)
  /-- A dispatched TIER_PIN runs (09 R306). -/
  | tierPin (id : CmdId)
  /-- A dispatched TIER_UNPIN runs (09 R307). -/
  | tierUnpin (id : CmdId)
  /-- A dispatched TIER_EVICT runs (09 R309). -/
  | tierEvict (id : CmdId)
  /-- A dispatched TIER_PREFETCH runs (09 R309). -/
  | tierPrefetch (id : CmdId)
  /-- A DECAY period ends (09 R299). -/
  | heatDecay
  /-- A SCAN period ends (09 R300). -/
  | tierScan
  /-- The tier engine copies the next sub-block of a page (09 R316). -/
  | migrationCopy (page : Nat)
  /-- The tier engine freezes and switches a page (09 R316). -/
  | migrationFreeze (page : Nat)
  /-- A write tagged with an older epoch arrives at the old placement (09 R317). -/
  | staleEpochForward (addr epoch : Nat) (data : List Byte)
  /-- A releasing direct page's count is zero (09 R295). -/
  | directPageRelease (page : Nat)
  /-- The 1 ms temperature reading of a stack, in °C (10 R333). -/
  | hbmTempRead (stack : Nat) (temp : Int)
  /-- A pseudo-channel serves its next queued read, `errs` bytes of the code word being in error (10 R329). -/
  | hbmReadServe (stack pc errs : Nat)
  /-- The oldest queued read has waited 2 µs (10 R329). -/
  | readAgePromote (stack pc : Nat)
  /-- A write enters a pseudo-channel's write queue (10 R330). -/
  | writeQueueEnter (addr : Nat) (data : List Byte)
  /-- A background scrub reads the line at a device address, `errs` bytes of its code word being in error (10 R328). -/
  | scrubRead (addr errs : Nat)
  /-- A home granule moves to a pool granule (10 R338). -/
  | granuleMove (granule : Nat)
  /-- A recalibration of a pseudo-channel starts (10 R343). -/
  | recalibration (stack pc : Nat) (cause : RecalCause)
  /-- A recalibration ends, reaching its margin or not (10 R343). -/
  | recalibrationDone (stack pc : Nat) (margin : Bool)
  /-- A map-out takes its next step (10 R347, R348). -/
  | mapoutGranuleStep (stack : MapoutAt)
  /-- An Ultur core load (03 R119). -/
  | hostLoad (tile ucore addr width : Nat) (kind : LoadOf)
  /-- An Ultur core store commits (03 R117). -/
  | hostStore (tile ucore addr width : Nat) (kind : StoreOf) (value : Word)
  /-- The oldest buffered store leaves the buffer (03 R118). -/
  | storeDrain (tile ucore : Nat)
  /-- The k-th tracked store is acknowledged (03 R118). -/
  | writeAck (tile ucore k : Nat)
  /-- A FENCE with W or O in its predecessor set (03 R121). -/
  | fence (tile ucore : Nat) (predW predO : Bool)
  /-- A remote or aperture request reaches SYS_CPL_TIMEOUT (03 R127). -/
  | completionTimeout (who : TimeoutOf)
  /-- A write to UBERR_INFO, or another access to the CSRs of its interrupt (03 R125). -/
  | uberrInfoWrite (tile ucore : Nat) (value : CsrOp)
  /-- A flit arrives (12 R385). -/
  | flitReceive (link : Nat) (flit : Flit)
  /-- A NAK naming a flit arrives (12 R385). -/
  | nakReceive (link seq : Nat)
  /-- 2 ms without a valid flit (12 R392). -/
  | linkSilenceTimeout (link : Nat)
  /-- The 10 ms training retry of a DOWN link (12 R391). -/
  | linkTrainingRetry (link : Nat) (signal : Bool)
  /-- Training ends with what the peer sent (12 R391). -/
  | linkTrainingDone (link : Nat) (peer : PeerInfo)
  /-- A write of 1 to LINK_CTRL.RETRAIN (12 R392). -/
  | linkRetrain (link : Nat)
  /-- A write to LINK_CTRL.ENABLE (12 R391). -/
  | linkEnable (link : Nat) (on : Bool)
  /-- A wavelength fails (12 R389). -/
  | wavelengthFailure (link : Nat) (wave : WaveFault)
  /-- A write to LASER_CTRL.DRAIN (12 R390). -/
  | laserDrain (module : Nat) (on : Bool)
  /-- Every replay buffer of the module's links is acknowledged (12 R390). -/
  | laserDrained (module : Nat)
  /-- A module has been seated for 50 ms; the mask of its working sources (16 R504). -/
  | laserModuleInsert (module sources : Nat)
  /-- A module is removed (12 R390). -/
  | laserModuleRemove (module : Nat)
  /-- A message for another package arrives or leaves (12 R386). -/
  | messageForward (msg : FwdMsg)
  /-- An RQ message arrives from package `src` (12 R387). -/
  | remoteRequest (src : Origin) (seq : Nat) (req : RemoteReq)
  /-- A write of 1 to GANG_MB.SEND; the target's answer (12 R397). -/
  | gangSend (answer : Nat)
  /-- An ASSIGN message (12 R394). -/
  | assign (link : Nat) (msg : List Byte)
  /-- An UNASSIGN message (12 R394). -/
  | unassign (link : Nat) (msg : List Byte)
  /-- A ROUTE message (12 R395). -/
  | route (link : Nat) (msg : List Byte)
  /-- A FORM message (12 R398). -/
  | form (link : Nat) (msg : List Byte)
  /-- A FORM_END message (12 R399). -/
  | formEnd (link : Nat) (msg : List Byte)
  /-- A JOIN message (12 R400). -/
  | join (link : Nat) (msg : List Byte)
  /-- A LEAVE message (12 R400). -/
  | leave (link : Nat) (msg : List Byte)
  /-- The leaving member's last in-flight work ends (12 R400). -/
  | leaveEffect (level pkg : Nat)
  /-- A DISSOLVE message (12 R398). -/
  | dissolve (link : Nat) (msg : List Byte)
  /-- A QUERY message (12 R398). -/
  | query (link : Nat) (msg : List Byte)
  /-- A REPLY message (12 R398). -/
  | reply (link : Nat) (msg : List Byte)
  /-- A DOWN message (12 R392). -/
  | down (link : Nat) (msg : List Byte)
  /-- A READY message (12 R399). -/
  | ready (link : Nat) (msg : List Byte)
  /-- A dispatched TIME_MARK executes (04 R157). -/
  | timeMark (id : CmdId)
  /-- A dispatched TIME_SOURCE executes; the reference's time where it has one (12 R402). -/
  | timeSource (id : CmdId) (reference : Option Word)
  /-- A 1PPS edge, stamped in station time before TIM_PPS_DELAY is subtracted (16 R500). -/
  | ppsEdge (stamp : Word)
  /-- The 10 MHz input is absent for 10 µs (12 R402). -/
  | ref10mLoss
  /-- A 1PPS edge is missing for 1.1 s (12 R402). -/
  | ppsMissing
  /-- A two-step Sync over a link (12 R406). -/
  | ptpSync (link : Nat) (sync : SyncMsg)
  /-- No Sync for 4 intervals (12 R402). -/
  | ptpSyncLoss
  /-- An Announce is sent (12 R406). -/
  | ptpAnnounce
  /-- A PTM dialogue, with the master time or failed (12 R402). -/
  | ptmDialogue (port : Nat) (master : Option Word)
  /-- The error bound reaches HOLD_NS (12 R404). -/
  | holdoverExpire
  /-- A write to TIM_EPOCH_S (12 R405). -/
  | timEpochWrite (value : Word)
  /-- A whole second of station time (16 R501). -/
  | ppsOutPulse
  /-- A host request through a BAR (12 R410). -/
  | hostTlp (port : Nat) (tlp : Tlp)
  /-- A port becomes host-down (12 R413, R414). -/
  | hostDown (port : HostLoss)
  /-- A link out of L0 for 1 ms (12 R413). -/
  | hostLinkLossTimeout (port : Nat)
  /-- A virtual-function reset (12 R414). -/
  | vfFlr (port vf : Nat)
  /-- A write to PCIE_EVT (12 R416). -/
  | pcieEvtWrite (port : Nat) (value : Word)
  /-- A hinge lane fails (13 R426). -/
  | laneFailure (edge dir lane : Nat)
  /-- A retrain begins after a lane failure (13 R427, R428). -/
  | hingeRetrain (edge : Nat) (training : Training)
  /-- A write of 1 to HINGE_CTRL.RETRAIN (13 R425). -/
  | hingeCtrlRetrain (edge : EdgeTraining)
  /-- The 10 µs readings of the buses, in mW: tiles 0 to 7, I/O dies 0 and 1 (14 R441). -/
  | powerMeasure (buses : List Nat)
  /-- The 50 µs controller run; the model's predicted package power in mW for l = 1 to 64 (14 R444). -/
  | powerControl (model : List Nat)
  /-- A whole second of station time begins (14 R443). -/
  | powerSecond
  /-- A dispatched PWR_LIMIT runs (14 R447). -/
  | pwrLimit (id : CmdId)
  /-- A dispatched PWR_IDLE runs (06 R211). -/
  | pwrIdle (id : CmdId)
  /-- A write to PWR_BMC_CAP or PWR_LIMIT (14 R443). -/
  | pwrBmcCapWrite (via : Via) (off : Nat) (value : Word)
  /-- The 50 µs readings of a tile, in eighths of a °C; 8 and 9 stand for I/O dies 0 and 1, which have no sill (14 R449, R454). -/
  | thermalRead (tile sill die : Nat)
  /-- The current guard of a tile trips (14 R452). -/
  | currentGuardTrip (tile : Nat)
  /-- The 100 µs of the guard end (14 R452). -/
  | currentGuardEnd (tile : Nat)
  /-- A domain's inputs have been good for 2 ms (14 R435). -/
  | domainPowerGood (dom : Domain)
  /-- A domain's input has been low for 10 µs (14 R437). -/
  | domainLost (dom : Domain)
  /-- A low pulse on PKG_RESET_N; `taken` decides a pulse of 1 to 10 µs (16 R496). -/
  | pkgReset (lowNs : Nat) (taken : Bool)
  /-- The current start stage completes its work (15 R464). -/
  | startStage (env : StageEnv)
  /-- The current start stage exceeds its bound (15 R464). -/
  | startStageTimeout
  /-- One second after a failed start (15 R467). -/
  | startRetry
  /-- The chief-steward watchdog expires (15 R469). -/
  | watchdog
  /-- A steward restarts and re-establishes the contexts it fetched for (03 R105). -/
  | stewardRestart (ctxs : List Nat)
  /-- A write of 1 to SEC_START_CTRL.CLEAR (15 R472). -/
  | clear
  /-- A write of 1 to SEC_START_CTRL.RESTART (15 R471). -/
  | restart
  /-- A write of 1 to SEC_FW_CTRL.START; what the check finds in the image (15 R482). -/
  | fwUpdateStart (img : ImageView)
  /-- The flash write and read-back end (15 R482). -/
  | fwUpdateDone (ok : Bool)
  /-- A write of 1 to SEC_FW_CTRL.COMMIT (15 R483). -/
  | commit
  /-- A write to SEC_MR_EXT_CTRL (15 R461). -/
  | mrExtend (value : Word)
  /-- A dispatched SEC_ATTEST runs (15 R462). -/
  | secAttest (id : CmdId)
  /-- A dispatched SEC_CERT runs (15 R463). -/
  | secCert (id : CmdId)
  /-- A write to FLT_HEAD (15 R488). -/
  | fltHeadWrite (value : Word)
  /-- An I3C private write (12 R396). -/
  | i3cPrivateWrite (addr offset : Nat) (data : Option Word)
  /-- An I3C private read (12 R396). -/
  | i3cPrivateRead (addr : Nat)
  /-- An I3C ENTDAA that assigns an address (12 R396). -/
  | entdaa (addr : Nat)
  /-- An I3C SETDASA (12 R396). -/
  | setdasa (static addr : Nat)
  /-- An I3C SETNEWDA (12 R396). -/
  | setnewda (old addr : Nat)
  /-- A JTAG instruction (16 R502). -/
  | bypass (die : Nat)
  /-- A JTAG instruction (16 R502). -/
  | idcode (die : Nat)
  /-- A JTAG instruction, with the pins sampled and the value preloaded (16 R502). -/
  | samplePreload (die pins preload : Nat)
  /-- A JTAG instruction (16 R503). -/
  | extest (die : Nat)
  /-- A JTAG instruction (16 R503). -/
  | extestPulse (die : Nat)
  /-- A JTAG instruction (16 R503). -/
  | extestTrain (die : Nat)
  /-- The re-read of a shard map (04 R132). -/
  | shardMapReread (ctx ring : Nat)
  /-- A hinge retrain ends (13 R425). -/
  | hingeRetrainDone (edge : Nat)
  /-- A port's link enters L0 (12 R416). -/
  | pcieLinkUp (port speed width : Nat) (cxl : Bool)
  /-- A machine check of an Ultur core (15 R478). -/
  | ulturMachineCheck (tile ucore : Nat)
  /-- A pseudo-channel's corrected-error rate is over the limit for 10 s (10 R344). -/
  | degradingErrorRate (stack pc : Nat)
  deriving DecidableEq, Repr

end Sys2Proof
end

