-- ==== Sys2Proof/Config.lean ====
section
/-! DEFINITION. What an implementation fixes and the manual leaves open: free values, all opaque (no body), so that no
proof can see what they are. -/

namespace Sys2Proof

/-- A fresh free value for each count (`State.free` is the count): bytes raced by unordered ops (04 R141), the choice
among colliding scatter lines (08 R267), random nonces (12 R394), the signature's random part (15 R462).
DESIGN CHOICE, log 3: safe, since nothing constrains it. -/
opaque Config.freeValue : Nat → Nat

/-- The implementation's fixed FP32 result of a vector function (07 R238: "one fixed function of the input"), before it
is held within the bound of the table. First argument: function number of TOP_IMM; second: FP32 code.
DESIGN CHOICE, log 6: safe. -/
opaque Config.vxFunc : Nat → Nat → Nat

/-- The row of a Sill frame that holds each of its 1,024 lines: the spec gives frames no row layout (09 R320).
DESIGN CHOICE, log 57: safe. -/
opaque Config.sillRow : Nat → BitVec 16

/-- A spare row can replace a failing row of a sill, by the sill, the frame, the row and how often the row has been replaced before
(09 R321): the spec does not say which. DESIGN CHOICE, log 57: safe. -/
opaque Config.sillSpare : Nat → Nat → Nat → Nat → Bool

/-- The SM2 identity private key that the derivation of 15 R460 gives from the identity source of I/O die 0, by the helper data: the spec gives
neither. DESIGN CHOICE, log 133: safe. -/
opaque Config.identityKey : List (BitVec 8) → Nat

/-- The IDCODE version field and the JEDEC manufacturer identity (16 R502), and the MIPI manufacturer ID (12 R396): the spec
gives no values. -/
opaque Config.jtagVersion : Nat
opaque Config.jedecId : Nat
opaque Config.mipiId : Nat

end Sys2Proof
end

