-- ==== Sys2Proof/Machine/Table.lean ====
section
/-! DEFINITION. Sparse data by number: lists of (key, value) pairs in one canonical form (keys strictly rising, no
entry equal to what an unlisted key reads as), and byte memory as the table of bytes whose unlisted byte is 0. -/

namespace Sys2Proof.Machine

/-- Sparse data: an unlisted key reads as the default that every operation is given. -/
abbrev Table (α : Type) := List (Nat × α)

/-- The value at a key. -/
def Table.get {α : Type} (d : α) : Table α → Nat → α
  | [], _ => d
  | (k, v) :: t, i => if k = i then v else Table.get d t i

/-- Set the value at a key; writing the default removes the entry. -/
def Table.put {α : Type} [DecidableEq α] (d : α) : Table α → Nat → α → Table α
  | [], i, v => if v = d then [] else [(i, v)]
  | (k, w) :: t, i, v =>
    if i < k then (if v = d then (k, w) :: t else (i, v) :: (k, w) :: t)
    else if i = k then (if v = d then t else (i, v) :: t)
    else (k, w) :: Table.put d t i v

/-- Change the value at a key. -/
def Table.upd {α : Type} [DecidableEq α] (d : α) (t : Table α) (i : Nat) (f : α → α) : Table α :=
  Table.put d t i (f (Table.get d t i))

/-- Every key of the table is at least `lo`, the keys rise strictly and no entry is the default. -/
def Table.wfFrom {α : Type} [DecidableEq α] (d : α) : Nat → Table α → Bool
  | _, [] => true
  | lo, (k, v) :: t => decide (lo ≤ k) && decide (v ≠ d) && Table.wfFrom d (k + 1) t

/-- The canonical form of a table. -/
def Table.wf {α : Type} [DecidableEq α] (d : α) (t : Table α) : Bool := Table.wfFrom d 0 t

/-- Byte memory: an unlisted byte reads as 0, which is the spec's own reset content of home memory (10 R337), of the
Sill and of the local stores (15 R464 stage TILES). -/
abbrev Memory := List Host.Cell

/-- One byte. -/
def Memory.byte (m : Memory) (a : Nat) : Byte := Table.get 0 m a

/-- The canonical form of a memory. -/
def Memory.wf (m : Memory) : Bool := Table.wf (0 : Byte) m

/-- `n` bytes from a memory whose first listed address is at least `a`. -/
def Memory.readGo : Nat → Memory → Nat → List Byte
  | 0, _, _ => []
  | n + 1, m, a =>
    match m with
    | [] => 0 :: Memory.readGo n [] (a + 1)
    | (k, v) :: t => if k = a then v :: Memory.readGo n t (a + 1) else 0 :: Memory.readGo n m (a + 1)

/-- `n` bytes from address `a` upward. -/
def Memory.read (m : Memory) (a n : Nat) : List Byte := Memory.readGo n (m.dropWhile (fun c => decide (c.1 < a))) a

/-- The listed cells of a run of bytes placed at `a`. -/
def Memory.cells : Nat → List Byte → Memory
  | _, [] => []
  | a, b :: bs => if b = 0 then Memory.cells (a + 1) bs else (a, b) :: Memory.cells (a + 1) bs

/-- Store a run of bytes at `a`. -/
def Memory.write (m : Memory) (a : Nat) (bs : List Byte) : Memory :=
  m.takeWhile (fun c => decide (c.1 < a)) ++ Memory.cells a bs
    ++ m.dropWhile (fun c => decide (c.1 < a + bs.length))

/-- `n` bytes of zero at `a`. -/
def Memory.clear (m : Memory) (a n : Nat) : Memory :=
  m.takeWhile (fun c => decide (c.1 < a)) ++ m.dropWhile (fun c => decide (c.1 < a + n))

end Sys2Proof.Machine
end

