-- ==== Sys2Proof/Machine/Numbers.lean ====
section
/-! DEFINITION. Element formats, exact values, the attar, rounding, MX blocks and the stochastic draw (chapter 05). -/

namespace Sys2Proof.Machine

/-- Element formats by their codes (04 R147). -/
inductive Fmt where
  | fp4 | int4 | mxFp4 | e4m3 | e5m2 | int8 | mxE4m3 | mxE5m2 | bf16 | fp16 | fp32 | attar
  | int32 | uint32 | uint64 | e8m0 | mask
  deriving DecidableEq, Repr

/-- The format of a code; all other codes are reserved (04 R147). -/
def Fmt.ofCode : Nat → Option Fmt
  | 0x01 => some .fp4 | 0x02 => some .int4 | 0x03 => some .mxFp4 | 0x04 => some .e4m3 | 0x05 => some .e5m2
  | 0x06 => some .int8 | 0x07 => some .mxE4m3 | 0x08 => some .mxE5m2 | 0x09 => some .bf16 | 0x0A => some .fp16
  | 0x0B => some .fp32 | 0x0C => some .attar | 0x0D => some .int32 | 0x0E => some .uint32 | 0x0F => some .uint64
  | 0x10 => some .e8m0 | 0x11 => some .mask
  | _ => none

/-- The code of a format (04 R147). -/
def Fmt.code : Fmt → Nat
  | .fp4 => 0x01 | .int4 => 0x02 | .mxFp4 => 0x03 | .e4m3 => 0x04 | .e5m2 => 0x05 | .int8 => 0x06
  | .mxE4m3 => 0x07 | .mxE5m2 => 0x08 | .bf16 => 0x09 | .fp16 => 0x0A | .fp32 => 0x0B | .attar => 0x0C
  | .int32 => 0x0D | .uint32 => 0x0E | .uint64 => 0x0F | .e8m0 => 0x10 | .mask => 0x11

/-- Bits per element (04 R147). -/
def Fmt.bits : Fmt → Nat
  | .fp4 | .int4 | .mxFp4 => 4
  | .e4m3 | .e5m2 | .int8 | .mxE4m3 | .mxE5m2 | .e8m0 | .mask => 8
  | .bf16 | .fp16 => 16
  | .fp32 | .int32 | .uint32 => 32
  | .uint64 => 64
  | .attar => 128

/-- The MX formats (05 R166). -/
def Fmt.isMx : Fmt → Bool
  | .mxFp4 | .mxE4m3 | .mxE5m2 => true
  | _ => false

/-- The element format inside an MX block (05 R166). -/
def Fmt.elem : Fmt → Fmt
  | .mxFp4 => .fp4
  | .mxE4m3 => .e4m3
  | .mxE5m2 => .e5m2
  | f => f

/-- A pane format class (05 R165). -/
inductive PaneClass where
  | c4 | c8 | c16
  deriving DecidableEq, Repr

/-- The pane class of a format (05 R165). -/
def Fmt.paneClass : Fmt → Option PaneClass
  | .fp4 | .int4 | .mxFp4 => some .c4
  | .e4m3 | .e5m2 | .int8 | .mxE4m3 | .mxE5m2 => some .c8
  | .bf16 | .fp16 => some .c16
  | _ => none

/-- K elements of one 128-byte activation row (06 R194). -/
def PaneClass.k : PaneClass → Nat
  | .c4 => 256 | .c8 => 128 | .c16 => 64

/-- Formats that a final rounding may target (05 R179). -/
def Fmt.isTarget : Fmt → Bool
  | .fp32 | .bf16 | .fp16 | .e4m3 | .e5m2 | .fp4 | .int32 | .int8 | .int4 | .mxE4m3 | .mxE5m2 | .mxFp4 => true
  | _ => false

/-- Non-MX formats that hold numbers: the formats of 05 R161 and the integers of R163 that may be a term. -/
def Fmt.isNumber : Fmt → Bool
  | .fp4 | .e4m3 | .e5m2 | .bf16 | .fp16 | .fp32 | .int4 | .int8 | .int32 => true
  | _ => false

/-- Fields of a floating-point format: exponent bits, mantissa bits, bias, has infinities, magnitude code of the first
value above the largest finite one (05 R161). -/
structure FloatFmt where
  ebits : Nat
  pbits : Nat
  bias  : Nat
  inf   : Bool
  top   : Nat
  deriving DecidableEq, Repr

/-- The table of 05 R161. -/
def Fmt.float : Fmt → Option FloatFmt
  | .fp4  => some ⟨2, 1, 1, false, 0x8⟩
  | .e4m3 => some ⟨4, 3, 7, false, 0x7F⟩
  | .e5m2 => some ⟨5, 2, 15, true, 0x7C⟩
  | .bf16 => some ⟨8, 7, 127, true, 0x7F80⟩
  | .fp16 => some ⟨5, 10, 15, true, 0x7C00⟩
  | .fp32 => some ⟨8, 23, 127, true, 0x7F800000⟩
  | _ => none

/-- An exact value: not a number, an infinity, or (−1)^neg × m × 2^e. -/
inductive Num where
  | nan
  | inf (neg : Bool)
  | fin (neg : Bool) (m : Nat) (e : Int)
  deriving DecidableEq, Repr

/-- +0. -/
def Num.zero : Num := .fin false 0 0

/-- The exact value of an integer. -/
def Num.ofInt (i : Int) : Num := .fin (decide (i < 0)) i.natAbs 0

/-- Decode an element code (05 R161 to R163). E8M0 decodes to its power of two; UINT and mask codes to their number. -/
def decodeElem (f : Fmt) (c : Nat) : Num :=
  match f.float with
  | some ff =>
    let neg := bit c (ff.ebits + ff.pbits)
    let mag := c % 2 ^ (ff.ebits + ff.pbits)
    let e := mag / 2 ^ ff.pbits
    let m := mag % 2 ^ ff.pbits
    if ff.top < mag ∨ (ff.top = mag ∧ ff.inf = false) then .nan
    else if mag = ff.top then .inf neg
    else if e = 0 then .fin neg m (1 - (ff.bias : Int) - ff.pbits)
    else .fin neg (m + 2 ^ ff.pbits) ((e : Int) - ff.bias - ff.pbits)
  | none =>
    match f with
    | .int4 => Num.ofInt (signed 4 (c % 16))
    | .int8 => Num.ofInt (signed 8 (c % 256))
    | .int32 => Num.ofInt (signed 32 (c % 2 ^ 32))
    | .e8m0 => if c = 0xFF then .nan else .fin false 1 ((c : Int) - 127)
    | _ => .fin false c 0

/-- The value of an MX element under the scale code that covers it (05 R166). -/
def mxValue (v : Num) (scale : Nat) : Num :=
  if scale = 0xFF then .nan
  else match v with
    | .fin s m e => .fin s m (e + (scale : Int) - 127)
    | v => v

/-- The exact product (05 R172, R174): infinity times zero is not a number. -/
def Num.mul : Num → Num → Num
  | .nan, _ => .nan
  | _, .nan => .nan
  | .inf a, .inf b => .inf (a != b)
  | .inf a, .fin b m _ => if m = 0 then .nan else .inf (a != b)
  | .fin a m _, .inf b => if m = 0 then .nan else .inf (a != b)
  | .fin a m e, .fin b n f => .fin (a != b) (m * n) (e + f)

/-- The signed integer of a finite value at exponent `e0`, which is at most its own. -/
def alignTo (e0 : Int) (neg : Bool) (m : Nat) (e : Int) : Int :=
  let v : Int := (m * 2 ^ (e - e0).toNat : Nat)
  if neg then -v else v

/-- The exact sum. Opposite infinities give not-a-number. A zero sum is +0 unless both are −0. -/
def Num.add : Num → Num → Num
  | .nan, _ => .nan
  | _, .nan => .nan
  | .inf a, .inf b => if a = b then .inf a else .nan
  | .inf a, .fin _ _ _ => .inf a
  | .fin _ _ _, .inf b => .inf b
  | .fin a m e, .fin b n f =>
    let e0 := min e f
    let s := alignTo e0 a m e + alignTo e0 b n f
    if s = 0 then .fin (a && b && decide (m = 0) && decide (n = 0)) 0 0
    else .fin (decide (s < 0)) s.natAbs e0

/-- The value with its sign reversed. -/
def Num.neg : Num → Num
  | .nan => .nan
  | .inf a => .inf (!a)
  | .fin a m e => .fin (!a) m e

/-- `x < y` for two finite values, with −0 equal to +0. -/
def finLt (a : Bool) (m : Nat) (e : Int) (b : Bool) (n : Nat) (f : Int) : Bool :=
  let e0 := min e f
  decide (alignTo e0 a m e < alignTo e0 b n f)

/-- `x < y`; false with a not-a-number. -/
def Num.lt : Num → Num → Bool
  | .nan, _ => false
  | _, .nan => false
  | .inf a, .inf b => a && !b
  | .inf a, .fin _ _ _ => a
  | .fin _ _ _, .inf b => !b
  | .fin a m e, .fin b n f => finLt a m e b n f

/-- Equality of value; false with a not-a-number. -/
def Num.eq (x y : Num) : Bool :=
  match x, y with
  | .nan, _ => false
  | _, .nan => false
  | x, y => !Num.lt x y && !Num.lt y x

/-- The value is finite. -/
def Num.isFinite : Num → Bool
  | .fin _ _ _ => true
  | _ => false

/-- The value is a zero with a sign. -/
def Num.isZero : Num → Bool
  | .fin _ m _ => decide (m = 0)
  | _ => false

/-- The sign bit of a value. -/
def Num.signBit : Num → Bool
  | .fin s _ _ => s
  | .inf s => s
  | .nan => false

/-- IEEE 754-2019 maximum (05 R189): not-a-number if any operand is, −0 below +0. -/
def Num.max (x y : Num) : Num :=
  match x, y with
  | .nan, _ => .nan
  | _, .nan => .nan
  | x, y => if x.isZero && y.isZero then (if x.signBit then y else x) else if Num.lt x y then y else x

/-- IEEE 754-2019 minimum (05 R189). -/
def Num.min (x y : Num) : Num :=
  match x, y with
  | .nan, _ => .nan
  | _, .nan => .nan
  | x, y => if x.isZero && y.isZero then (if x.signBit then x else y) else if Num.lt y x then y else x

/-! ### Rounding (05 R180) -/

/-- Rounding mode. -/
inductive Mode where
  | rne | sr
  deriving DecidableEq, Repr

/-- A positive rational magnitude p / q × 2^e. -/
structure Mag where
  p : Nat
  q : Nat
  e : Int
  deriving DecidableEq, Repr

/-- ⌊log₂⌋ of a positive magnitude. -/
def Mag.log2 (v : Mag) : Int :=
  let l : Int := (v.p.log2 : Int) - v.q.log2
  let ge : Bool := if l ≥ 0 then decide (v.p ≥ v.q * 2 ^ l.toNat) else decide (v.p * 2 ^ (-l).toNat ≥ v.q)
  (if ge then l else l - 1) + v.e

/-- The magnitude in units of 2^u: numerator and denominator. -/
def Mag.inUnits (v : Mag) (u : Int) : Nat × Nat :=
  let d := v.e - u
  if d ≥ 0 then (v.p * 2 ^ d.toNat, v.q) else (v.p, v.q * 2 ^ (-d).toNat)

/-- Whether a value `num / den` between `n` and `n + 1` rounds up to `n + 1` (05 R180 steps 3 to 5). `toTop` says that
`n + 1` is the value H above the largest finite one, to which a tie goes. -/
def roundsUp (mode : Mode) (draw : Nat) (n num den : Nat) (toTop : Bool) : Bool :=
  let r := num - n * den
  match mode with
  | .rne => if r = 0 then false else if 2 * r > den then true else if 2 * r < den then false else toTop || decide (n % 2 = 1)
  | .sr => if r = 0 then false else decide (r * 2 ^ 32 / den + draw ≥ 2 ^ 32)

/-- Round a positive magnitude into a floating-point format: the magnitude code, at most `top` (05 R180 steps 2 to 5). -/
def roundFloatMag (ff : FloatFmt) (mode : Mode) (draw : Nat) (v : Mag) : Nat :=
  let emin : Int := 1 - (ff.bias : Int)
  let ex := max v.log2 emin
  let u := ex - ff.pbits
  let (num, den) := v.inUnits u
  let n := num / den
  -- consecutive magnitudes have consecutive codes; `base` is the code of the value 0 × 2^u in this binade
  let base := (ex - emin).toNat * 2 ^ ff.pbits
  if n + base ≥ ff.top then ff.top
  else if roundsUp mode draw n num den (decide (n + base + 1 = ff.top)) then n + base + 1 else n + base

/-- Round a positive magnitude to an integer (05 R180). -/
def roundIntMag (mode : Mode) (draw : Nat) (v : Mag) : Nat :=
  let (num, den) := v.inUnits 0
  let n := num / den
  if roundsUp mode draw n num den false then n + 1 else n

/-- A floating-point code from sign and magnitude code, with H replaced (05 R180 step 7). -/
def floatCode (ff : FloatFmt) (neg : Bool) (mag : Nat) : Nat :=
  let mag := if mag ≥ ff.top ∧ ff.inf = false then ff.top - 1 else mag
  mag + flagAt neg (ff.ebits + ff.pbits)

/-- An integer code of `w` bits, clamped to the range (05 R180 step 7). -/
def intCode (w : Nat) (neg : Bool) (mag : Nat) : Nat :=
  if neg then unsigned w (-(min mag (2 ^ (w - 1)) : Nat) : Int) else min mag (2 ^ (w - 1) - 1)

/-- Integer widths of the integer formats. -/
def Fmt.intBits : Fmt → Nat
  | .int4 => 4 | .int8 => 8 | _ => 32

/-- The code of not-a-number in a non-MX target (05 R164, R181). -/
def nanCode : Fmt → Nat
  | .fp32 => 0x7FC00000 | .bf16 => 0x7FC0 | .fp16 => 0x7E00 | .e5m2 => 0x7E | .e4m3 => 0x7F | .fp4 => 0xF
  | f => 2 ^ (f.intBits - 1)

/-- The code of an infinite or saturated value in a non-MX target (05 R181). -/
def infCode (f : Fmt) (neg : Bool) : Nat :=
  match f.float with
  | some ff => floatCode ff neg ff.top
  | none => if neg then 2 ^ (f.intBits - 1) else 2 ^ (f.intBits - 1) - 1

/-- Round a signed rational value once into a non-MX target (05 R180). -/
def roundMag (f : Fmt) (mode : Mode) (draw : Nat) (neg : Bool) (v : Mag) : Nat :=
  if v.p = 0 then 0
  else match f.float with
    | some ff => floatCode ff neg (roundFloatMag ff mode draw v)
    | none => intCode f.intBits neg (roundIntMag mode draw v)

/-- Round an exact value once into a non-MX target (05 R180, R181, R186). -/
def roundNum (f : Fmt) (mode : Mode) (draw : Nat) : Num → Nat
  | .nan => nanCode f
  | .inf neg => infCode f neg
  | .fin neg m e => roundMag f mode draw neg ⟨m, 1, e⟩

/-! ### The attar (05 R169 to R175) -/

/-- An attar: a numeric 128-bit integer or a marker (05 R171). -/
inductive Attar where
  | num (w : Int)
  | satP
  | satN
  | nar
  deriving DecidableEq, Repr

/-- Decode the 128-bit code (05 R171). -/
def Attar.ofCode (c : Nat) : Attar :=
  if c = 2 ^ 127 - 1 then .satP
  else if c = 2 ^ 127 + 1 then .satN
  else if c = 2 ^ 127 then .nar
  else .num (signed 128 c)

/-- The 128-bit code (05 R171). -/
def Attar.toCode : Attar → Nat
  | .satP => 2 ^ 127 - 1
  | .satN => 2 ^ 127 + 1
  | .nar => 2 ^ 127
  | .num w => unsigned 128 w

/-- The value is SAT+ or SAT− (05 R171). -/
def Attar.isSat : Attar → Bool
  | .satP => true
  | .satN => true
  | _ => false

/-- The value is a marker. -/
def Attar.isMarker : Attar → Bool
  | .num _ => false
  | _ => true

/-- A term enters the window of anchor `a` (05 R173, R174). -/
def enter (a : Int) : Num → Attar
  | .nan => .nar
  | .inf neg => if neg then .satN else .satP
  | .fin neg m e =>
    let sh := e - (a - 95)
    let mag := if sh ≥ 0 then (if m = 0 then 0 else m * 2 ^ sh.toNat) else m / 2 ^ (-sh).toNat
    if mag ≥ 2 ^ 96 then (if neg then .satN else .satP) else .num (if neg then -(mag : Int) else mag)

/-- The largest numeric |W|. -/
def attarMax : Int := 2 ^ 127 - 2

/-- The sum of two attars of one anchor (05 R175). -/
def Attar.add : Attar → Attar → Attar
  | .nar, _ => .nar
  | _, .nar => .nar
  | .satP, .satN => .nar
  | .satN, .satP => .nar
  | .satP, _ => .satP
  | _, .satP => .satP
  | .satN, _ => .satN
  | _, .satN => .satN
  | .num x, .num y =>
    if x + y > attarMax then .satP else if x + y < -attarMax then .satN else .num (x + y)

/-- Whether an addition saturates (05 R191): it makes a marker from numeric values, or NAR from SAT+ and SAT−, or it
reads a SAT marker. -/
def Attar.addSaturates (x y : Attar) : Bool := x.isSat || y.isSat || (Attar.add x y).isSat

/-- The exact value of an attar of anchor `a` (05 R169); markers as an infinity or not-a-number (05 R181). -/
def Attar.value (a : Int) : Attar → Num
  | .num w => .fin (decide (w < 0)) w.natAbs (a - 95)
  | .satP => .inf false
  | .satN => .inf true
  | .nar => .nan

/-- Round an attar once into a non-MX target (05 R180, R181). -/
def Attar.round (f : Fmt) (mode : Mode) (draw : Nat) (a : Int) (x : Attar) : Nat := roundNum f mode draw (x.value a)

/-- Round the exact quotient of an attar by a positive integer (05 R187). -/
def Attar.roundDiv (f : Fmt) (mode : Mode) (draw : Nat) (a : Int) (n : Nat) : Attar → Nat
  | .num w => roundMag f mode draw (decide (w < 0)) ⟨w.natAbs, n, a - 95⟩
  | x => x.round f mode draw a

/-! ### MX targets (05 R182) -/

/-- The largest binade of an MX element format. -/
def mxEmax : Fmt → Int
  | .mxFp4 => 2 | .mxE4m3 => 8 | _ => 15

/-- ⌊log₂⌋ of the largest magnitude of a block, none if all are zero. -/
def blockLog2 : List Num → Option Int
  | [] => none
  | .fin _ m e :: t =>
    let r := blockLog2 t
    if m = 0 then r
    else
      let l := (m.log2 : Int) + e
      match r with
      | none => some l
      | some k => some (max l k)
  | _ :: t => blockLog2 t

/-- Round one block of values into an MX target: the scale code and the element codes (05 R182). `draw k` is the draw
of element `k` of the block. -/
def roundBlock (f : Fmt) (mode : Mode) (draw : Nat → Nat) (vs : List Num) : Nat × List Nat :=
  if vs.any (fun v => match v with | .fin _ _ _ => false | _ => true) then (0xFF, vs.map (fun _ => 0))
  else
    match blockLog2 vs with
    | none => (0, vs.map (fun _ => 0))
    | some l =>
      let k := l - mxEmax f
      let e : Nat := (min 254 (max 0 (k + 127))).toNat
      let one (iv : Num × Nat) : Nat :=
        match iv.1, f.elem.float with
        | .fin neg m ex, some ff =>
          let c := if m = 0 then 0 else roundFloatMag ff mode (draw iv.2) ⟨m, 1, ex + 127 - e⟩
          if m = 0 then 0 else min c (ff.top - 1) + flagAt neg (ff.ebits + ff.pbits)
        | _, _ => 0
      (e, vs.zipIdx.map one)

/-! ### The stochastic draw (05 R183, R184) -/

/-- Reduction modulo 2⁶⁴. -/
def m64 (x : Nat) : Nat := x % 2 ^ 64

/-- The mixing function (05 R183). -/
def mix (x : Nat) : Nat :=
  let x := m64 (x + 0x9E3779B97F4A7C15)
  let x := m64 ((x ^^^ (x / 2 ^ 30)) * 0xBF58476D1CE4E5B9)
  let x := m64 ((x ^^^ (x / 2 ^ 27)) * 0x94D049BB133111EB)
  x ^^^ (x / 2 ^ 31)

/-- Where a draw is made: the seed, the word, the run index and the loop counters (05 R184). -/
structure DrawAt where
  seed : Nat := 0
  w    : Nat := 0
  i    : Nat := 0
  l    : List Nat := []
  deriving DecidableEq, Repr

/-- The 32-bit draw of the element of logical index `e` (05 R183). -/
def DrawAt.draw (d : DrawAt) (e : Nat) : Nat :=
  let l (k : Nat) := d.l.getD k 0
  let h := mix (m64 d.seed)
  let h := mix (h ^^^ m64 (d.w * 2 ^ 40 ||| d.i))
  let h := mix (h ^^^ m64 (l 1 * 2 ^ 32 ||| l 0))
  let h := mix (h ^^^ m64 (l 3 * 2 ^ 32 ||| l 2))
  let h := mix (h ^^^ m64 e)
  h / 2 ^ 32

/-! ### FP32 arithmetic in round to nearest even (05 R189, 07 R239) -/

/-- Round to FP32 in RNE and take the value again. -/
def toFp32 (v : Num) : Nat := roundNum .fp32 .rne 0 v

/-- The value of an FP32 code. -/
def fp32 (c : Nat) : Num := decodeElem .fp32 c

/-- FP32 addition. -/
def addFp32 (x y : Nat) : Nat := toFp32 (Num.add (fp32 x) (fp32 y))

/-- FP32 subtraction. -/
def subFp32 (x y : Nat) : Nat := toFp32 (Num.add (fp32 x) (Num.neg (fp32 y)))

/-- FP32 multiplication. -/
def mulFp32 (x y : Nat) : Nat := toFp32 (Num.mul (fp32 x) (fp32 y))

/-- The correctly rounded FP32 quotient; x / 0 is an infinity, 0 / 0 and infinity / infinity are not a number. -/
def divFp32 (x y : Nat) : Nat :=
  match fp32 x, fp32 y with
  | .nan, _ => nanCode .fp32
  | _, .nan => nanCode .fp32
  | .inf _, .inf _ => nanCode .fp32
  | .inf a, .fin b _ _ => infCode .fp32 (a != b)
  | .fin a _ _, .inf b => flagAt (a != b) 31
  | .fin a m e, .fin b n f =>
    if n = 0 then (if m = 0 then nanCode .fp32 else infCode .fp32 (a != b))
    else if m = 0 then flagAt (a != b) 31
    else roundMag .fp32 .rne 0 (a != b) ⟨m, n, e - f⟩

end Sys2Proof.Machine
end

