-- ==== Sys2Proof/Machine/State.lean ====
section
/-! DEFINITION. The state of the package as plain data: every register, queue, buffer, counter, mode and pin that the
spec gives it, with the reset value of each as its default, and the queue of waiting commands. -/

namespace Sys2Proof.Machine

/-- Why a command stops the machine. No command of this block does: every row of the table has an effect, or none in
states where its event cannot happen. The type is kept for the interface. -/
inductive Fault where
  /-- Raised by no meaning. Safe. -/
  | unused
  deriving DecidableEq, Repr

/-- Why a command is refused. -/
inductive Refusal where
  /-- Raised by an arm of `exec` whose command has no meaning yet. Safe: no statement about it can be proved. -/
  | notModelled (mnemonic : String)
  deriving DecidableEq, Repr

/-! ### Identity and time -/

/-- The variants (00 R1). -/
inductive Variant where
  | f8 | f6 | f8l
  deriving DecidableEq, Repr

/-- Station time and the arithmetic clock (00 R13, 06 R217, 12 R401, R405). -/
structure Clock where
  /-- AC cycles since the cores left reset. -/
  ac   : Nat := 0
  /-- TIM_NOW: station time in ns. -/
  now  : Nat := 0
  /-- Thirteenths of a nanosecond not yet counted in `now`; one AC cycle is 10 of them. -/
  sub  : Nat := 0
  /-- Correction still to be slewed, in ns (12 R405). -/
  slew : Int := 0
  /-- Nanoseconds passed since the pending correction last moved station time by 1 ns (12 R405). -/
  slewNs : Nat := 0
  deriving DecidableEq, Repr

/-! ### Contexts (02, 03, 07) -/

/-- A context: disabled, enabled, or being disabled under R30. -/
inductive CtxPhase where
  | disabled | enabled | disabling
  deriving DecidableEq, Repr

/-- What ENABLE keeps of the context descriptor (02 R31, 03 R98, 07 R248). -/
structure CtxDesc where
  ver       : Nat := 0
  kind      : Nat := 0
  index     : Nat := 0
  cqLog2    : Nat := 0
  cqBase    : Nat := 0
  waitMs    : Nat := 0
  msiAddr   : Nat := 0
  msiData   : Nat := 0
  evtData   : Nat := 0
  segHost   : Nat := 0
  segMirror : Nat := 0
  segFault  : Nat := 0
  segGen0   : Nat := 0
  segRing   : Nat := 0
  preemptEvt : Bool := false
  deriving DecidableEq, Repr

/-- What a re-read is of (02 R36, 04 R132). -/
inductive Reread where
  | desc | image | shardMap
  deriving DecidableEq, Repr

/-- Where the fetcher stands in a ring (02 R46 to R48): served in its turn, waiting to re-read a slot (`tries` re-reads
done), waiting to re-read descriptor blocks, an image or a shard map of the packet it has read (with the blocks or image and
the shard maps it has already got), or stopped by AHEAD. -/
inductive FetchState where
  | ready
  | slot (tries : Nat)
  | reread (what : Reread) (tries : Nat) (pkt : List Byte) (kept : List (List Byte)) (maps : Table (List Nat))
  | ahead
  deriving DecidableEq, Repr

/-- A submission ring (02 R31, R40). -/
structure Ring where
  en    : Bool := false
  base  : Nat := 0
  log2  : Nat := 0
  tail  : BitVec 32 := 0
  head  : BitVec 32 := 0
  fetch : FetchState := .ready
  deriving DecidableEq, Repr

/-- A context token (02 R54). -/
structure Token where
  count  : BitVec 32 := 0
  poison : Bool := false
  deriving DecidableEq, Repr

/-- A segment entry: its four 8-byte words (03 R95); the fields are named in Ops.lean. -/
structure Seg where
  w0 : Nat := 0
  w1 : Nat := 0
  w2 : Nat := 0
  w3 : Nat := 0
  deriving DecidableEq, Repr

/-- The outcome of a command: status, DETAIL and the two counters (02 R64). -/
structure CmdResult where
  status : Nat := 0
  detail : Nat := 0
  countA : Nat := 0
  countB : Nat := 0
  deriving DecidableEq, Repr

/-- A command in flight: waiting to be ready and dispatched, running, or finished (02 R52, R67). -/
inductive CmdPhase where
  | waiting
  | running
  | finished (r : CmdResult)
  deriving DecidableEq, Repr

/-- The program image the device keeps (04 R132): words, maps and operand descriptors as blocks of bytes. A single
tile-op command is kept as an image of one word (04 R153). -/
structure Image where
  words : List (List Byte) := []
  maps  : List (List Byte) := []
  descs : List (List Byte) := []
  deriving DecidableEq, Repr

/-- The first failure of a command with runs (04 R136). -/
structure Failure where
  time   : Nat
  inst   : Nat
  status : Nat
  detail : Nat
  deriving DecidableEq, Repr

/-- A command in the in-flight window, or one held outside it under 02 R50 and R67. -/
structure Entry where
  ring     : Nat := 0
  seq      : Nat := 0
  /-- Holds a window slot (02 R49, R50). -/
  windowed : Bool := true
  pkt      : List Byte := []
  descs    : List (List Byte) := []
  image    : Image := {}
  /-- Shard maps read at acceptance, by descriptor index (08 R255). -/
  shards   : Table (List Nat) := []
  /-- The segments under which the command was accepted (03 R104). -/
  segs     : List Seg := []
  accepted : Nat := 0
  /-- Order of acceptance in the package (02 R59). -/
  order    : Nat := 0
  /-- Station time at which the wait condition first held (02 R54, R58). -/
  waitDone : Option Nat := none
  depFailed : Bool := false
  released : Bool := true
  readyAt  : Option Nat := none
  late     : Bool := false
  phase    : CmdPhase := .waiting
  /-- Runs started and not to be started again, runs that ended, and runs that ran to their last word (04 R135, R137). -/
  started  : List Nat := []
  ended    : Nat := 0
  complete : Nat := 0
  failure  : Option Failure := none
  /-- Station time of its dispatch. -/
  startedAt : Nat := 0
  sat      : Bool := false
  /-- Rows returned as zero or dropped under ZERO; output rows or accumulates of a GA command (08 R268). -/
  zeroRows : Nat := 0
  outRows  : Nat := 0
  /-- Direct pages held (09 R295). -/
  direct   : List Nat := []
  /-- The gang members it was accepted with (12 R400). -/
  members  : List Nat := []
  /-- Its work has begun and waits: a reduction or copy has asked for the lines that it reads (10 R328, R329), a SYS_RESET runs (15
  R475). -/
  asked    : Bool := false
  deriving DecidableEq, Repr

/-- The step count and period of a reduction tensor (11 R365). -/
structure RedTensor where
  period : Nat := 0
  count  : Nat := 0
  deriving DecidableEq, Repr

/-- A layer of a schedule: its first byte address and size (09 R310). -/
structure Layer where
  addr  : Nat
  bytes : Nat
  /-- Its segment's policy lets a schedule place its pages (09 R296). -/
  places : Bool := true
  deriving DecidableEq, Repr

/-- A context (02, 03, 07, 09, 11). -/
structure Ctx where
  phase   : CtxPhase := .disabled
  desc    : CtxDesc := {}
  rings   : List Ring := List.replicate 16 {}
  cqHead  : BitVec 32 := 0
  cqTail  : BitVec 32 := 0
  cqArm   : BitVec 32 := 0
  armed   : Bool := false
  event   : Nat := 0
  tokens  : Table Token := []
  gen     : BitVec 32 := 0
  segs    : List Seg := List.replicate 16 {}
  /-- CRC-32C of the mirror at the last SEG_SYNC that installed it (03 R103). -/
  mirrorCrc : Option Nat := none
  pend    : Nat := 0
  /-- SEG_SYNC accepted and not complete (03 R102). -/
  syncing : Bool := false
  /-- Records go to the FLT log (02 R68). -/
  cqLost  : Bool := false
  /-- Ring whose turn comes next within the context (02 R46). -/
  nextRing : Nat := 0
  entries : List Entry := []
  /-- Finished commands whose records wait for room, by ring and SEQ, in the order in which they finished (02 R67). -/
  held    : List (Nat × Nat) := []
  tensors : Table RedTensor := []
  layers  : List Layer := []
  /-- The schedule's current layer (09 R310); the number of layers before any demand access has touched one. -/
  layer   : Nat := 0
  /-- Quota in 64 KiB pages (09 R304). -/
  quota   : Nat := 0
  /-- What a SEG_SYNC replaced whose record is not written yet: segments, CRC and generation (03 R103). -/
  replaced : Option (List Seg × Option Nat × BitVec 32) := none
  /-- The steward that serves the context, 2 × tile and 0 or 1 (01 R22; log 19). -/
  steward : Option Nat := none
  deriving DecidableEq, Repr

/-! ### Matrix cores (04, 06, 07, 08) -/

/-- A weight set (06 R198, R199): none is the +0 set. -/
structure WeightSet where
  fmt    : Option Fmt := none
  data   : List Byte := []
  scales : List Byte := []
  src    : Nat := 0
  scl    : Option Nat := none
  /-- Some byte of its source was written since the load (06 R218). -/
  srcWritten : Bool := false
  /-- Number of its MX_WLOAD on the MX engine (04 R141). -/
  num    : Nat := 0
  deriving DecidableEq, Repr

/-- The partial held in the sash (06 R204): its identity, its rows as attar codes, and whether it is dirty. -/
structure Sash where
  off    : Nat
  cols   : Nat
  rows   : Nat
  stride : Int
  anchor : Int
  dirty  : Bool
  vals   : List (List Nat)
  deriving DecidableEq, Repr

/-- One index position of a GA op: the row's address (none is a zero or dropped row), whether its lines have been requested,
whether it has arrived and its bytes, and the output row or bag it belongs to. -/
structure GaPos where
  index   : Nat
  addr    : Option Nat
  weight  : Nat := 0x3F800000
  out     : Nat := 0
  asked   : Bool := false
  arrived : Bool := false
  data    : List Byte := []
  /-- When its row was requested (03 R126). -/
  askedAt : Nat := 0
  deriving DecidableEq, Repr

/-- An op in the gather engine (08 R263, R264, R280): its positions and the outputs written; of a scatter, what a stop after each of its
groups would save: the position of a window's first contribution and the window's entries sent (08 R281), the accumulates of each group,
and the indices of the contributions written. -/
structure GaOp where
  poss    : List GaPos := []
  outs    : Nat := 0
  written : List Nat := []
  groups  : List (Nat × Nat) := []
  lines   : List Nat := []
  wrote   : List Nat := []
  deriving DecidableEq, Repr

/-- What is known of the ops of each engine to be over, in the order MX, vector, copy, gather: the ops that have completed, and the
tiles done of the one after them (04 R139 to R142). -/
abbrev Known := List (Nat × Nat)

/-- An access to the local store that an op made, or its tile `tile`: what it read and wrote, the memory it wrote, whether it loaded
weights, and the number of the load whose weights it used (04 R141). -/
structure Past where
  eng    : Engine
  num    : Nat
  tile   : Nat
  reads  : List (Nat × Nat)
  writes : List (Nat × Nat)
  mem    : List (Nat × Nat)
  loads  : Bool := false
  uses   : Nat := 0
  deriving DecidableEq, Repr

/-- What a core's panes had issued when a stream's rows began: the counters, the cycles and the issue limit of its core, and the AC cycle
(06 R213, R217). -/
structure PaneTrack where
  rows      : BitVec 64 := 0
  dummy     : BitVec 64 := 0
  warm      : Bool := false
  admitted  : Bool := false
  gap       : Option (Nat × Nat × Nat) := none
  recent    : List Nat := []
  nextRow   : Nat := 0
  lastDummy : Option Nat := none
  limit     : Nat := 64
  ac        : Nat := 0
  deriving DecidableEq, Repr

/-- What an op's rows replaced, for a stop part-way through them (07 R243): the local store, its tags, the memory rows of C and the sash as
they were; of the two weight sets their loads and whether their sources had been written; the panes; and the first row. -/
structure Before where
  ls    : Memory := []
  tags  : List Nat := []
  mem   : List (List (Nat × List Byte)) := []
  sash  : Option Sash := none
  sets  : List (Nat × Bool) := []
  panes : PaneTrack := {}
  row0  : Nat := 0
  deriving DecidableEq, Repr

/-- A tile-op issued and not completed (04 R139; 07 R244). -/
structure OpRec where
  word   : Nat
  eng    : Engine
  loops  : List Nat
  /-- Its number on its engine, from 1, and the ops that it comes after (04 R141). -/
  num    : Nat := 0
  known  : Known := []
  /-- Local-store bytes the op has still to read and to write, as (first, count) (04 R141). -/
  reads  : List (Nat × Nat) := []
  writes : List (Nat × Nat) := []
  /-- Memory the op wrote, as (physical address, count) (04 R141). -/
  mem    : List (Nat × Nat) := []
  /-- The engine has started the op (04 R139); for an MX_STREAM with SWAP, the swap has taken place (06 R200). -/
  started : Bool := false
  swapped : Bool := false
  /-- Rows, and rows done, of an op without TILE_STEP over rows; groups sent of a scatter (07 R243). -/
  rows   : Nat := 0
  row    : Nat := 0
  /-- What its rows replaced, and the position and the vector lane sums of its last stop (07 R243, R244). -/
  before : Before := {}
  pos    : Nat := 0
  lanes  : List Byte := []
  /-- TILE_STEP: the next tile and the tile count (04 R142). -/
  tile   : Nat := 0
  tiles  : Nat := 0
  /-- When the op began to wait for a tile's count (04 R140). -/
  waitSince : Option Nat := none
  ga     : Option GaOp := none
  /-- Accumulates of this op sent and not acknowledged (08 R273). -/
  accs   : Nat := 0
  /-- A tile's signal is to be made once the tile's reads are served (04 R142). -/
  sigDue : Bool := false
  /-- When a signal of this op began to be held by a full token (04 R140). -/
  sigSince : Option Nat := none
  /-- The signal of its completion, held by a full token, has been made (04 R140). -/
  signalled : Bool := false
  /-- The op failed, or was ended under R136. -/
  failed : Bool := false
  /-- Home pages to release at completion under LASTUSE (09 R298). -/
  lastUse : List Nat := []
  deriving DecidableEq, Repr

/-- An open loop: the word that opened it, its trip count and its counter (04 R143). -/
structure Loop where
  word  : Nat
  trips : Nat
  count : Nat
  deriving DecidableEq, Repr

/-- A run of a command on a core (07 R226): control state, its local-store bytes and tags, and its panes' state. -/
structure Inst where
  cmd     : CmdId
  index   : Nat
  prio    : Nat := 0
  pc      : Nat := 0
  loops   : List Loop := []
  tokens  : List Nat := List.replicate 16 0
  /-- The count that the held word waits on has been taken (04 R140). -/
  taken   : Bool := false
  /-- When the hold of the next word at a token began (04 R140). -/
  holdSince : Option Nat := none
  ops     : List OpRec := []
  /-- Ops issued to each engine, what the next word comes after, what each count of each token tells of ops that are over, oldest
  first, and the accesses that later ops may still be unordered with, oldest first (04 R141). -/
  issued  : List Nat := [0, 0, 0, 0]
  known   : Known := []
  /-- What the ops of each engine have taken counts after, which its later ops come after too (04 R139, R141). -/
  engKnown : List Known := [[], [], [], []]
  told    : List (List Known) := List.replicate 16 []
  past    : List Past := []
  ls      : Memory := []
  /-- Lines of the local store tagged with this instance, rising (07 R230). -/
  tags    : List Nat := []
  /-- Tagged lines that stand in the spill frame (07 R243). -/
  spilled : List Nat := []
  /-- Spilled lines that read uncorrectable in the spill frame (07 R247). -/
  badFrame : List Nat := []
  /-- Local-store lines that read uncorrectable, and lines that read correctable (07 R234). No command of the table
  makes a line so; the state can hold such lines. -/
  bad     : List Nat := []
  weak    : List Nat := []
  active  : WeightSet := {}
  shadow  : WeightSet := {}
  shadowFull : Bool := false
  sash    : Option Sash := none
  /-- The active set that the last SWAP replaced (06 R224). -/
  swapOut : Option WeightSet := none
  /-- Its restore after a pre-emption is not over (07 R245). -/
  restoring : Bool := false
  /-- An op of the run failed or was ended under 04 R136. -/
  cut     : Bool := false
  deriving DecidableEq, Repr

/-- A row in the run-ahead buffer: its index position, address and bytes (08 R274). -/
structure AheadRow where
  pos  : Nat
  addr : Nat
  data : List Byte
  deriving DecidableEq, Repr

/-- SEQ_STAT.STATE (07 R249). -/
inductive CoreState where
  | idle | running | resuming | stopping
  deriving DecidableEq, Repr

/-- A logical matrix core (01 R24; 06; 07; 15 R478). -/
structure Core where
  /-- The logical number carries a core; clear while vacant (15 R478). -/
  inService : Bool := false
  /-- Physical core, 0 to 71 (01 R22). -/
  phys     : Nat := 0
  state    : CoreState := .idle
  run      : Option Inst := none
  held     : Option Inst := none
  heldSince : Nat := 0
  keepWarm : Bool := false
  thresh   : Nat := 8
  /-- Issue limit in force and the limit it is stepping to (06 R216). -/
  limit    : Nat := 64
  target   : Nat := 64
  warm     : Bool := false
  /-- Station time since which the core waits for Louvre admission (06 R214). -/
  waiting  : Option Nat := none
  /-- Admitted, and its first row not issued yet (06 R214). -/
  admitted : Bool := false
  /-- The keep-warm gap in progress: the core's cycle in which it began, L₀, and the cycle to which its rows are counted (06 R213). -/
  gap      : Option (Nat × Nat × Nat) := none
  /-- The cycle of the last dummy row counted, and the cycle from which the core has been in keep-warm mode (06 R213). -/
  lastDummy : Option Nat := none
  keepFrom : Nat := 0
  /-- The AC cycle in which the core left reset (06 R217). -/
  acFrom   : Nat := 0
  /-- The core's cycles in which its last 256 real rows issued, newest first, and the 512th of a cycle from which the next row may
  (06 R208, R213, R217). -/
  recent   : List Nat := []
  nextRow  : Nat := 0
  /-- Louvre slot of the last step of a rising issue limit (06 R216). -/
  stepAt   : Nat := 0
  rows     : BitVec 64 := 0
  dummy    : BitVec 64 := 0
  lsCe     : Nat := 0
  lsUe     : Nat := 0
  lsUeAddr : Nat := 0
  spilledCount  : BitVec 32 := 0
  restoredCount : BitVec 32 := 0
  /-- Uncorrectable local-store lines with their times (15 R478). -/
  ueTimes  : List Nat := []
  /-- Rows in the run-ahead buffer (08 R274). -/
  runAhead : List AheadRow := []
  /-- The context save area, by offset from 0x3B_0000 (06 R219; 07 R244). -/
  save     : Memory := []
  deriving DecidableEq, Repr

/-- An accumulate in flight (08 R277): the line, its terms (four attar codes, or sixteen exact values in FP32 mode, log 14)
and the op that sent it with its segment; `own` is clear for a request of package `src`. -/
structure Acc where
  own    : Bool
  src    : Sys2Proof.Origin := ⟨0, 0⟩
  tile   : Nat
  core   : Nat
  cmd    : CmdId
  word   : Nat
  inst   : Nat
  seg    : Nat
  hint   : Nat
  addr   : Nat
  fp32   : Bool
  attars : List Nat := []
  terms  : List Num := []
  /-- The group of accumulates of its op to which it belongs (08 R279). -/
  group  : Nat := 0
  /-- When it was sent (03 R126). -/
  since  : Nat := 0
  /-- Epoch of the page's placement by which it was routed (09 R317). -/
  epoch  : Option Nat := none
  /-- Device granule to which it was routed (10 R338). -/
  granule : Option Nat := none
  /-- Bytes of its row that its op also reads (08 R262). -/
  shared : List (Nat × Nat) := []
  deriving DecidableEq, Repr

/-! ### Tiers (09) -/

/-- States of a tier page (09 R313). -/
inductive PageState where
  | home | promoting | sill | demoting | relocating
  deriving DecidableEq, Repr

/-- The owner of a placed page (09 R302). -/
inductive Owner where
  | none
  | ctx (n : Nat)
  | shared
  deriving DecidableEq, Repr

/-- A place in the Sill: frame and slot of the sill that R288 gives. -/
structure SillSlot where
  sill  : Nat
  frame : Nat
  slot  : Nat
  deriving DecidableEq, Repr

/-- Events that a migrating page defers (09 R314). -/
inductive TierEvent where
  | promote
  | evict
  | prefetch (ctx : Nat)
  /-- The quota of the context fell below its use. -/
  | quota (ctx : Nat)
  deriving DecidableEq, Repr

/-- A home page of 64 KiB (09 R288, R299, R302, R313). -/
structure TierPage where
  state  : PageState := .home
  pin    : Option Nat := none
  keep   : Bool := false
  owner  : Owner := .none
  /-- Source and policy of the last demand access that counted heat. -/
  last   : Owner := .none
  policy : Nat := 0
  heat   : Nat := 0
  epoch  : Nat := 0
  dirty  : Nat := 0
  copied : Nat := 0
  recopy : Nat := 0
  /-- Copy round, and the sub-block at which it goes on. -/
  round  : Nat := 0
  next   : Nat := 0
  slots  : List SillSlot := []
  target : List SillSlot := []
  deferred : List TierEvent := []
  deriving DecidableEq, Repr

/-- Who holds a direct page (09 R291; 03 R100). -/
inductive Claim where
  | ctx (n : Nat)
  | mirror (users : List Nat)
  deriving DecidableEq, Repr

/-- A claimed direct page: holder, frame, in-flight commands that hold it, releasing, and a claim waiting for the
release (09 R295). -/
structure DirectPage where
  claim     : Claim
  frame     : Nat
  holds     : Nat := 0
  releasing : Bool := false
  next      : Option Nat := none
  deriving DecidableEq, Repr

/-- A sill (09 R287, R320; 11 R363): retired frames, rows with corrected-read times, and the sums that its staging SRAM of
32 MiB holds, a chunk each, newest first, as attar codes. -/
structure Sill where
  retired : List Nat := []
  rows    : Table (List Nat) := []
  staging : List (List Nat) := []
  deriving DecidableEq, Repr

/-! ### Ultur cores (03) -/

/-- A store of an Ultur core. -/
structure UStore where
  addr  : Nat
  width : Nat
  value : Nat
  /-- When it entered the tracker. -/
  since : Nat := 0
  /-- Its page has a PBMT of NC: it takes no line into the caches (03 R91). -/
  nc    : Bool := false
  deriving DecidableEq, Repr

/-- An Ultur core's memory side (03 R90, R118, R124, R125): buffer, tracker, bus-error CSRs, local interrupt 16, its reservation,
the value of the last load or the result of the last store-conditional, and the exception that the last access took (cause and
trap value). -/
structure UCore where
  inService : Bool := false
  phys      : Nat := 0
  buffer    : List UStore := []
  tracker   : List UStore := []
  errAddr   : Nat := 0
  errValid  : Bool := false
  errOver   : Bool := false
  errKind   : Nat := 0
  mip16     : Bool := false
  mie16     : Bool := false
  mideleg16 : Bool := false
  /-- Lines that its caches hold, newest first; line fills in its miss queue, and fills that met an uncorrectable line and that no
  access has taken up yet (01 R22; 03 R124; 10 R329). -/
  lines     : List Nat := []
  /-- Of its lines those in its L1 I and its L1 D, newest first (01 R22). -/
  l1i       : List Nat := []
  l1d       : List Nat := []
  fills     : List Nat := []
  badFills  : List Nat := []
  /-- The line that a load-reserved holds reserved (03 R90, R116). -/
  resv      : Option Nat := none
  /-- The core has taken the bus-error interrupt: to S-mode where it is delegated (03 R125). -/
  irq       : Option Bool := none
  loaded    : Nat := 0
  trap      : Option (Nat × Nat) := none
  fences    : Nat := 0
  deriving DecidableEq, Repr

/-! ### HBM (10) -/

/-- HBM_PC_STAT.STATE (10 R352). -/
inductive PcState where
  | inService | recalibrating | degrading | restriping | mappedOut
  deriving DecidableEq, Repr

/-- Who reads a line (10 R329): an op of a run (tile, core, command, run, word, segment), a reduction or copy of a command through a segment, a
host core, a memory-side adder, another package or a host, a steward, or a gather engine that runs ahead. -/
inductive Reader where
  | op (tile core : Nat) (cmd : CmdId) (inst word seg : Nat)
  | command (cmd : CmdId) (seg : Nat)
  | host (tile ucore : Nat)
  | ahead (tile core : Nat)
  | adder
  /-- A read of another package, which came over a link, and one of a host: told apart by a number, with the bytes that it asks for. -/
  | remote (src : Sys2Proof.Origin) (tag addr : Nat) (data : List Byte)
  | tlp (port tag addr : Nat) (mem : Bool) (data : List Byte)
  | steward
  deriving DecidableEq, Repr

/-- A write of another package, to acknowledge, or of a host that waits in its requester for room in a write queue (10 R330). -/
structure LateWrite where
  addr : Nat
  data : List Byte
  src  : Option Sys2Proof.Origin
  deriving DecidableEq, Repr

/-- A read in a pseudo-channel's queue, or held in its requester (10 R329): the line, who asked, the time, whether it is held
back at a cap, and whether the 2 µs rule puts it first. -/
structure PcRead where
  line  : Nat
  who   : Reader
  since : Nat
  held  : Bool := false
  first : Bool := false
  deriving DecidableEq, Repr

/-- A pseudo-channel (10 R329, R330, R343, R344, R352). -/
structure Pc where
  state    : PcState := .inService
  recals   : Nat := 0
  ce       : Nat := 0
  reads    : List PcRead := []
  writes   : List Nat := []
  /-- Writes that wait in their requesters for the full write queue (10 R330). -/
  heldWrites : List LateWrite := []
  /-- The station second of the last corrected read, the corrected reads of that second, their rows, and the whole seconds
  before it, one after the other, that were over the rate of 10 R344. -/
  second   : Nat := 0
  corrected : Nat := 0
  badRows  : List (Nat × Nat) := []
  overSeconds : Nat := 0
  /-- Open row of each bank, plus 1; 0 is closed. -/
  rows     : Table Nat := []
  lastCal  : Option Nat := none
  calTemp  : Int := 0
  /-- State to return to after a recalibration. -/
  before   : PcState := .inService
  deriving DecidableEq, Repr

/-- A lane of a stack interface that failed the test of a training, with the spare lane assigned to it (10 R339). -/
structure HbmLane where
  pc    : Nat
  lane  : Nat
  spare : Option Nat
  deriving DecidableEq, Repr

/-- A stack (10 R333, R339, R347, R352; 14 R453). -/
structure Stack where
  inService : Bool := false
  /-- Failed lanes of its interface as the last training found them, and when that training ended. -/
  lanes    : List HbmLane := []
  trainedAt : Nat := 0
  /-- The temperature at that training (10 R343). -/
  trainedTemp : Int := 0
  refresh  : Nat := 0
  temp     : Int := 0
  mapPc    : Option Nat := none
  mapState : Nat := 0
  /-- Next device granule of step 3 of R347. -/
  mapNext  : Nat := 0
  /-- The pseudo-channel being mapped out has failed (10 R348). -/
  mapFailed : Bool := false
  done     : Nat := 0
  total    : Nat := 0
  pace     : Nat := 100
  ce       : Nat := 0
  ue       : Nat := 0
  rowsFound : Nat := 0
  ueAddr   : Nat := 0
  capped   : Nat := 0
  aged     : Nat := 0
  rdBytes  : BitVec 64 := 0
  wrBytes  : BitVec 64 := 0
  pcs      : Table Pc := []
  deriving DecidableEq, Repr

/-- An HBM row by stack, pseudo-channel, bank and row number. -/
structure RowId where
  stack : Nat
  pc    : Nat
  bank  : Nat
  row   : Nat
  deriving DecidableEq, Repr

/-- Home memory as a whole (10 R324, R335 to R342, R347). -/
structure Home where
  /-- U in force: home granules offered; 0 is no home memory. -/
  granules : Nat := 0
  /-- Home granules whose contents a warm reset has kept (10 R337). -/
  kept     : Nat := 0
  /-- Device granule of a home granule, plus 1; 0 is the assignment made at the last cold start. -/
  remap    : Table Nat := []
  /-- Granules left out of that assignment, whether the withdrawn granules of R347 were, and the end of the pool granules that
  it took for home granules (0: none). -/
  builtRetired : List Nat := []
  builtWithdrawn : Bool := false
  builtEnd : Nat := 0
  /-- Device granule, plus 1, of a spill granule that has moved (R347). -/
  spillMap : Table Nat := []
  /-- Pool granules in use, and granules returned to the pool. -/
  taken    : List Nat := []
  freed    : List Nat := []
  retired  : List Nat := []
  /-- Device granules with a failing row, out of use until post-package repair (10 R341). -/
  waiting  : List Nat := []
  /-- The withdrawn spill granules have moved to the pool (10 R347). -/
  spillMoved : Bool := false
  /-- Rows recorded as failing and scheduled for repair, each with its device granule, and rows repaired. -/
  failing  : List (RowId × Nat) := []
  repaired : List RowId := []
  /-- Times of corrected reads of a row within the last hour. -/
  rowTimes : List (RowId × Nat) := []
  /-- Home granules whose move is started (R340). -/
  moves    : List Nat := []
  /-- Bytes of one bank's row in a pseudo-channel's address order (log 5). -/
  rowBytes : Nat := 1024
  /-- Device granules whose pieces were being moved at a warm reset (R350). -/
  lost     : List Nat := []
  /-- Map-out journals of the repair ledger: stack, pseudo-channel and done (R347). -/
  journals : List (Nat × Nat × Bool) := []
  deriving DecidableEq, Repr

/-! ### Reduction (11) -/

/-- A unit with the times at which it was charged, the tensor and chunk of the last charge, and the command that made the
charge for which it is to be fenced (11 R372, R373). -/
structure Charge where
  unit   : ChargedUnit
  times  : List Nat
  tensor : Nat
  chunk  : Nat
  due    : Option CmdId
  deriving DecidableEq, Repr

/-! ### Links, lasers, gangs and peers (12) -/

/-- LINK_STAT.STATE (12 R391). -/
inductive LinkState where
  | disabled | down | training | loc | up | draining
  deriving DecidableEq, Repr

/-- A message that waits for its link: its virtual channel (0 MG, 1 to 3 RQ, 4 to 6 RS), where it goes, its size and its bytes (12
R385, R386). -/
structure WaitMsg where
  chan  : Nat
  dst   : Nat
  size  : Nat
  bytes : List Byte
  deriving DecidableEq, Repr

/-- Receive buffering of a virtual channel in bytes (12 R386). -/
def channelBuffer : Nat := 32768

/-- A Birwiuk link (12 R383 to R392 and its registers). -/
structure Link where
  state    : LinkState := .down
  half     : Bool := false
  spareUsed : Bool := false
  peerAddr : Nat := 0
  peerAssigned : Bool := false
  peerLink : Nat := 0
  peerNonce : Nat := 0
  peerId   : Nat := 0
  enable   : Bool := true
  crcFail  : Nat := 0
  replay   : Nat := 0
  retrain  : Nat := 0
  fec      : BitVec 64 := 0
  oneWay   : Nat := 0
  asym     : BitVec 32 := 0
  tx       : BitVec 64 := 0
  rx       : BitVec 64 := 0
  /-- Next flit sequence number to receive and to send (12 bits), and the replay buffer: each flit's number and message. -/
  expected : Nat := 0
  next     : Nat := 0
  unacked  : List (Nat × WaitMsg) := []
  /-- Credits held of the peer's seven receive buffers, in bytes, and messages that wait for credits or for room in the replay buffer
  (12 R385, R386). -/
  credits  : List Nat := List.replicate 7 channelBuffer
  waiting  : List WaitMsg := []
  /-- Discarding until the expected flit is replayed (R385). -/
  discarding : Bool := false
  naks     : Nat := 0
  replayTimes : List Nat := []
  failed   : List Nat := []
  lastFlit : Nat := 0
  retryAt  : Nat := 0
  /-- Fenced or out of service for good (11 R373). -/
  fenced   : Bool := false
  /-- The link joins its peer: it has trained and has not been announced as down since (12 R392). -/
  joined   : Bool := false
  deriving DecidableEq, Repr

/-- A laser module socket (12 R390; 16 R504). -/
structure Laser where
  present : Bool := false
  ready   : Bool := false
  drained : Bool := false
  sources : Nat := 0
  temp    : Nat := 0
  drain   : Bool := false
  deriving DecidableEq, Repr

/-- A gang level (12 R398, R399): identity, epoch, member packages recorded by FORM and JOIN, members in service,
leaving members, and for levels 2 and 3 the member ranges. -/
structure Level where
  formed  : Bool := false
  gang    : Nat := 0
  epoch   : Nat := 0
  members : List Nat := []
  ranges  : List (Nat × Nat) := []
  ready   : List Nat := []
  leaving : List Nat := []
  deriving DecidableEq, Repr

/-- A request that passed through this package, by which its response finds the way back (12 R395): source, destination,
unit, offset and the link it came by. -/
structure Passage where
  src    : Nat
  dst    : Nat
  unit   : Nat
  offset : Nat
  link   : Nat
  deriving DecidableEq, Repr

/-- An RQ message that its source keeps until the response or acknowledgement arrives (12 R387): its end-to-end number, the address it
names, the source unit, the link it left on, and the message. -/
structure Kept where
  seq  : Nat
  addr : Nat
  unit : Nat
  link : Nat
  msg  : WaitMsg
  deriving DecidableEq, Repr

/-- A write of another package's host core that waits for the core's preceding write (12 R388). -/
structure HeldWrite where
  src   : Sys2Proof.Origin
  seq   : Nat
  addr  : Nat
  data  : List Byte
  after : Nat
  deriving DecidableEq, Repr

/-- The gang registers and records (12 R387, R394, R395, R397). -/
structure Gang where
  addr     : Option Nat := none
  nonce    : Nat := 0
  levels   : List Level := [{}, {}, {}]
  lastSeq  : Option Nat := none
  busy     : Bool := false
  rxValid  : Bool := false
  result   : Nat := 0
  tx       : List Byte := List.replicate 128 0
  rx       : List Byte := List.replicate 128 0
  routeSel : Nat := 0
  routes   : Table Nat := []
  seen     : Table (List Nat) := []
  passing  : List Passage := []
  /-- Next end-to-end number of an RQ message toward each package, and the requests that are kept until they are answered (12 R387). -/
  nextSeq  : Table Nat := []
  kept     : List Kept := []
  /-- Writes of other packages' host cores that wait for an older one (12 R388). -/
  waitWrites : List HeldWrite := []
  /-- Packages that have left a gang: neither down nor in service (12 R400). -/
  left     : List Nat := []
  deriving DecidableEq, Repr

/-- Another package as this one meets it (12 R392, R393; 03 R87): declared down or not, whether it answers, its home memory. -/
structure Peer where
  down      : Bool := false
  answers   : Bool := true
  /-- Home memory that it offers, as its READY says; until then that of a whole F8 (log 91). -/
  homeBytes : Nat := 190464 * 2 ^ 21
  /-- It has a free window slot for a part of a gang command (02 R83). -/
  room      : Bool := true
  mem       : Memory := []
  /-- Its package capability block, as far as this package knows it. -/
  cap       : List Byte := []
  /-- TIM_CTRL.PRIORITY, reference presence and hops as announced (12 R404, R406). -/
  priority  : Nat := 128
  hasRef    : Bool := false
  deriving DecidableEq, Repr

/-! ### Time (12, 16) -/

/-- Time classes (12 R403). -/
inductive TimeClass where
  | locked | holdover | free | isolated | unset
  deriving DecidableEq, Repr

/-- The TIM block and the time inputs (12 R402 to R406; 16 R499 to R501). -/
structure Time where
  /-- TIM_CTRL.SOURCE; 1 at reset on the F8 and F6, 3 on the F8L (12 R402). -/
  source   : Nat := 1
  ptmPort  : Nat := 0
  ppsFall  : Bool := false
  priority : Nat := 128
  syncLog  : Nat := 7
  cls      : TimeClass := .unset
  isSource : Bool := false
  ppsOk    : Bool := false
  tenOk    : Bool := false
  ptmOk    : Bool := false
  ptpOk    : Bool := false
  srcAddr  : Nat := 0
  hops     : Nat := 0
  offset   : BitVec 32 := 0
  errBound : Nat := 0
  epoch    : Nat := 0
  /-- TAI second that the next 1PPS edge marks, once TIM_TOD_S is written. -/
  tod      : Option Nat := none
  lastPps  : Option Nat := none
  hold     : Nat := 1000
  ppsDelay : Nat := 0
  ptmFails : Nat := 0
  /-- When the reference was lost, for the holdover bound. -/
  lostAt   : Nat := 0
  announces : Nat := 0
  /-- Station time of the last rising edge of PPS_OUT, which stays high for 100 µs (16 R499). -/
  ppsAt    : Option Nat := none
  /-- The link over which the gang time source is followed, and the time of the last Sync (12 R402, R404). -/
  upLink   : Option Nat := none
  lastSync : Nat := 0
  ppsPulses : Nat := 0
  deriving DecidableEq, Repr

/-! ### Host ports (12) -/

/-- How a device request reaches a host: over CXL.cache, coherent with its caches, or as a memory TLP with No Snoop clear (12 R411). -/
inductive HostPath where
  | cxlCache | tlp
  deriving DecidableEq, Repr

/-- A device request on a port (12 R411): its path, the host address, its length, and whether it writes. -/
structure HostReq where
  path    : HostPath
  addr    : Nat
  len     : Nat
  isWrite : Bool
  deriving DecidableEq, Repr

/-- A host port (12 R409 to R416) with the host memory behind it, by host address. -/
structure Port where
  linkUp   : Bool := false
  speed    : Nat := 0
  width    : Nat := 0
  cxl      : Bool := false
  hostDown : Bool := false
  ptmValid : Bool := false
  base     : Nat := 0
  size     : Nat := 0
  evtDown  : Bool := false
  evtRetrain : Bool := false
  evtFlr   : Bool := false
  busMaster : Bool := false
  answers  : Bool := true
  mem      : Memory := []
  /-- Device writes that the port has sent and nothing has confirmed, oldest first, and the last request sent (12 R411, R412, R415). -/
  posted   : List (Nat × List Byte) := []
  lastReq  : Option HostReq := none
  /-- Home lines that the host caches over CXL.mem: the directory (12 R410). -/
  cached   : List Nat := []
  /-- Lines back-invalidated, and requests ended as unsupported, which AER reports (12 R409, R410). -/
  backInv  : Nat := 0
  aer      : Nat := 0
  /-- The last configuration request was answered with Configuration Request Retry Status (15 R465). -/
  crs      : Bool := false
  deriving DecidableEq, Repr

/-! ### Hinges (13) -/

/-- HINGE_STAT.STATE (13 R433). -/
inductive EdgeState where
  | absent | training | inService | retraining | out
  deriving DecidableEq, Repr

/-- A failed lane of an edge: direction, lane, the spare lane that replaces it, and whether a training has met it (13 R426). -/
structure LaneFail where
  dir   : Nat
  lane  : Nat
  spare : Option Nat := none
  met   : Bool := false
  deriving DecidableEq, Repr

/-- A lane group of an edge: the sequence numbers of the next flit to send and of the next one expected, and the numbers of the flits in
its replay buffer (13 R420). -/
structure HingeGroup where
  next     : Nat := 0
  expected : Nat := 0
  unacked  : List Nat := []
  deriving DecidableEq, Repr

/-- A hinge edge (13 R418 to R433). -/
structure Edge where
  state   : EdgeState := .absent
  compat  : Bool := false
  groups  : Nat := 0
  mem     : Nat := 0
  stream  : Nat := 0
  coh     : Nat := 0
  loc     : Nat := 0
  peer    : Nat := 0
  agreed  : Nat := 0
  /-- The Svathal minor version in use: the lower of the two (R423). -/
  minor   : Nat := 0
  /-- The lane groups in service, ascending: the lowest-numbered good ones (R427). -/
  running : List Nat := []
  corrected : Nat := 0
  replay  : Nat := 0
  retrain : Nat := 0
  /-- Lanes failed since first start, counted for HINGE_ERR.FAILED. -/
  failedCount : Nat := 0
  lanes   : List LaneFail := []
  /-- Lane groups of its two directions: group `g` of direction `d` is number 16 d + g (R420). -/
  flits   : Table HingeGroup := []
  /-- A retrain is due: a lane has failed (R426). -/
  due     : Option Nat := none
  deriving DecidableEq, Repr

/-! ### Power (14) -/

/-- A tile's power and heat registers (14 R449 to R457). -/
structure TilePower where
  powerW   : Nat := 0
  lSill    : Nat := 64
  lDie     : Nat := 64
  guard    : Bool := false
  guardEnd : Nat := 0
  heatOff  : Bool := false
  sillOff  : Bool := false
  sillTemp : Nat := 0
  dieTemp  : Nat := 0
  setMv    : Nat := 0
  vminMv   : Nat := 0
  droop    : Nat := 0
  trips    : Nat := 0
  droops   : Nat := 0
  ilim     : Nat := 720
  deriving DecidableEq, Repr

/-- The power controller (14 R441 to R447, R457). Energies are in mW × 10 µs. -/
structure Power where
  limitW   : Nat := 0
  windowS  : Nat := 4
  capW     : Nat := 0
  /-- The limit, window and cap in force since the last whole second (R443). -/
  forceW   : Nat := 0
  forceWin : Nat := 4
  powerMw  : Nat := 0
  lPwr     : Nat := 64
  pace     : Nat := 64
  excursion : Bool := false
  /-- Intervals of 50 µs that the excursion has lasted, and that the target is still held at or below the limit (R445). -/
  overRuns : Nat := 0
  holdRuns : Nat := 0
  unmet    : Bool := false
  /-- Runs of the controller that missed the target at pace 8, one after the other (R446). -/
  missedRuns : Nat := 0
  lastS    : Nat := 0
  runW     : Nat := 0
  peakW    : Nat := 0
  /-- Energy since start, energy of the current second and when its counting began, and the counted seconds, newest first, each
  with its length in ns (R448). -/
  energy   : Nat := 0
  second   : Nat := 0
  secondStart : Nat := 0
  seconds  : List (Nat × Nat) := []
  /-- The last five readings of the buses, newest first; when the last reading was taken and the controller last ran. -/
  recent   : List (List Nat) := []
  measuredAt : Nat := 0
  controlledAt : Nat := 0
  laserW   : Nat := 0
  evt      : Nat := 0
  deriving DecidableEq, Repr

/-- A supply domain (14 R435, R437): out of reset, or lost in service. -/
structure DomainState where
  dom  : Domain
  live : Bool := false
  lost : Bool := false
  deriving DecidableEq, Repr

/-! ### Start, security, log (15) -/

/-- The bank record (15 R458). -/
structure BankRecord where
  count     : Nat := 0
  activeB   : Bool := false
  trial     : Bool := false
  tried     : Bool := false
  committed : Bool := false
  highest   : Nat := 0
  /-- The copy's CRC-32C holds. -/
  good      : Bool := true
  deriving DecidableEq, Repr

/-- A start-ledger entry (15 R469). -/
structure StartEntry where
  seq      : Nat
  cause    : Nat
  bank     : Nat := 0xFC
  progress : Nat := 0xFFFF
  reason   : Nat := 0xFF
  fails    : Nat := 0xFF
  detail   : Nat := 0xFFFF
  detail2  : Nat := 0xFFFFFFFF
  time     : Nat := 0xFFFFFFFFFFFFFFFF
  closed   : Bool := false
  /-- The word that a close which lost its supply left in SL_CLOSE_CRC (15 R470). -/
  torn     : Option Nat := none
  deriving DecidableEq, Repr

/-- A repair record without its chain (15 R479). -/
structure RepairRecord where
  type : Nat
  tile : Nat
  unit : Nat
  seq  : Nat
  time : Nat
  data : Nat
  deriving DecidableEq, Repr

/-- The shipped lane plan, in the order of `ImageView.plan` (13 R422). -/
def shippedPlan : List PlanRow := [(10, 4, 2), (8, 2, 2), (5, 1, 2), (2, 1, 1), (2, 0, 1), (1, 0, 1)]

/-- The flash (15 R458): images of the two banks, the two copies of the bank record, start ledger (newest first), repair ledger (oldest
first) with its last chain value, and the factory record with its helper data, certificate and V_MIN. -/
structure Flash where
  imageA  : ImageView := ⟨true, true, 0, shippedPlan, [], []⟩
  imageB  : ImageView := ⟨false, false, 0, [], [], []⟩
  copy0   : BankRecord := {}
  copy1   : BankRecord := {}
  starts  : List StartEntry := []
  repairs : List RepairRecord := []
  chain   : List Byte := List.replicate 32 0
  cert    : List Byte := []
  helper  : List Byte := []
  vmin    : List Nat := List.replicate 8 600
  deriving DecidableEq, Repr

/-- Where the start stands (15 R464, R467, R471). -/
inductive StartPhase where
  | running | ready | vestibule | stopped
  deriving DecidableEq, Repr

/-- Start logic and the SEC block (15 R464 to R472, R489). -/
structure Start where
  phase    : StartPhase := .running
  /-- Stage being run; stages below it are completed. -/
  stage    : Nat := 0
  cause    : Nat := 1
  warm     : Bool := false
  since    : Nat := 0
  retryAt  : Nat := 0
  image    : ImageView := ⟨false, false, 0, [], [], []⟩
  /-- Bank B is in use; this start is a trial start. -/
  bankB    : Bool := false
  trial    : Bool := false
  cleared  : Bool := false
  updated  : Bool := false
  /-- The repair ledger was rebuilt from a prefix at stage LEDGER (R480). -/
  ledgerBad : Bool := false
  mrs      : List (List Byte) := List.replicate 8 (List.replicate 32 0)
  mrExt    : List Byte := List.replicate 32 0
  /-- The identity private key, held from stage ROM until a reset of package scope; no command reads it (R460). -/
  idKey    : Option Nat := none
  fwSrc    : Nat := 0
  fwLen    : Nat := 0
  fwBusy   : Bool := false
  fwResult : Nat := 0
  /-- The image being written by an update. -/
  fwImage  : ImageView := ⟨false, false, 0, [], [], []⟩
  deriving DecidableEq, Repr

/-- An FLT record (15 R486). -/
structure FltRecord where
  seq  : Nat
  cls  : Nat
  code : Nat
  unit : Nat := 0xFFFF
  ctx  : Nat := 0xFFFF
  time : Nat := 0
  addr : Nat := 0
  data : List Byte := []
  deriving DecidableEq, Repr

/-- The FLT block (15 R488). -/
structure Flt where
  classEn : Nat := 0
  msiAddr : Nat := 0
  msiData : Nat := 0
  head    : BitVec 32 := 0
  tail    : BitVec 32 := 0
  lost    : Nat := 0
  /-- The record ring, by slot. -/
  ring    : Table (List Byte) := []
  /-- Class 0x08 records that wait for room. -/
  held    : List FltRecord := []
  /-- Payloads of the I3C in-band interrupts raised, oldest first. -/
  ibis    : List Nat := []
  deriving DecidableEq, Repr

/-- A self-test or reset in progress (15 R474, R477): the command, its units and its deadline. -/
structure SelfTest where
  cmd      : CmdId
  deadline : Nat
  deriving DecidableEq, Repr

/-- I3C target (12 R396). -/
structure I3c where
  dynamic : Option Nat := none
  strap   : Nat := 0
  offset  : Nat := 0
  /-- A hot-join request stands: the package has started and has no dynamic address. -/
  hotJoin : Bool := false
  deriving DecidableEq, Repr

/-- The JTAG instructions (16 R502). -/
inductive TapInstr where
  | bypass | idcode | sample | extest | extestPulse | extestTrain
  deriving DecidableEq, Repr

/-- A TAP of an I/O die (16 R502). -/
structure Tap where
  instr    : TapInstr := .idcode
  boundary : Nat := 0
  shift    : Nat := 0
  driving  : Bool := false
  deriving DecidableEq, Repr

/-! ### Tiles and the whole state -/

/-- A tile (07 R249; 13 R429): in service as a compute unit, present in the ledger as withdrawn, revisions. -/
structure Tile where
  inService : Bool := false
  /-- The tile's sill and memory controller are in service. -/
  memory    : Bool := false
  withdrawn : Bool := false
  dieRev    : Nat := 0
  sillRev   : Nat := 0
  /-- Physical cores withdrawn or failed, and spares used. -/
  badCores  : List Nat := []
  badUcores : List Nat := []
  /-- Station time at which the Louvre slot count started (06 R215). -/
  louvreFrom : Option Nat := none
  /-- The next Louvre slot of the die not served yet. -/
  louvreNext : Nat := 0
  /-- Accumulates of its stack are applied by a neighbour's adders (13 R429). -/
  proxied   : Bool := false
  /-- The features that its compute and sill dies offer (13 R424). -/
  feats     : Nat := 0
  deriving DecidableEq, Repr

/-- A TIER or interrupt message written (02 R32). -/
structure Msg where
  addr : Nat
  data : Nat
  deriving DecidableEq, Repr

/-- A management message sent on a link (12 R397), or a response or acknowledgement to a package. -/
structure OutMsg where
  link  : Nat
  dst   : Nat
  bytes : List Byte
  deriving DecidableEq, Repr

/-- The state of the package. -/
structure State where
  variant  : Variant := .f8
  clk      : Clock := {}
  /-- The model's own counter of free values drawn; no statement rests on it. -/
  free     : Nat := 0
  /-- Data returned by the last register read, host read or I3C read; the error kind of a read that failed. -/
  bus      : Nat := 0
  busError : Bool := false
  /-- Commands accepted so far (order of acceptance). -/
  accepted : Nat := 0
  mem      : Memory := []
  /-- Lines that read uncorrectable, by line address, rising (10 R328). -/
  poison   : List Nat := []
  /-- Bytes in error that physical lines of the sills hold, by `SillLine.number` (09 R320; log 112). -/
  strikes  : Table Nat := []
  /-- Home bytes as last written back, for dirty sub-blocks of placed pages (09 R318). -/
  stale    : Memory := []
  ctxTable : Nat := 0
  ctxStat  : Nat := 0
  ctxs     : Table Ctx := []
  nextCtx  : Nat := 0
  cplTimeout : Nat := 10000
  redCfg   : Nat := 8
  redChecked : BitVec 32 := 0
  redMismatch : Nat := 0
  redFenced : Nat := 0
  stCtrl   : Nat := 100
  stFailed : Nat := 0
  stNotRun : Nat := 0
  privs    : Table Nat := []
  /-- CAP_GEN of the package block and of each tile, core and gang block. -/
  gens     : Table Nat := []
  /-- The blocks are written: stage CORES has ended (15 R464). -/
  capLive  : Bool := false
  msgs     : List Msg := []
  cores    : Table Core := []
  accs     : List Acc := []
  tiles    : Table Tile := []
  tierCfg  : Nat := 0x19320840
  sharedQuota : Nat := 0
  schedAhead : Nat := 0x20002
  moved    : BitVec 32 := 0
  freezeMax : Nat := 0
  forwarded : Nat := 0
  pages    : Table TierPage := []
  direct   : Table (Option DirectPage) := []
  sills    : Table Sill := []
  /-- Direct pages that lost their backing (09 R320). -/
  lostDirect : List Nat := []
  hbm      : Table Stack := []
  home     : Home := {}
  ucores   : Table UCore := []
  charges  : List Charge := []
  links    : Table Link := []
  lasers   : Table Laser := []
  gang     : Gang := {}
  peers    : Table Peer := []
  outMsgs  : List OutMsg := []
  time     : Time := {}
  ports    : Table Port := []
  edges    : Table Edge := []
  tilePower : Table TilePower := []
  power    : Power := {}
  domains  : List DomainState := [⟨.io0, true, false⟩]
  flash    : Flash := {}
  start    : Start := {}
  flt      : Flt := {}
  selftest : Option SelfTest := none
  i3c      : I3c := {}
  taps     : List Tap := [{}, {}]
  /-- PKG_RESET_N is held low. -/
  resetLow : Bool := false
  /-- FAULT_N is driven low (16 R498). -/
  faultLow : Bool := true
  pending  : List Instr := []
  deriving DecidableEq, Repr

/-- The state after reset: I/O die 0 has just left reset and start stage ROM has not run (14 R436; 15 R464). Fields
without a reset value in the spec hold the values that log entries 1 and 2 name. -/
def State.reset : State := {}

end Sys2Proof.Machine
end

