-- ==== Sys2Proof/Machine/Flags.lean ====
section
/-! DEFINITION. Completion statuses (02 R69, R70), DB_EVENT bits (02) and fault kinds (03 R113). The block has no
arithmetic flags. -/

namespace Sys2Proof.Machine

def sOk : Nat := 0x00
def sAnchorSat : Nat := 0x01
def sCheckMismatch : Nat := 0x02
def sBadPacket : Nat := 0x10
def sBadOpcode : Nat := 0x11
def sStaleGen : Nat := 0x12
def sSegBound : Nat := 0x13
def sSegPerm : Nat := 0x14
def sQuota : Nat := 0x15
def sAbsent : Nat := 0x16
def sDepFailed : Nat := 0x17
def sIndexRange : Nat := 0x20
def sUncorrectable : Nat := 0x21
def sTimeout : Nat := 0x22
def sPeerDown : Nat := 0x23
def sHostDown : Nat := 0x24
def sDiscarded : Nat := 0x30

/-- The completed class (02 R69). -/
def isCompleted (st : Nat) : Bool := decide (st < 0x10)

/-- The did-not-execute and failed classes, which poison a signalled token (02 R56). -/
def poisons (st : Nat) : Bool := decide (0x10 ≤ st) && decide (st < 0x30)

/-- DB_EVENT bit numbers (02): AHEAD r, TAIL_RANGE r, CQ_STALL, WAIT_LIMIT, CQ_RANGE. -/
def evAhead (r : Nat) : Nat := r
def evTailRange (r : Nat) : Nat := 16 + r
def evCqStall : Nat := 32
def evWaitLimit : Nat := 33
def evCqRange : Nat := 34

/-- Why an access of an engine or steward fails (03 R89, R112; 08 R282). -/
inductive AccErr where
  | uncorrectable
  | refused
  | timeout
  | peerDown (addr : Nat)
  | hostDown
  deriving DecidableEq, Repr

/-- The completion status of an access error (08 R282). -/
def AccErr.status : AccErr → Nat
  | .uncorrectable => sUncorrectable
  | .refused => sUncorrectable
  | .timeout => sTimeout
  | .peerDown _ => sPeerDown
  | .hostDown => sHostDown

/-- FR_KIND of an access error (03 R113). -/
def AccErr.kind : AccErr → Nat
  | .uncorrectable => 1
  | .refused => 6
  | .timeout => 5
  | .peerDown _ => 4
  | .hostDown => 3

/-- DETAIL of an access error (02 R64): the member's fabric address for S_PEER_DOWN. -/
def AccErr.detail : AccErr → Nat
  | .peerDown a => a
  | _ => 0

end Sys2Proof.Machine
end

