-- ==== Sys2Proof/Machine/LineCode.lean ====
section
/-! DEFINITION. The line code of home memory (10 R327): RS(72,64) over GF(2⁸), systematic, with the generator's roots α⁰ to α⁷. -/

namespace Sys2Proof.Machine

/-- Multiply by α = 0x02 modulo x⁸ + x⁴ + x³ + x² + 1. -/
def gfDouble (a : Nat) : Nat := if 128 ≤ a then (2 * a) ^^^ 0x11D else 2 * a

/-- The product in GF(2⁸): bit `i` of `b` adds `a` times αⁱ. -/
def gfMulGo : Nat → Nat → Nat → Nat
  | 0, _, _ => 0
  | n + 1, a, b => (if b % 2 = 1 then a else 0) ^^^ gfMulGo n (gfDouble a) (b / 2)

/-- The product in GF(2⁸). -/
def gfMul (a b : Nat) : Nat := gfMulGo 8 a b

/-- αⁱ. -/
def gfPow : Nat → Nat
  | 0 => 1
  | i + 1 => gfDouble (gfPow i)

/-- A polynomial, highest power first, times x + r. -/
def gfTimes (p : List Nat) (r : Nat) : List Nat :=
  ((p ++ [0]).zip (0 :: p)).map (fun (e : Nat × Nat) => e.1 ^^^ gfMul r e.2)

/-- The generator polynomial, highest power first: monic, of degree 8. -/
def rsGenerator : List Nat := (upTo 8).foldl (fun p i => gfTimes p (gfPow i)) [1]

/-- One step of the division by the generator: `r` holds the 8 bytes of the remainder so far. -/
def rsStep (r : List Nat) (d : Nat) : List Nat :=
  let q := d ^^^ r.headD 0
  ((r.drop 1 ++ [0]).zip (rsGenerator.drop 1)).map (fun (e : Nat × Nat) => e.1 ^^^ gfMul q e.2)

/-- The 8 check bytes of the 64 bytes of a line; the first byte is the highest power. -/
def checkBytes (line : List Byte) : List Byte :=
  ((line.map (fun b => b.toNat)).foldl rsStep (List.replicate 8 0)).map (BitVec.ofNat 8)

/-- The value of a code word at αⁱ. -/
def syndrome (word : List Byte) (i : Nat) : Nat := word.foldl (fun s b => gfMul s (gfPow i) ^^^ b.toNat) 0

/-- A stored line of 72 bytes is a code word: it reads without error. -/
def isCodeWord (word : List Byte) : Bool := decide (word.length = 72) && (upTo 8).all (fun i => syndrome word i == 0)

/-- Bytes in error of 72 that the code corrects: any 4. -/
def correctable : Nat := 4

end Sys2Proof.Machine
end

