-- ==== Sys2Proof/Machine/Tick.lean ====
section
/-! DEFINITION. The passing of station time (00 R13; 06 R217; 12 R401, R405). -/

namespace Sys2Proof.Machine

/-- The part of a pending correction that `ns` nanoseconds of running slew away: 500 ns per millisecond (12 R405). -/
def slewed (slew : Int) (ns : Nat) : Int :=
  let m : Int := (ns / 2000 : Nat)
  if slew ≥ 0 then min slew m else max slew (-m)

/-- What `ns` nanoseconds do to the pending correction: 1 ns of it is slewed in every 2,000 ns (12 R405). -/
def Clock.slewFor (c : Clock) (ns : Nat) : Clock :=
  let slew := c.slew - slewed c.slew (c.slewNs + ns)
  { c with slew := slew, slewNs := if slew = 0 then 0 else (c.slewNs + ns) % 2000 }

/-- `n` AC cycles pass. A cycle is 10/13 ns; station time runs at 1 ± 0.0005 of the nominal rate while a correction is
pending (12 R405). -/
def Clock.advance (c : Clock) (n : Nat) : Clock :=
  let sub := c.sub + 10 * n
  let ns := sub / 13
  let d := slewed c.slew (c.slewNs + ns)
  { c.slewFor ns with ac := c.ac + n, now := (((c.now + ns : Nat) : Int) + d).toNat % 2 ^ 64, sub := sub % 13 }

/-- One AC cycle passes: what a step does when no command waits (log 9). -/
def tick (s : State) : State := { s with clk := s.clk.advance 1 }

/-- AC cycles that pass in `ns` nanoseconds: the fewest after which they are all counted. -/
def Clock.cyclesIn (c : Clock) (ns : Nat) : Nat := (13 * ns - c.sub + 9) / 10

/-- Station time moves forward to `t`, the cycles of that time pass, and a pending correction is slewed over it; never backward
(log 9). -/
def Clock.upTo (c : Clock) (t : Nat) : Clock :=
  let d := t - c.now
  let n := c.cyclesIn d
  { c.slewFor d with ac := c.ac + n, sub := c.sub + 10 * n - 13 * d, now := max c.now t }

/-- Bring station time forward to the moment an event is due (log 9). -/
def advanceTo (t : Nat) (s : State) : State := { s with clk := s.clk.upTo t }

end Sys2Proof.Machine
end

