-- ==== Sys2Proof/Machine/Ops.lean ====
section
/-! DEFINITION. Named operations that every family shares: reading and changing the parts of the state, the address map
and memory access (chapter 03), interrupt messages, the FLT log (15 R486 to R488) and fault records (03 R113, R114). -/

namespace Sys2Proof.Machine

/-! ### Parts of the state -/

def State.ctx (s : State) (n : Nat) : Ctx := Table.get {} s.ctxs n
def State.setCtx (s : State) (n : Nat) (c : Ctx) : State := { s with ctxs := Table.put {} s.ctxs n c }
def State.updCtx (s : State) (n : Nat) (f : Ctx → Ctx) : State := s.setCtx n (f (s.ctx n))

def State.core (s : State) (t c : Nat) : Core := Table.get {} s.cores (64 * t + c)
def State.setCore (s : State) (t c : Nat) (k : Core) : State := { s with cores := Table.put {} s.cores (64 * t + c) k }
def State.updCore (s : State) (t c : Nat) (f : Core → Core) : State := s.setCore t c (f (s.core t c))

def State.tile (s : State) (n : Nat) : Tile := Table.get {} s.tiles n
def State.updTile (s : State) (n : Nat) (f : Tile → Tile) : State := { s with tiles := Table.upd {} s.tiles n f }

def State.stack (s : State) (n : Nat) : Stack := Table.get {} s.hbm n
def State.updStack (s : State) (n : Nat) (f : Stack → Stack) : State := { s with hbm := Table.upd {} s.hbm n f }
def Stack.pc (k : Stack) (p : Nat) : Pc := Table.get {} k.pcs p
def State.pc (s : State) (n p : Nat) : Pc := (s.stack n).pc p
def State.updPc (s : State) (n p : Nat) (f : Pc → Pc) : State :=
  s.updStack n (fun k => { k with pcs := Table.upd {} k.pcs p f })

def State.ucore (s : State) (t u : Nat) : UCore := Table.get {} s.ucores (8 * t + u)
def State.updUcore (s : State) (t u : Nat) (f : UCore → UCore) : State :=
  { s with ucores := Table.upd {} s.ucores (8 * t + u) f }

def State.page (s : State) (p : Nat) : TierPage := Table.get {} s.pages p
def State.updPage (s : State) (p : Nat) (f : TierPage → TierPage) : State := { s with pages := Table.upd {} s.pages p f }

def State.directPage (s : State) (p : Nat) : Option DirectPage := Table.get none s.direct p
def State.setDirect (s : State) (p : Nat) (d : Option DirectPage) : State := { s with direct := Table.put none s.direct p d }

def State.sill (s : State) (n : Nat) : Sill := Table.get {} s.sills n
def State.updSill (s : State) (n : Nat) (f : Sill → Sill) : State := { s with sills := Table.upd {} s.sills n f }

def State.link (s : State) (k : Nat) : Link := Table.get {} s.links k
def State.updLink (s : State) (k : Nat) (f : Link → Link) : State := { s with links := Table.upd {} s.links k f }

def State.laser (s : State) (n : Nat) : Laser := Table.get {} s.lasers n
def State.updLaser (s : State) (n : Nat) (f : Laser → Laser) : State := { s with lasers := Table.upd {} s.lasers n f }

def State.peer (s : State) (a : Nat) : Peer := Table.get {} s.peers a
def State.updPeer (s : State) (a : Nat) (f : Peer → Peer) : State := { s with peers := Table.upd {} s.peers a f }

def State.port (s : State) (p : Nat) : Port := Table.get {} s.ports p
def State.updPort (s : State) (p : Nat) (f : Port → Port) : State := { s with ports := Table.upd {} s.ports p f }

def State.edge (s : State) (e : Nat) : Edge := Table.get {} s.edges e
def State.updEdge (s : State) (e : Nat) (f : Edge → Edge) : State := { s with edges := Table.upd {} s.edges e f }

def State.tpower (s : State) (n : Nat) : TilePower := Table.get {} s.tilePower n
def State.updTpower (s : State) (n : Nat) (f : TilePower → TilePower) : State :=
  { s with tilePower := Table.upd {} s.tilePower n f }

/-- Station time. -/
def State.now (s : State) : Nat := s.clk.now

/-- Draw a free value (log 3). -/
def State.draw (s : State) : Nat × State := (Config.freeValue s.free, { s with free := s.free + 1 })

/-! ### Variants (00 R1; 01 R20) -/

/-- Tiles and stacks of the variant: position `n` is populated. -/
def Variant.hasTile (v : Variant) (n : Nat) : Bool :=
  match v with
  | .f6 => decide (n < 8) && n != 3 && n != 7
  | _ => decide (n < 8)

/-- Units of a tile that no command names: stewards, copy engines and the temperature sensors of its compute die and of its sill (01
R22). -/
def tileStewards : Nat := 2
def tileCopyEngines : Nat := 4
def dieSensors : Nat := 32
def sillSensors : Nat := 24

/-- Units of the package (01 R23): stewards beside the chief steward, and copy engines. -/
def Variant.stewards (v : Variant) : Nat := tileStewards * ((upTo 8).filter v.hasTile).length
def Variant.copyEngines (v : Variant) : Nat := tileCopyEngines * ((upTo 8).filter v.hasTile).length

/-- Lines of an Ultur core's L1 I and L1 D, 64 KiB each (01 R22). -/
def l1Lines : Nat := 1024

/-- Lines of an Ultur core's L2 of 2 MiB (01 R22). -/
def cacheLines : Nat := 32768

/-- Links and laser sockets of the variant. -/
def Variant.hasLink (v : Variant) (k : Nat) : Bool :=
  match v with
  | .f8l => false
  | v => v.hasTile (k / 4)

/-- The positions of the variant's tiles and stacks in ascending order. -/
def Variant.positions (v : Variant) : List Nat := (upTo 8).filter v.hasTile

/-- Package with gang capability (00 R9). -/
def Variant.gangs : Variant → Bool
  | .f8l => false
  | _ => true

/-- TIM_CTRL.SOURCE at reset (12 R402). -/
def Variant.timeSource : Variant → Nat
  | .f8l => 3
  | _ => 1

/-- CAP_PART (00 R3). -/
def Variant.part : Variant → Nat
  | .f8 => 1 | .f6 => 2 | .f8l => 3

/-- Highest settable power limit in watts (00 R1, R2). -/
def Variant.maxW : Variant → Nat
  | .f8 => 3800 | .f6 => 2900 | .f8l => 3600

/-- VFLASH, the output that supplies the flash, is on: I/O die 0 is out of reset (16 R494). -/
def State.vflash (s : State) : Bool := s.domains.any (fun x => x.dom == .io0 && x.live && !x.lost) && !s.resetLow

/-! ### The address map (03 R86 to R88) -/

/-- The window an address falls in. -/
inductive Region where
  | home (off : Nat)
  | direct (off : Nat)
  | aperture (port off : Nat)
  | shutter (off : Nat)
  | remote (pkg off : Nat)
  | none
  deriving DecidableEq, Repr

/-- The physical address map (03 R86, R87). -/
def regionOf (a : Nat) : Region :=
  if 2 ^ 56 ≤ a then .none
  else if a ≥ 2 ^ 55 then .remote (bits a 54 40) (bits a 39 0)
  else if a < 0x6000000000 then .home a
  else if a < 0xC000000000 then .none
  else if a < 0xF000000000 then .aperture ((a - 0xC000000000) / 0xC00000000) ((a - 0xC000000000) % 0xC00000000)
  else if a < 0xF010000000 then .shutter (a - 0xF000000000)
  else if a < 0x10000000000 then .none
  else if a < 0x10400000000 then .direct (a - 0x10000000000)
  else .none

/-- First byte of the Sill direct window. -/
def directBase : Nat := 0x10000000000
/-- First byte of the Shutter space. -/
def shutterBase : Nat := 0xF000000000

/-- Bytes of home memory offered (10 R336). -/
def State.homeBytes (s : State) : Nat := s.home.granules * 2 ^ 21

/-- The port counts as up (12 R416). -/
def Port.isUp (p : Port) : Bool := p.linkUp && p.busMaster && !p.evtDown && !p.hostDown

/-- The sill of the position is present and in service (03 R88; 13 R429). -/
def State.sillUp (s : State) (n : Nat) : Bool := (s.tile n).memory

/-- Line address of a byte address. -/
def lineOf (a : Nat) : Nat := a / 64 * 64

/-- Line addresses of the bytes `a` to `a + n − 1`. -/
def linesOf (a n : Nat) : List Nat := if n = 0 then [] else (upTo ((a + n - 1) / 64 - a / 64 + 1)).map (fun i => (a / 64 + i) * 64)

/-- The Ultur cores, as (tile, core), that hold a line, as the directory slice of the line's home tracks it (01 R22). -/
def State.holdersOf (s : State) (line : Nat) : List (Nat × Nat) :=
  (s.ucores.filter (fun e => e.2.lines.contains line)).map (fun e => (e.1 / 8, e.1 % 8))

/-- Lines that a host caches are back-invalidated before a device write to them (12 R410). -/
def State.backInvalidate (s : State) (ls : List Nat) : State :=
  if s.ports.any (fun e => e.2.cached.any ls.contains) then
    { s with ports := s.ports.map (fun e => (e.1, { e.2 with
      cached := e.2.cached.filter (fun l => !ls.contains l), backInv := e.2.backInv + (e.2.cached.filter ls.contains).length })) }
  else s

/-- A write to the lines of `a` to `a + n − 1` drops them from the caches and ends a reservation of one of them (03 R90; 08 R278). -/
def State.dropLines (s : State) (a n : Nat) : State :=
  let ls := linesOf a n
  let s := s.backInvalidate ls
  let hit (k : UCore) : Bool := k.lines.any ls.contains || k.resv.any (fun l => ls.contains l)
  if s.ucores.any (fun e => hit e.2) then
    (s.ucores.filter (fun e => hit e.2)).foldl (fun s e => { s with ucores := Table.upd {} s.ucores e.1 (fun k => { k with
      lines := k.lines.filter (fun l => !ls.contains l), l1i := k.l1i.filter (fun l => !ls.contains l)
      l1d := k.l1d.filter (fun l => !ls.contains l), resv := if k.resv.any (fun l => ls.contains l) then none else k.resv }) }) s
  else s

/-- Every sill whose direct range `n` bytes from offset `o` of the direct window touch is present (03 R88). -/
def State.sillsUp (s : State) (o n : Nat) : Bool :=
  (upTo ((o + n - 1) / 2 ^ 31 - o / 2 ^ 31 + 1)).all (fun i => s.sillUp (o / 2 ^ 31 + i))

/-- Every byte of `a` to `a + n − 1` is backed local memory (03 R88): home, Sill direct or an aperture that is up. -/
def State.backed (s : State) (a n : Nat) : Bool :=
  match regionOf a with
  | .home o => decide (o + n ≤ s.homeBytes)
  | .direct o => decide (o + n ≤ 0x400000000) && s.sillsUp o n &&
      !s.lostDirect.any (fun p => decide (o / 65536 ≤ p) && decide (p ≤ (o + n - 1) / 65536))
  | .aperture p o => (s.port p).isUp && decide (o + n ≤ (s.port p).size)
  | _ => false

/-- The address is backed (03 R88), the Shutter space included. -/
def State.backedAt (s : State) (a : Nat) : Bool :=
  match regionOf a with
  | .shutter _ => true
  | _ => s.backed a 1

/-- The address names this package (03 R87). -/
def State.isSelf (s : State) (pkg : Nat) : Bool := s.gang.addr == some pkg

/-- The supply of a domain is good. -/
def State.powered (s : State) (d : Domain) : Bool := s.domains.any (fun x => x.dom == d && x.live && !x.lost)

/-! ### Routes (12 R395) -/

/-- The links that a route entry names, in its order. -/
def entryLinks (e : Nat) : List Nat :=
  if bit e 31 then (upTo (bits e 21 20 + 1)).map (fun i => bits e (5 * i + 4) (5 * i)) else []

/-- A link that takes new messages: UP, or in a retrain that its messages wait for (12 R391, R392). -/
def Link.open_ (l : Link) : Bool := l.state == .up || (l.state == .training && l.joined && l.peerAssigned)

/-- The link takes new messages: in the drain of its laser module it takes none (12 R390). -/
def State.linkOpen (s : State) (k : Nat) : Bool := (s.link k).open_ && !(s.laser (k / 4)).drain

/-- The links of a package's route that take new messages. -/
def State.routeLinks (s : State) (pkg : Nat) : List Nat := (entryLinks (Table.get 0 s.gang.routes pkg)).filter s.linkOpen

/-- A link of the route is draining: it is not DOWN, and takes nothing new (12 R390). -/
def State.routeDraining (s : State) (pkg : Nat) : Bool :=
  (entryLinks (Table.get 0 s.gang.routes pkg)).any (fun k => (s.link k).state == .draining)

/-- A package can be reached: this package is assigned, a route is up and the package is not down (12 R393, R395). -/
def State.reachable (s : State) (pkg : Nat) : Bool :=
  s.gang.addr.isSome && !(s.routeLinks pkg).isEmpty && !(s.peer pkg).down

/-- Flits of a link's replay buffer (12 R385). -/
def replayFlits : Nat := 1024

/-- Virtual channels of a message on its first link (12 R386). -/
def chanMg : Nat := 0
def chanRq : Nat := 1
def chanRs : Nat := 4

/-- What a link's state lets it carry that is new: every class while it is UP, MG alone while it is LOCAL, else nothing (12 R391). -/
def Link.takesNew (l : Link) (ch : Nat) : Bool := l.state == .up || (l.state == .loc && ch == chanMg)

/-- The link can take a message of `size` bytes in a virtual channel: its state allows it, and its replay buffer and the peer's buffer have
room (12 R385, R386, R391). -/
def Link.canSend (l : Link) (ch size : Nat) : Bool :=
  l.takesNew ch && decide (l.unacked.length < replayFlits) && decide (size ≤ l.credits.getD ch 0)

/-- A message leaves on a link: it is counted, its credits are spent, and its flit stays in the replay buffer. -/
def State.putOn (s : State) (k : Nat) (w : WaitMsg) : State :=
  let s := s.updLink k (fun l => { l with
    tx := l.tx + BitVec.ofNat 64 w.size, credits := setAt l.credits w.chan (l.credits.getD w.chan 0 - w.size)
    unacked := l.unacked ++ [(l.next, w)], next := (l.next + 1) % 4096 })
  { s with outMsgs := s.outMsgs ++ [⟨k, w.dst, w.bytes⟩] }

/-- A message goes to a link, behind those of its channel that wait there. -/
def State.emit (s : State) (k ch dst size : Nat) (bytes : List Byte) : State :=
  let l := s.link k
  let w : WaitMsg := ⟨ch, dst, size, bytes⟩
  if l.canSend ch size && !l.waiting.any (fun x => x.chan == ch) then s.putOn k w
  else s.updLink k (fun l => { l with waiting := l.waiting ++ [w] })

/-- Messages that waited leave as far as the link takes them, those of a channel in order. -/
def State.pumpLink (s : State) (k : Nat) : State :=
  let ws := (s.link k).waiting
  ws.foldl (fun s w => s.emit k w.chan w.dst w.size w.bytes) (s.updLink k (fun l => { l with waiting := [] }))

/-- A message toward a package leaves on the first link of its route; without one it is lost. -/
def State.sendTo (s : State) (ch dst size : Nat) (bytes : List Byte) : State :=
  match s.routeLinks dst with
  | [] => s
  | k :: _ => s.emit k ch dst size bytes

/-- The link of a route entry that a request takes: entry link number hash mod count, the hash of the source unit number and bits [20:12]
of the destination offset; among the links that take new messages where that one takes none (12 R395). -/
def State.hashLink (s : State) (dst unit offset : Nat) : Option Nat :=
  let e := Table.get 0 s.gang.routes dst
  let hash := unit ^^^ bits offset 20 12
  let up := s.routeLinks dst
  match (entryLinks e)[hash % (bits e 21 20 + 1)]? with
  | none => none
  | some k => if up.contains k then some k else up[hash % up.length]?

/-- An RQ message of `size` bytes toward a package, which names an address and carries its end-to-end number and data (08 R284; 12 R383,
R387); where `keep`, it is kept until it is answered. -/
def State.requestTo (s : State) (unit : Nat) (keep : Bool) (dst a size : Nat) (data : List Byte) : State :=
  match s.hashLink dst unit (a % 2 ^ 40) with
  | none => s
  | some k =>
    let n := Table.get 0 s.gang.nextSeq dst
    let w : WaitMsg := ⟨chanRq, dst, size, bytesOfNat 8 a ++ bytesOfNat 4 n ++ data⟩
    let s := s.emit k w.chan w.dst w.size w.bytes
    { s with gang := { s.gang with nextSeq := Table.put 0 s.gang.nextSeq dst (n + 1)
                                   kept := if keep then s.gang.kept ++ [⟨n, a, unit, k, w⟩] else s.gang.kept } }

/-- A request toward the package of an address; an address of this package takes no link (03 R87). -/
def State.request (s : State) (unit : Nat) (keep : Bool) (a size : Nat) (data : List Byte) : State :=
  match regionOf a with
  | .remote pkg _ => if s.isSelf pkg then s else s.requestTo unit keep pkg a size data
  | _ => s

/-- The response or acknowledgement of a kept request has arrived, or the request has ended without one. -/
def State.unkeep (s : State) (a : Nat) : State :=
  match s.gang.kept.find? (fun r => r.addr == a) with
  | some r => { s with gang := { s.gang with kept := s.gang.kept.erase r } }
  | none => s

/-- A kept request leaves again by another route, on a link but `not` where one is open (12 R387). -/
def State.resend (s : State) (not : Nat) (r : Kept) : State :=
  let others := (s.routeLinks r.msg.dst).filter (fun k => k != not)
  match if others.isEmpty then s.hashLink r.msg.dst r.unit (r.addr % 2 ^ 40) else others[r.unit % others.length]? with
  | none => s
  | some k =>
    let s := s.emit k r.msg.chan r.msg.dst r.msg.size r.msg.bytes
    { s with gang := { s.gang with kept := mapIf (fun x => x == r) (fun x => { x with link := k }) s.gang.kept } }

/-- FL_UNIT of a unit of a tile (15 R487), which is its unit number in the hash of 12 R395 too (log 105). -/
def tileUnit (tile unit : Nat) : Nat := 256 * tile + unit

/-- An edge retrains: migrations, granule moves and map-out steps hold for the stall (13 R425, R432; log 87). -/
def State.stalled (s : State) : Bool := s.edges.any (fun e => e.2.state == .retraining)

/-- The completion timeout in ns (03 R126). -/
def State.timeoutNs (s : State) : Nat := s.cplTimeout * 1000

/-! ### Memory access of the device's engines -/

/-- The page's sub-blocks are served from the Sill: it is placed and its promotion has switched (09 R313). -/
def TierPage.serving (g : TierPage) : Bool := g.state == .sill || g.state == .demoting || g.state == .relocating

/-- Home memory holds sub-block `k` as the Sill does: it is not dirty, or a demotion has written it back and it stands unwritten since. -/
def TierPage.cleanAt (g : TierPage) (k : Nat) : Bool :=
  !bit g.dirty k || (g.state == .demoting && bit g.copied k && !bit g.recopy k)

/-- Where in the Sill a line stands: the sill, the frame, the line of the frame, and whether home memory holds a copy of it. -/
structure SillLine where
  sill  : Nat
  frame : Nat
  line  : Nat
  clean : Bool

/-- The place of a line that the Sill serves: in the frame of a claimed direct page, or in the slot of a sub-block (09 R287, R313). -/
def State.sillLine (s : State) (a : Nat) : Option SillLine :=
  match regionOf a with
  | .direct o =>
    let p := o / 65536
    (s.directPage p).map (fun d => ⟨p / 32768, d.frame, o % 65536 / 64, false⟩)
  | .home o =>
    let g := s.page (o / 65536)
    let k := o / 4096 % 16
    if g.serving then (g.slots[k]?).map (fun t => ⟨t.sill, t.frame, 64 * t.slot + o % 4096 / 64, g.cleanAt k⟩) else none
  | _ => none

/-- Number of a frame over all sills, and of a physical line. -/
def frameNumber (n f : Nat) : Nat := 32768 * n + f
def SillLine.number (l : SillLine) : Nat := 1024 * frameNumber l.sill l.frame + l.line

/-- Bytes in error that a line of the Sill holds. -/
def State.struck (s : State) (l : SillLine) : Nat := Table.get 0 s.strikes l.number

/-- The line of the Sill holds more errors than its code corrects, and home memory has no copy of it (09 R320). -/
def State.sillBad (s : State) (a : Nat) : Bool :=
  !s.strikes.isEmpty && (s.sillLine a).any (fun l => !l.clean && decide (correctable < s.struck l))

/-- Errors of the lines of a frame, `n` of them from line `k`, end: they are written afresh. -/
def State.freshLines (s : State) (f k n : Nat) : State :=
  { s with strikes := s.strikes.filter (fun e => !(e.1 / 1024 == f && decide (k ≤ e.1 % 1024) && decide (e.1 % 1024 < k + n))) }

/-- Some line of the range reads uncorrectable. -/
def State.poisoned (s : State) (a n : Nat) : Bool :=
  s.poison.any (fun l => decide (l + 64 > a) && decide (l < a + n)) || (!s.strikes.isEmpty && (linesOf a n).any s.sillBad)

/-- The address at which a local access of a remote address to this package is served (03 R87). -/
def State.localAddr (s : State) (a : Nat) : Nat :=
  match regionOf a with
  | .remote pkg off => if s.isSelf pkg && decide (off < 0x6000000000) then off else a
  | _ => a

/-- What an engine's or a steward's access to `n` bytes at `a` meets before any data moves (03 R87, R89, R112;
12 R393, R395). -/
def State.accessErr (s : State) (a n : Nat) : Option AccErr :=
  match regionOf a with
  | .remote pkg off =>
    if s.isSelf pkg then (if decide (off + n ≤ s.homeBytes) then none else some .refused)
    else if s.gang.addr.isSome && !(s.peer pkg).down && (s.routeLinks pkg).isEmpty && s.routeDraining pkg then some .timeout
    else if !s.reachable pkg then some (.peerDown pkg)
    else if !(s.peer pkg).answers then some .timeout
    else if off + n ≤ min (s.peer pkg).homeBytes 0x6000000000 then none else some .refused
  | .aperture p o =>
    if (s.port p).hostDown || (s.port p).evtDown then some .hostDown
    else if !s.backed a n then some .refused
    else if !(s.port p).answers then some .timeout
    else (if o + n ≤ (s.port p).size then none else some .refused)
  | _ => if s.backed a n then none else some .refused

/-- The host address of an aperture offset (12 R411). -/
def State.hostAddr (s : State) (p off : Nat) : Nat := ((s.port p).base + off) % 2 ^ 64

/-- Host memory as this device finds it, its own writes in order, landed or not (12 R411, R412). -/
def Port.image (q : Port) : Memory := q.posted.foldl (fun m w => m.write w.1 w.2) q.mem

/-- A device request leaves on a port (12 R411). -/
def Port.request (q : Port) (addr len : Nat) (isWrite : Bool) : Port :=
  { q with lastReq := some ⟨if q.cxl then .cxlCache else .tlp, addr, len, isWrite⟩ }

/-- The device confirms its earlier writes on a port, by a zero-length read or by the GO response: they have landed (12 R412). -/
def Port.confirm (q : Port) : Port := { q with mem := q.image, posted := [] }

/-- The bytes held at an address, without any check. -/
def State.peek (s : State) (a n : Nat) : List Byte :=
  match regionOf (s.localAddr a) with
  | .remote pkg off => (s.peer pkg).mem.read off n
  | .aperture p off => (s.port p).image.read (s.hostAddr p off) n
  | _ => s.mem.read (s.localAddr a) n

/-- A read by an engine or a steward. -/
def State.readMem (s : State) (a n : Nat) : Except AccErr (List Byte) :=
  match s.accessErr a n with
  | some e => .error e
  | none => if s.poisoned (s.localAddr a) n then .error .uncorrectable else .ok (s.peek a n)

/-- Sub-blocks of home pages that `a` to `a + n − 1` touches, as 4 KiB block numbers. -/
def blocksOf (a n : Nat) : List Nat := if n = 0 then [] else (upTo ((a + n - 1) / 4096 - a / 4096 + 1)).map (fun i => a / 4096 + i)

/-- What a write to a 4 KiB home block does to the page that holds it (09 R313, R316): the block's home copy is kept
for 09 R318 when the block first turns dirty. -/
def State.markBlock (s : State) (b : Nat) : State :=
  let p := b / 16
  let k := b % 16
  let g := s.page p
  match g.state with
  | .home => s
  | .promoting => if bit g.copied k then s.updPage p (fun g => { g with recopy := g.recopy ||| 2 ^ k }) else s
  | .sill =>
    let s := if bit g.dirty k then s else { s with stale := s.stale.write (b * 4096) (s.mem.read (b * 4096) 4096) }
    s.updPage p (fun g => { g with dirty := g.dirty ||| 2 ^ k })
  | .demoting | .relocating =>
    let s := if bit g.dirty k && !(g.state == .demoting && bit g.copied k) then s else { s with stale := s.stale.write (b * 4096) (s.mem.read (b * 4096) 4096) }
    s.updPage p (fun g => { g with dirty := g.dirty ||| 2 ^ k,
                                   recopy := if bit g.copied k then g.recopy ||| 2 ^ k else g.recopy })

/-- Lines of the range that the range covers whole. -/
def wholeLines (a n : Nat) : List Nat := (linesOf a n).filter (fun l => decide (a ≤ l) && decide (l + 64 ≤ a + n))

/-- Store bytes in local home or Sill direct memory: a whole-line write replaces an uncorrectable line (10 R328). -/
def State.storeLocal (s : State) (a : Nat) (bs : List Byte) : State :=
  let s := if a < 0x6000000000 then (blocksOf a bs.length).foldl State.markBlock s else s
  let w := wholeLines a bs.length
  let s := s.dropLines a bs.length
  let fresh (t : Table Nat) (l : Nat) : Table Nat := match s.sillLine l with
    | some l => Table.put 0 t l.number 0
    | none => t
  { s with mem := s.mem.write a bs, poison := s.poison.filter (fun l => !w.contains l)
           strikes := if s.strikes.isEmpty then s.strikes else w.foldl fresh s.strikes }

/-- Store bytes at an address without checks, where its region puts them. A device write to a direct page that is not claimed is dropped
(DESIGN CHOICE, log 40). -/
def State.poke (s : State) (a : Nat) (bs : List Byte) : State :=
  match regionOf (s.localAddr a) with
  | .remote pkg off => s.updPeer pkg (fun p => { p with mem := p.mem.write off bs })
  | .aperture p off => s.updPort p (fun q => { q.request (s.hostAddr p off) bs.length true with posted := q.posted ++ [(s.hostAddr p off, bs)] })
  | .direct off => if (s.directPage (off / 65536)).isNone then s else s.storeLocal a bs
  | _ => s.storeLocal (s.localAddr a) bs

/-- A write by an engine or a steward. A partial write of an uncorrectable line fails and changes nothing (10 R328). -/
def State.writeMem (s : State) (a : Nat) (bs : List Byte) : Except AccErr State :=
  match s.accessErr a bs.length with
  | some e => .error e
  | none =>
    let la := s.localAddr a
    let w := wholeLines la bs.length
    if s.poison.any (fun l => decide (l + 64 > la) && decide (l < la + bs.length) && !w.contains l)
        || (!s.strikes.isEmpty && (linesOf la bs.length).any (fun l => !w.contains l && s.sillBad l)) then .error .uncorrectable
    else .ok (s.poke a bs)

/-- A write whose failure has no record of its own. -/
def State.tryWrite (s : State) (a : Nat) (bs : List Byte) : State :=
  match s.writeMem a bs with
  | .ok s => s
  | .error _ => s

/-! ### Interrupt messages and the FLT log -/

/-- An interrupt message: a 4-byte memory write (02 R32). -/
def sendMsg (addr data : Nat) (s : State) : State :=
  { s.tryWrite addr (bytesOfNat 4 data) with msgs := s.msgs ++ [⟨addr, data % 2 ^ 32⟩] }

/-- The 64 bytes of an FLT record (15 R486). -/
def FltRecord.bytes (r : FltRecord) : List Byte :=
  bytesOfNat 4 r.seq ++ bytesOfNat 1 r.cls ++ bytesOfNat 1 r.code ++ bytesOfNat 2 r.unit ++ bytesOfNat 2 r.ctx
    ++ bytesOfNat 6 0 ++ bytesOfNat 8 r.time ++ bytesOfNat 8 r.addr ++ sliceBytes r.data 0 32

/-- Records in the ring that software has not consumed. -/
def Flt.count (f : Flt) : Nat := (f.tail - f.head).toNat

/-- Place a record in the ring, which has room (15 R486, R488). -/
def fltPlace (r : FltRecord) (s : State) : State :=
  let k := s.flt.tail.toNat
  let s := { s with flt := { s.flt with
    ring := Table.put [] s.flt.ring (k % 1024) { r with seq := k }.bytes
    tail := s.flt.tail + 1
    ibis := if s.i3c.dynamic.isSome then s.flt.ibis ++ [r.cls] else s.flt.ibis } }
  if bit s.flt.classEn r.cls then sendMsg s.flt.msiAddr s.flt.msiData s else s

/-- Append a record, or hold or drop it when the ring is full (15 R488). -/
def fltAppend (r : FltRecord) (s : State) : State :=
  if s.flt.count ≥ 1024 ∨ (r.cls = 8 ∧ s.flt.held ≠ []) then
    if r.cls = 8 then { s with flt := { s.flt with held := s.flt.held ++ [r] } }
    else { s with flt := { s.flt with lost := satAdd 16 s.flt.lost 1 } }
  else fltPlace r s

/-- Append a record with two arguments (15 R487). -/
def fltPost (cls code unit ctx addr arg0 arg1 : Nat) (s : State) : State :=
  fltAppend { seq := 0, cls, code, unit, ctx, time := s.now, addr, data := bytesOfNat 4 arg0 ++ bytesOfNat 4 arg1 } s

/-- No context or unit applies. -/
def noUnit : Nat := 0xFFFF

/-- Move held class 0x08 records into the ring while it has room (15 R488). -/
def fltDrainHeld : Nat → State → State
  | 0, s => s
  | n + 1, s =>
    match s.flt.held with
    | [] => s
    | r :: rest =>
      if s.flt.count ≥ 1024 then s else fltDrainHeld n (fltPlace r { s with flt := { s.flt with held := rest } })

/-! ### Context events and fault records -/

/-- A message of a context goes to its CTX_MSI_ADDR. A context that was never enabled has none, and sends nothing (log 92). -/
def contextMsg (ctx data : Nat) (s : State) : State :=
  let d := (s.ctx ctx).desc
  if d.ver = 0 then s else sendMsg d.msiAddr data s

/-- A condition of DB_EVENT arises (02 R510). -/
def raiseEvent (ctx b : Nat) (s : State) : State :=
  let s := s.updCtx ctx (fun c => { c with event := c.event ||| 2 ^ b })
  contextMsg ctx (s.ctx ctx).desc.evtData s

/-- A fault on segment `seg` of a context, met by the command `ring`, `seq` (03 R113, R114). -/
def faultRecord (ctx ring seq seg kind addr : Nat) (s : State) : State :=
  let c := s.ctx ctx
  let a := c.desc.segFault + 32 * seg
  let unwritten (s : State) : State := fltPost 7 7 seg ctx addr kind seq s
  if bit c.pend seg then
    match s.readMem a 32 with
    | .error _ => unwritten s
    | .ok old =>
      let also := satAdd 16 (fieldOf old 0x0E 2) 1
      match s.writeMem (a + 8) (sliceBytes old 8 6 ++ bytesOfNat 2 also) with
      | .error _ => unwritten s
      | .ok s1 =>
        match s1.writeMem (a + 0x10) (bytesOfNat 4 seq) with
        | .error _ => unwritten s
        | .ok s2 => s2
  else
    let rec0 := bytesOfNat 8 addr ++ bytesOfNat 4 seq ++ bytesOfNat 1 ring ++ bytesOfNat 1 kind ++ bytesOfNat 2 0
      ++ bytesOfNat 4 seq ++ bytesOfNat 4 0 ++ bytesOfNat 8 s.now
    match s.writeMem a rec0 with
    | .error _ => unwritten s
    | .ok s =>
      let s := s.updCtx ctx (fun c => { c with pend := c.pend ||| 2 ^ seg })
      sendMsg c.desc.msiAddr c.desc.evtData s

/-! ### Segments (03 R95) -/

def Seg.valid (g : Seg) : Bool := bit g.w0 0
def Seg.permR (g : Seg) : Bool := bit g.w0 1
def Seg.permW (g : Seg) : Bool := bit g.w0 2
def Seg.permA (g : Seg) : Bool := bit g.w0 3
/-- 0 HOME, 1 SILL, 2 HOST. -/
def Seg.type (g : Seg) : Nat := bits g.w0 5 4
def Seg.hint (g : Seg) : Nat := bits g.w0 7 6
def Seg.policy (g : Seg) : Nat := bits g.w0 11 8
def Seg.base (g : Seg) : Nat := bits g.w0 55 21 * 2 ^ 21
def Seg.limit (g : Seg) : Nat := bits g.w1 55 21 * 2 ^ 21
def Seg.size (g : Seg) : Nat := g.limit - g.base
def Seg.hostPort (g : Seg) : Nat := bits g.w2 1 0

/-- A segment of a context. -/
def Ctx.seg (c : Ctx) (n : Nat) : Seg := c.segs.getD n {}

/-! ### In-flight commands -/

/-- The entry of a command. -/
def Ctx.entry? (c : Ctx) (ring seq : Nat) : Option Entry := c.entries.find? (fun e => e.ring == ring && e.seq == seq)

def State.entry? (s : State) (id : CmdId) : Option Entry := (s.ctx id.ctx).entry? id.ring id.seq

/-- Change the entry of a command. -/
def State.updEntry (s : State) (id : CmdId) (f : Entry → Entry) : State :=
  s.updCtx id.ctx (fun c => { c with entries := mapIf (fun e => e.ring == id.ring && e.seq == id.seq) f c.entries })

/-- The opcode of a command (02 R33). -/
def Entry.opcode (e : Entry) : Nat := fieldOf e.pkt 0 2
def Entry.flags (e : Entry) : Nat := fieldOf e.pkt 2 2
def Entry.quiet (e : Entry) : Bool := bit e.flags 8
def Entry.notify (e : Entry) : Bool := bit e.flags 9
def Entry.ctrl (e : Entry) : Nat := fieldOf e.pkt 0x0A 2
def Entry.prio (e : Entry) : Nat := bits e.ctrl 3 1
def Entry.relEn (e : Entry) : Bool := bit e.ctrl 4
def Entry.waitEn (e : Entry) : Bool := bit e.ctrl 6
def Entry.sigEn (e : Entry) : Bool := bit e.ctrl 7
def Entry.waitIdx (e : Entry) : Nat := fieldOf e.pkt 0x10 2
def Entry.sigIdx (e : Entry) : Nat := fieldOf e.pkt 0x12 2
def Entry.waitVal (e : Entry) : BitVec 32 := BitVec.ofNat 32 (fieldOf e.pkt 0x14 4)
def Entry.release (e : Entry) : Nat := fieldOf e.pkt 0x18 8

/-- The command has finished (02 R67). -/
def Entry.isFinished (e : Entry) : Bool :=
  match e.phase with
  | .finished _ => true
  | _ => false

/-- Commands of a context in the in-flight window (02 DB_INFLIGHT). -/
def Ctx.inflight (c : Ctx) : Nat := (c.entries.filter (fun e => e.windowed)).length

/-- Commands of the package in the in-flight window. -/
def State.window (s : State) : Nat := (s.ctxs.map (fun p => p.2.inflight)).sum

/-- Context numbers with entries or an enabled context, in ascending order. -/
def State.liveCtxs (s : State) : List Nat := s.ctxs.map (fun p => p.1)

/-- The state after a command that another one performs. -/
def after (s : State) (o : Host.Outcome State Fault Refusal) : State :=
  match o with
  | .next t => t
  | _ => s

end Sys2Proof.Machine
end

