-- ==== Sys2Proof/Machine/HbmMap.lean ====
section
/-! DEFINITION. From a home address to a device granule, stack and pseudo-channel (10 R324 to R326, R335 to R337, R346). -/

namespace Sys2Proof.Machine

/-- Frames of a sill that are not retired (09 R287, R290). -/
def State.framesOf (s : State) (n : Nat) : Nat := 32768 - (s.sill n).retired.length

/-- U₀: home granules of the variant (10 R335, R336). -/
def Variant.u0 : Variant → Nat
  | .f6 => 142848 | _ => 190464

/-- First granule of the pool range, and the end of the pool range (10 R335). -/
def Variant.pool0 : Variant → Nat
  | .f6 => 143616 | _ => 191488
def Variant.poolEnd : Variant → Nat
  | .f6 => 147456 | _ => 196608

/-- Withdrawn granules have this index modulo this number (10 R347). -/
def Variant.withdrawMod : Variant → Nat
  | .f6 => 48 | _ => 64

/-- A device granule that R347 withdraws once a journal is recorded. -/
def Variant.withdraws (v : Variant) (d : Nat) : Bool := d % v.withdrawMod == v.withdrawMod - 1

/-- The package has a map-out journal, open or done (10 R347). -/
def State.journaled (s : State) : Bool := !s.home.journals.isEmpty

/-- The stored word of a home line: its 64 bytes and the 8 check bytes of its code, in the stack's ECC data bits. No access reaches the one
without the other, so that the check bytes are a function of the bytes that `State.mem` holds; a read with `errs` of the 72 in error is
judged by what the code corrects (10 R323, R327; `correctable`). -/
def State.storedWord (s : State) (line : Nat) : List Byte := s.mem.read line 64 ++ checkBytes (s.mem.read line 64)

/-- A granule of the spill range (10 R335). -/
def Variant.inSpill (v : Variant) (d : Nat) : Bool := decide (v.u0 ≤ d) && decide (d < v.pool0)

/-- Device granules of the usable and pool ranges below `d` that the assignment of 10 R337 skips, and the spill range. -/
def Home.skipped (h : Home) (v : Variant) (d : Nat) : Nat :=
  let spill := if d > v.u0 then v.pool0 - v.u0 else 0
  let wd := if h.builtWithdrawn then (min d v.u0 / v.withdrawMod) + (d / v.withdrawMod - min d v.pool0 / v.withdrawMod) else 0
  let rt := (h.builtRetired.filter (fun r => decide (r < d) && !v.inSpill r && !(h.builtWithdrawn && v.withdraws r))).length
  spill + wd + rt

/-- Find the g-th assigned granule: raise `d` until as many granules as `g` stand below it (10 R337). -/
def Home.nthGo (h : Home) (v : Variant) (g : Nat) : Nat → Nat → Nat
  | 0, d => d
  | n + 1, d =>
    let d' := g + h.skipped v (d + 1)
    if d' ≤ d then d else Home.nthGo h v g n d'

/-- The device granule that the last cold start gave home granule `g` (10 R337). -/
def State.built (s : State) (g : Nat) : Nat := Home.nthGo s.home s.variant g (64 + s.home.builtRetired.length) g

/-- The device granule of home granule `g`: the home remap table (10 R324). -/
def State.deviceGranule (s : State) (g : Nat) : Nat :=
  let r := Table.get 0 s.home.remap g
  if r = 0 then s.built g else r - 1

/-- The home granule that stands on a device granule, if one does: the inverse of the remap table. -/
def State.homeGranule (s : State) (d : Nat) : Option Nat :=
  match s.home.remap.find? (fun e => e.2 == d + 1) with
  | some e => some e.1
  | none =>
    let g := d - s.home.skipped s.variant d
    if g < s.home.granules ∧ Table.get 0 s.home.remap g = 0 ∧ s.built g = d then some g else none

/-- The device address of a home address (10 R324). -/
def State.deviceAddr (s : State) (a : Nat) : Nat := s.deviceGranule (a / 2 ^ 21) * 2 ^ 21 + a % 2 ^ 21

/-- The exclusive-or of the 3-bit groups of a number (10 R325). -/
def fold3 : Nat → Nat → Nat
  | 0, _ => 0
  | n + 1, x => (x % 8) ^^^ fold3 n (x / 8)

/-- Stack position and stack address of a device address (10 R325). -/
def Variant.stackOf (v : Variant) (d : Nat) : Nat × Nat :=
  let c := d / 4096
  match v with
  | .f6 =>
    let k := c / 6
    let l := (c % 6 + fold3 16 k) % 6
    (v.positions.getD l 0, k * 4096 + d % 4096)
  | _ =>
    let k := c / 8
    ((c % 8) ^^^ fold3 16 k, k * 4096 + d % 4096)

/-- The stack that holds a home address. -/
def State.stackOfHome (s : State) (a : Nat) : Nat := (s.variant.stackOf (s.deviceAddr a)).1

/-- Pseudo-channel and its byte address of a stack address with no pseudo-channel mapped out (10 R326). -/
def pcPlain (sa : Nat) : Nat × Nat :=
  let b := sa / 256
  let t := b / 64
  let u := b % 64
  ((u + t) % 64, t * 256 + sa % 256)

/-- The place of a piece of pseudo-channel `x` after its map-out (10 R346): none for a withdrawn granule's piece. -/
def pcMoved (x sa : Nat) : Option (Nat × Nat) :=
  let b := sa / 256
  let t := b / 64
  let r := t / 1024
  let j := t % 1024 / 16
  let i := t % 16
  if j = 63 then none
  else
    let live := (j + 4 * i) % 63
    some (if live < x then live else live + 1, (1024 * r + 1008 + i) * 256 + sa % 256)

/-- The stack, pseudo-channel and pseudo-channel byte address of a device address: granules in ascending order pass through step 3
of 10 R347. -/
def State.pcOfDevice (s : State) (d : Nat) : Nat × Nat × Nat :=
  let (n, sa) := s.variant.stackOf d
  let (p, pa) := pcPlain sa
  let k := s.stack n
  match k.mapPc with
  | some x =>
    if p = x ∧ (k.mapState = 4 ∨ (k.mapState = 3 ∧ d / 2 ^ 21 < k.mapNext)) then
      match pcMoved x sa with
      | some (p', pa') => (n, p', pa')
      | none => (n, p, pa)
    else (n, p, pa)
  | none => (n, p, pa)

/-- The bank and row of a pseudo-channel byte address; the mapping is a model parameter (log 5). -/
def State.rowOf (s : State) (n p pa : Nat) : RowId :=
  let r := pa / s.home.rowBytes
  { stack := n, pc := p, bank := r % 64, row := r / 64 }

/-- The row that holds a line at a device address. -/
def State.rowOfDevice (s : State) (d : Nat) : RowId :=
  let (n, p, pa) := s.pcOfDevice d
  s.rowOf n p pa

/-- The row that holds a home line. -/
def State.rowOfHome (s : State) (a : Nat) : RowId := s.rowOfDevice (s.deviceAddr a)

/-! ### The spill range (10 R335) -/

/-- Device granule that holds what was assigned to a granule of the spill range: its own, or the pool granule it moved to. -/
def Home.spillPlace (h : Home) (d : Nat) : Nat :=
  let r := Table.get 0 h.spillMap d
  if r = 0 then d else r - 1

/-- Stack address of the first byte of the spill frames of a stack. -/
def Variant.spillBase (v : Variant) : Nat :=
  match v with
  | .f6 => v.u0 * 512 / 6 * 4096
  | _ => v.u0 * 512 / 8 * 4096

/-- Bytes of a spill frame: one for each of the 64 logical cores of the tile. -/
def spillBytes : Nat := 2 ^ 22

/-- The tile, core and offset of the spill-frame byte at a device address, if it lies in a spill granule's place. -/
def State.spillAt (s : State) (d : Nat) : Option (Nat × Nat × Nat) :=
  let v := s.variant
  let g := d / 2 ^ 21
  let own : Option Nat := match s.home.spillMap.find? (fun e => e.2 == g + 1) with
    | some e => some e.1
    | none => if v.inSpill g = true ∧ Table.get 0 s.home.spillMap g = 0 then some g else none
  match own with
  | none => none
  | some g0 =>
    let (n, sa) := v.stackOf (g0 * 2 ^ 21 + d % 2 ^ 21)
    let o := sa - v.spillBase
    some (n, o / spillBytes, o % spillBytes)

/-- The device address of offset `o` of the spill frame of a core (10 R335). The chunk of its stack address in its granule row is the
one that the stack hash gives to the stack. -/
def State.spillAddr (s : State) (n core o : Nat) : Nat :=
  let v := s.variant
  let sa := v.spillBase + spillBytes * core + o
  let k := sa / 4096
  let w := match v with
    | .f6 => 6
    | _ => 8
  let c := ((upTo w).find? (fun i => (v.stackOf ((k * w + i) * 4096)).1 == n)).getD 0
  let d := (k * w + c) * 4096 + sa % 4096
  s.home.spillPlace (d / 2 ^ 21) * 2 ^ 21 + d % 2 ^ 21

/-! ### The pool (10 R335, R338) -/

/-- The first pool granule that the last cold start left free of home granules. -/
def State.poolStart (s : State) : Nat := max s.variant.pool0 s.home.builtEnd

/-- A granule that stands in the pool unless it is taken. -/
def State.granuleInPool (s : State) (d : Nat) : Bool := decide (s.poolStart ≤ d) && decide (d < s.variant.poolEnd)

/-- A granule that the pool may not hold: retired, withdrawn, or waiting for a repair. -/
def State.barred (s : State) (d : Nat) : Bool :=
  s.home.retired.contains d || (s.journaled && s.variant.withdraws d) || s.home.waiting.contains d

/-- Withdrawn granules of a range. -/
def Variant.withdrawnIn (v : Variant) (lo hi : Nat) : Nat := hi / v.withdrawMod - lo / v.withdrawMod

/-- Free pool granules (10 R335, R338, R352 HBM_HOME.POOL). -/
def State.poolFree (s : State) (d : Nat) : Bool :=
  ((s.granuleInPool d && !s.home.taken.contains d) || s.home.freed.contains d) && !s.barred d

/-- Number of free pool granules. -/
def State.poolCount (s : State) : Nat :=
  let v := s.variant
  let h := s.home
  let wd (d : Nat) : Bool := s.journaled && v.withdraws d
  let size := (v.poolEnd - s.poolStart) - (if s.journaled then v.withdrawnIn s.poolStart v.poolEnd else 0)
  let gone := ((h.taken ++ h.retired ++ h.waiting).eraseDups.filter (fun d => s.granuleInPool d && !wd d)).length
  size - gone + (h.freed.filter (fun d => !s.barred d && !(s.granuleInPool d && !h.taken.contains d))).length

/-- The lowest free pool granule (log 11: the spec does not say which is taken). -/
def State.poolTake (s : State) : Option Nat :=
  match s.home.freed.filter s.poolFree with
  | d :: _ => some d
  | [] =>
    ((upTo (s.home.taken.length + s.home.retired.length + s.home.waiting.length + s.variant.withdrawMod * 2)).map
      (fun i => s.poolStart + i)).find? (fun d => decide (d < s.variant.poolEnd) && s.poolFree d)

/-- Mark a pool granule as in use. -/
def Home.take (h : Home) (d : Nat) (pool : Bool) : Home :=
  { h with freed := h.freed.filter (fun x => x != d), taken := if pool then insertNat d h.taken else h.taken }

/-- A granule returns to the pool. -/
def Home.give (h : Home) (d : Nat) (pool : Bool) : Home :=
  if pool then { h with taken := h.taken.filter (fun x => x != d) } else { h with freed := insertNat d h.freed }

/-- Usable home granules that the next start will offer (10 R336). -/
def State.nextGranules (s : State) : Nat :=
  s.variant.u0 - 384 * ((s.home.journals.map (fun j => j.1)).eraseDups.length) - s.home.retired.length

end Sys2Proof.Machine
end

