-- ==== Sys2Proof/Machine/Cap.lean ====
section
/-! DEFINITION. The capability blocks (02 R74, R76, R509; 00 R3, R10): their fields are computed from the state, and
CAP_GEN counts the changes. -/

namespace Sys2Proof.Machine

/-- The time class code (12 R403). -/
def TimeClass.code : TimeClass → Nat
  | .locked => 0 | .holdover => 1 | .free => 2 | .isolated => 3 | .unset => 4

/-- CAP_FLAGS bit 3: classes 0 to 2 (12 R403). -/
def TimeClass.ok (c : TimeClass) : Bool := decide (c.code ≤ 2)

/-- Tiles in service as compute units. -/
def State.tilesUp (s : State) : List Nat := (upTo 8).filter (fun n => (s.tile n).inService)

/-- Matrix cores in service on a tile. -/
def State.coresOf (s : State) (t : Nat) : Nat :=
  if (s.tile t).inService then ((upTo 64).filter (fun c => (s.core t c).inService)).length else 0

/-- Ultur cores in service on a tile. -/
def State.ucoresOf (s : State) (t : Nat) : Nat :=
  if (s.tile t).inService then ((upTo 8).filter (fun u => (s.ucore t u).inService)).length else 0

/-- A mask of numbers. -/
def maskOf (l : List Nat) : Nat := (l.map (fun n => 2 ^ n)).sum

/-- Wavelengths of a link that have failed, in its own optics or in its laser module; with no module all nine are dark (12 R389,
R390). -/
def State.deadWaves (s : State) (k : Nat) : Nat :=
  ((upTo 9).filter (fun w => (s.link k).failed.contains w || !bit (s.laser (k / 4)).sources w)).length

/-- The tile that feeds a link's optical engine and the laser module of the link have power (14 R434, R437). -/
def State.linkPower (s : State) (k : Nat) : Bool := s.powered (.tile (k / 4)) && s.powered (.laser (k / 4))

/-- A link is present and trained or trainable: it is not fenced, has power and four wavelengths or more (00 R3; 12 R389). -/
def State.linkUsable (s : State) (k : Nat) : Bool :=
  s.variant.hasLink k && !(s.link k).fenced && s.linkPower k && decide (s.deadWaves k ≤ 5)

/-- CAP_FEAT of a tile or package (05 R193; 08 R286; 11 R382; 12 R417). -/
def Variant.feat (v : Variant) : Nat :=
  match v with
  | .f8l => 0x4EF
  | _ => 0x7FF

/-- CAP_FMT: every format code of 04 R147. -/
def capFmt : Nat := 0x3FFFE

/-- The highest settable power limit of the package. -/
def State.maxW (s : State) : Nat := s.variant.maxW

/-- Fields of the package block that tile and core blocks repeat ("package value", 02 R509). -/
structure CapShared where
  part   : Nat
  flags  : Nat
  hbm    : Nat
  fabric : Nat
  time   : Nat
  home   : Nat
  deriving DecidableEq, Repr

/-- Fields of the package block of its own. -/
structure CapOwn where
  tiles  : Nat
  links  : Nat
  cores  : Nat
  ucores : Nat
  sill   : Nat
  powerMax : Nat
  powerLim : Nat
  deriving DecidableEq, Repr

/-- CAP_FABRIC_ADDR of this package. -/
def State.fabricField (s : State) : Nat :=
  match s.gang.addr with
  | some a => a + 0x8000
  | none => 0

/-- Package values, as far as stage CORES has written the blocks. -/
def State.capShared (s : State) : CapShared :=
  if s.capLive then
    { part := s.variant.part
      flags := flagAt true 2 + flagAt s.time.cls.ok 3
      hbm := maskOf ((upTo 8).filter (fun n => (s.stack n).inService))
      fabric := s.fabricField, time := s.time.cls.code, home := s.homeBytes }
  else { part := s.variant.part, flags := 0, hbm := 0, fabric := 0, time := s.time.cls.code, home := 0 }

/-- The package block's own fields. -/
def State.capOwn (s : State) : CapOwn :=
  if s.capLive then
    { tiles := maskOf s.tilesUp
      links := maskOf ((upTo 32).filter s.linkUsable)
      cores := ((upTo 8).map s.coresOf).sum
      ucores := ((upTo 8).map s.ucoresOf).sum
      sill := 65536 * (((upTo 8).filter s.sillUp).map s.framesOf).sum
      powerMax := s.maxW, powerLim := s.power.forceW }
  else ⟨0, 0, 0, 0, 0, 0, 0⟩

/-- The bytes of a block with the layout of 02 R74. -/
def capBytes (sh : CapShared) (flags kind depth tiles links members cores panes ucores : Nat) (sill ls fmt feat maxw limw gen : Nat)
    (live : Bool) (feats : List Nat) : List Byte :=
  let n (x : Nat) : Nat := if live then x else 0
  bytesOfNat 1 0 ++ bytesOfNat 1 1 ++ bytesOfNat 1 sh.part ++ bytesOfNat 1 flags
    ++ bytesOfNat 1 kind ++ bytesOfNat 1 depth ++ bytesOfNat 1 tiles ++ bytesOfNat 1 sh.hbm
    ++ bytesOfNat 4 links ++ bytesOfNat 2 sh.fabric ++ bytesOfNat 2 members
    ++ bytesOfNat 4 cores ++ bytesOfNat 4 panes ++ bytesOfNat 2 ucores ++ bytesOfNat 1 sh.time ++ bytesOfNat 1 0
    ++ bytesOfNat 2 (n 1024) ++ bytesOfNat 1 (n 16) ++ bytesOfNat 1 (n 16)
    ++ bytesOfNat 4 (n 4096) ++ bytesOfNat 2 (n 512) ++ bytesOfNat 2 (n 256)
    ++ bytesOfNat 8 sh.home ++ bytesOfNat 8 sill ++ bytesOfNat 8 ls
    ++ bytesOfNat 4 fmt ++ bytesOfNat 4 feat ++ bytesOfNat 2 (n 0xFFF) ++ bytesOfNat 2 0
    ++ bytesOfNat 4 maxw ++ bytesOfNat 4 limw ++ bytesOfNat 4 0 ++ bytesOfNat 4 gen ++ bytesOfNat 4 0
    ++ (feats.map (bytesOfNat 4)).flatten ++ List.replicate 128 0

/-- Keys of CAP_GEN: the package, tiles, cores, gang levels. -/
def genPackage : Nat := 0
def genTile (n : Nat) : Nat := 1 + n
def genCore (t c : Nat) : Nat := 16 + 64 * t + c
def genGang (level : Nat) : Nat := 1000 + level

/-- CAP_GEN of a block. -/
def State.gen (s : State) (k : Nat) : Nat := Table.get 0 s.gens k % 2 ^ 32

/-- CAP_TILE_FEAT of a tile in service (05 R193; 08 R286; 11 R382). -/
def State.tileFeat (s : State) (n : Nat) : Nat := if s.capLive && (s.tile n).inService then (s.tile n).feats else 0

/-- CAP_FEAT of the package: what every tile in service has (02 R74; 13 R424). -/
def State.packageFeat (s : State) : Nat :=
  if s.capLive then (s.variant.positions.filter (fun n => (s.tile n).inService)).foldl (fun f n => f &&& s.tileFeat n) s.variant.feat else 0

/-- The package capability block at SYS +0x100 (02 R74). -/
def State.packageCap (s : State) : List Byte :=
  let sh := s.capShared
  let o := s.capOwn
  let live := s.capLive
  capBytes sh (sh.flags + flagAt (live && s.variant.gangs) 0) 3 0 o.tiles o.links (natOfBool live) o.cores (4 * o.cores) o.ucores
    o.sill (o.cores * 2 ^ 22) (if live then capFmt else 0) s.packageFeat o.powerMax o.powerLim
    (s.gen genPackage) live ((upTo 8).map s.tileFeat)

/-- The capability block of a tile (02 R74, R509). -/
def State.tileCap (s : State) (n : Nat) : List Byte :=
  if !s.variant.hasTile n then List.replicate 256 0 else
  let sh := s.capShared
  let live := s.capLive
  let up := live && (s.tile n).inService
  let cores := if live then s.coresOf n else 0
  capBytes sh sh.flags 2 0 (flagAt up n) (((s.capOwn.links / 2 ^ (4 * n)) % 16) * 2 ^ (4 * n)) 0 cores (4 * cores)
    (if live then s.ucoresOf n else 0) (if live && s.sillUp n then 65536 * s.framesOf n else 0) (cores * 2 ^ 22)
    (if live then capFmt else 0) (s.tileFeat n) 0 0 (s.gen (genTile n)) live
    ((upTo 8).map (fun m => if m = n then s.tileFeat m else 0))

/-- The logical core has a block: not vacant and its tile not withdrawn (02 R509). -/
def State.coreLive (s : State) (t c : Nat) : Bool := (s.tile t).inService && (s.core t c).inService

/-- The capability block of a matrix core (02 R74, R509). -/
def State.coreCap (s : State) (t c : Nat) : List Byte :=
  if !(s.capLive && s.coreLive t c) then List.replicate 256 0 else
  let sh := s.capShared
  capBytes sh sh.flags 1 0 (2 ^ t) (((s.capOwn.links / 2 ^ (4 * t)) % 16) * 2 ^ (4 * t)) 0 1 4 0 0 (2 ^ 22)
    capFmt (s.tileFeat t) 0 0 (s.gen (genCore t c)) true ((upTo 8).map (fun m => if m = t then s.tileFeat m else 0))

/-! ### Gang blocks -/

/-- The members of a gang level in service, this package among them, in ascending order (12 R399). -/
def State.gangMembers (s : State) (level : Nat) : List Nat :=
  let l := s.gang.levels.getD (level - 1) {}
  match s.gang.addr with
  | none => []
  | some a => if l.formed then (insertNat a l.ready).filter (fun m => l.members.contains m && (m == a || !(s.peer m).down)) else []

/-- The package block of a member, as this package knows it. -/
def State.memberCap (s : State) (m : Nat) : List Byte := if s.gang.addr == some m then s.packageCap else (s.peer m).cap

/-- Combine one field of the members' blocks. -/
def combine (caps : List (List Byte)) (off w : Nat) (f : Nat → Nat → Nat) : Nat :=
  match caps with
  | [] => 0
  | c :: cs => cs.foldl (fun x d => f x (fieldOf d off w)) (fieldOf c off w)

/-- The gang capability block of a level at SYS +0x400, +0x500 or +0x600 (02 R74, R85; 12 R399). -/
def State.gangCap (s : State) (level : Nat) : List Byte :=
  let ms := s.gangMembers level
  if ms = [] then List.replicate 256 0 else
  let caps := ms.map s.memberCap
  let k (off w : Nat) (f : Nat → Nat → Nat) : Nat := combine caps off w f
  let land (x y : Nat) : Nat := x &&& y
  let add (x y : Nat) : Nat := x + y
  let parts := caps.map (fun c => fieldOf c 2 1)
  let p0 := parts.headD 0
  let part := if parts.all (fun p => p == p0) then p0 else 0
  let fl := k 3 1 land
  let flags := flagAt (bit fl 0 && decide (level < 3)) 0 + 2 + flagAt (bit (k 3 1 (fun x y => x ||| y)) 2) 2 + flagAt (bit fl 3) 3
  bytesOfNat 1 (k 0 1 min) ++ bytesOfNat 1 (k 1 1 min) ++ bytesOfNat 1 part ++ bytesOfNat 1 flags
    ++ bytesOfNat 1 4 ++ bytesOfNat 1 level ++ bytesOfNat 1 (k 6 1 land) ++ bytesOfNat 1 (k 7 1 land)
    ++ bytesOfNat 4 (k 8 4 land) ++ bytesOfNat 2 (ms.headD 0 + 0x8000) ++ bytesOfNat 2 ms.length
    ++ bytesOfNat 4 (k 0x10 4 add) ++ bytesOfNat 4 (k 0x14 4 add) ++ bytesOfNat 2 (k 0x18 2 add)
    ++ bytesOfNat 1 (k 0x1A 1 max) ++ bytesOfNat 1 0
    ++ bytesOfNat 2 (k 0x1C 2 min) ++ bytesOfNat 1 (k 0x1E 1 min) ++ bytesOfNat 1 (k 0x1F 1 min)
    ++ bytesOfNat 4 (k 0x20 4 min) ++ bytesOfNat 2 (k 0x24 2 min) ++ bytesOfNat 2 (k 0x26 2 min)
    ++ bytesOfNat 8 (k 0x28 8 add) ++ bytesOfNat 8 (k 0x30 8 add) ++ bytesOfNat 8 (k 0x38 8 add)
    ++ bytesOfNat 4 (k 0x40 4 land) ++ bytesOfNat 4 (k 0x44 4 land) ++ bytesOfNat 2 (k 0x48 2 land) ++ bytesOfNat 2 0
    ++ bytesOfNat 4 (k 0x4C 4 add) ++ bytesOfNat 4 (k 0x50 4 add) ++ bytesOfNat 4 0 ++ bytesOfNat 4 (s.gen (genGang level))
    ++ bytesOfNat 4 0 ++ ((upTo 8).map (fun n => bytesOfNat 4 (k (0x60 + 4 * n) 4 land))).flatten ++ List.replicate 128 0

/-! ### Changes (00 R10; 02 R76, R509) -/

/-- Count a change of each of the given blocks. -/
def bumpGens (ks : List Nat) (s : State) : State :=
  { s with gens := ks.foldl (fun g k => Table.put 0 g k (Table.get 0 g k + 1)) s.gens }

/-- Blocks of cores that exist in a state. -/
def State.coreKeys (s : State) (t : Nat) : List Nat := ((upTo 64).filter (s.coreLive t)).map (genCore t)

/-- Tile fields that a tile's own block reports. -/
def State.tileOwn (s : State) (n : Nat) : Nat × Nat × Nat × Nat × Nat :=
  (s.tileFeat n, s.coresOf n, s.ucoresOf n, if s.sillUp n then s.framesOf n else 0, (s.capOwn.links / 2 ^ (4 * n)) % 16)

/-- Do `f`, and count the change of every block whose fields it changed, before anything is logged (00 R10). -/
def withCap (f : State → State) (s : State) : State :=
  let s' := f s
  let shared := decide (s.capShared ≠ s'.capShared ∨ s.capLive ≠ s'.capLive)
  let pkg := shared || decide (s.capOwn ≠ s'.capOwn ∨ s.packageFeat ≠ s'.packageFeat)
  let tilesK := ((upTo 8).filter (fun n => s'.variant.hasTile n && (shared || decide (s.tileOwn n ≠ s'.tileOwn n))))
  let coresK := (tilesK.filter (fun n => shared || decide ((s.tileOwn n).1 ≠ (s'.tileOwn n).1) ||
      decide ((s.tileOwn n).2.2.2.2 ≠ (s'.tileOwn n).2.2.2.2))).flatMap s'.coreKeys
  let gangsK := ([1, 2, 3].filter (fun l => decide (s.gangMembers l ≠ s'.gangMembers l) || (pkg && decide (s'.gangMembers l ≠ [])) || decide (s.gangCap l ≠ s'.gangCap l))).map genGang
  bumpGens ((if pkg then [genPackage] else []) ++ tilesK.map genTile ++ coresK ++ gangsK) s'

end Sys2Proof.Machine
end

