-- ==== Sys2Proof/Machine/TierOps.lean ====
section
/-! DEFINITION. Frames, slots, pages and direct pages of the Sill (09): placement, victims, use, release and the
migrations' beginnings and ends, shared by every family. -/

namespace Sys2Proof.Machine

/-! ### Frames and slots (09 R287 to R291) -/

/-- Direct page number of a Sill direct address. -/
def directPageOf (a : Nat) : Nat := (a - directBase) / 65536

/-- The sill of a direct page. -/
def sillOfDirect (p : Nat) : Nat := p / 32768

/-- Claimed direct pages of a sill. -/
def State.claimed (s : State) (n : Nat) : List DirectPage :=
  (s.direct.filter (fun e => sillOfDirect e.1 == n)).filterMap (fun e => e.2)

/-- Frames of a sill that are claimed. -/
def State.claimedFrames (s : State) (n : Nat) : List Nat := (s.claimed n).map (fun d => d.frame)

/-- Slots that a page holds or is moving to, each once: a sub-block that a relocation leaves in place has one slot. -/
def TierPage.held (g : TierPage) : List SillSlot := g.slots ++ g.target.filter (fun t => !g.slots.contains t)

/-- Slots that pages hold or are moving to. -/
def State.usedSlots (s : State) (n : Nat) : List SillSlot :=
  (s.pages.flatMap (fun e => e.2.held)).filter (fun k => k.sill == n)

/-- A frame of a sill is in the pool (09 R287). -/
def State.inPool (s : State) (n f : Nat) : Bool :=
  decide (f < 32768) && !(s.sill n).retired.contains f && !(s.claimedFrames n).contains f

/-- Free slots of a sill (09 TIER_SLOTS.FREE). -/
def State.freeSlots (s : State) (n : Nat) : Nat :=
  if s.sillUp n then 16 * (s.framesOf n - (s.claimedFrames n).length) - ((s.usedSlots n).filter (fun t => s.inPool n t.frame)).eraseDups.length
  else 0

/-- Search frames from `f` upward. -/
def findFrame (ok : Nat → Bool) : Nat → Nat → Option Nat
  | 0, _ => none
  | n + 1, f => if ok f then some f else findFrame ok n (f + 1)

/-- The lowest free slot of a sill, not in the frames of `avoid` (log 11). -/
def State.freeSlot (s : State) (n : Nat) (avoid : List Nat) : Option SillSlot :=
  let used := s.usedSlots n
  let free (f k : Nat) : Bool := !used.contains ⟨n, f, k⟩
  let bound := used.length / 16 + (s.claimedFrames n).length + (s.sill n).retired.length + avoid.length + 1
  if !s.sillUp n then none else
  match findFrame (fun f => s.inPool n f && !avoid.contains f && (upTo 16).any (free f)) (min 32768 bound) 0 with
  | some f => ((upTo 16).find? (free f)).map (fun k => ⟨n, f, k⟩)
  | none => none

/-- The page is being demoted. -/
def TierPage.leaving (g : TierPage) : Bool := g.state == .demoting

/-- A slot of a sill that a page being demoted still holds and that no page is to move into yet: it is free once the demotion ends. -/
def State.dueSlot (s : State) (n : Nat) (avoid : List Nat) : Option SillSlot :=
  let due := (s.pages.filter (fun e => e.2.leaving)).flatMap (fun e => e.2.slots)
  let taken := s.pages.flatMap (fun e => e.2.target)
  due.find? (fun t => t.sill == n && s.inPool n t.frame && !avoid.contains t.frame && !taken.contains t)

/-- A slot that page `p` moves into is free: no page being demoted holds it any more. -/
def State.slotReady (s : State) (p : Nat) (t : SillSlot) : Bool := !s.pages.any (fun e => e.1 != p && e.2.leaving && e.2.slots.contains t)

/-- The frame in the pool whose slots hold the fewest placed sub-blocks, ties to the lowest number (09 R291). -/
def State.bestFrame (s : State) (n : Nat) (reserved : List Nat) : Option Nat :=
  let used := s.usedSlots n
  let use (f : Nat) : Nat := (used.filter (fun k => k.frame == f)).length
  let ok (f : Nat) : Bool := s.inPool n f && !reserved.contains f
  let bound := min 32768 (used.length + (s.claimedFrames n).length + (s.sill n).retired.length + reserved.length + 1)
  if !s.sillUp n then none else
  match findFrame (fun f => ok f && use f == 0) bound 0 with
  | some f => some f
  | none =>
    ((upTo 32768).filter ok).foldl (fun b f => match b with
      | none => some f
      | some g => if use f < use g then some f else some g) none

/-! ### Pages -/

/-- The page is placed or being placed: it holds or takes slots. -/
def TierPage.placed (g : TierPage) : Bool := g.state != .home

/-- The page is migrating (09 R313). -/
def TierPage.migrating (g : TierPage) : Bool := g.state == .promoting || g.state == .demoting || g.state == .relocating

/-- Sill that holds sub-block `k` of page `p` (09 R288). -/
def State.sillOfBlock (s : State) (p k : Nat) : Nat := s.stackOfHome (p * 65536 + k * 4096)

/-- The sub-blocks still to copy of a migrating page (09 R316). -/
def TierPage.toCopy (g : TierPage) : List Nat :=
  (upTo 16).filter (fun k => !bit g.copied k && (g.state != .demoting || bit g.dirty k) || bit g.recopy k)

/-- Pages of a context that satisfy a condition or are pinned by it, each once, and its claimed direct pages (09 R303). -/
def State.pagesUse (s : State) (c : Nat) (ok : TierPage → Bool) : Nat :=
  (s.pages.filter (fun e => (ok e.2 && e.2.owner == .ctx c) || e.2.pin == some c)).length
    + (s.direct.filter (fun e => match e.2 with
        | some d => d.claim == .ctx c && !d.releasing || d.next == some c
        | none => false)).length

/-- Pages in use by a context (09 R303). -/
def State.tierUse (s : State) (c : Nat) : Nat := s.pagesUse c TierPage.placed

/-- The page is placed, and is not being demoted. -/
def TierPage.stays (g : TierPage) : Bool := g.placed && !g.leaving

/-- Use against which a placement is held: pages being demoted to make room have made it (09 R303; log 11). -/
def State.quotaUse (s : State) (c : Nat) : Nat := s.pagesUse c TierPage.stays

/-- Home pages pinned plus direct pages claimed by a context (09 TIER_USE.PINNED). -/
def State.tierPins (s : State) (c : Nat) : Nat :=
  (s.pages.filter (fun e => e.2.pin == some c)).length
    + (s.direct.filter (fun e => match e.2 with
        | some d => d.claim == .ctx c && !d.releasing || d.next == some c
        | none => false)).length

/-- Shared pages in use against which a placement is held (09 R303; log 11). -/
def State.sharedUse (s : State) : Nat := (s.pages.filter (fun e => e.2.stays && e.2.owner == .shared)).length

/-- The schedule's current layer: before any access it is the last one, so that layer 0 begins the first cycle (09 R310;
log 21). -/
def Ctx.currentLayer (c : Ctx) : Nat := min c.layer (c.layers.length - 1)

/-- The layers protected by a context's schedule: the current one and those placed ahead (09 R310, R311). -/
def State.protectedLayers (s : State) (c : Ctx) : List Layer :=
  let k := c.layers.length
  if k = 0 then [] else
  (upTo (min k (bits s.schedAhead 3 0 + 1))).filterMap (fun i => c.layers[(c.currentLayer + i) % k]?)

/-- A page holds bytes of a layer. -/
def Layer.hasPage (l : Layer) (p : Nat) : Bool :=
  decide (l.bytes > 0) && decide (l.addr / 65536 ≤ p) && decide (p ≤ (l.addr + l.bytes - 1) / 65536)

/-- A page is protected by some context's layer schedule (09 R311). -/
def State.protected (s : State) (p : Nat) : Bool :=
  s.ctxs.any (fun e => (s.protectedLayers e.2).any (fun l => l.hasPage p))

/-- The class of a victim: pages with no owner, then without KEEP, then with it, each by heat and address (09 R301;
ties by address are the model's, log 11). -/
def victimRank (g : TierPage) : Nat := (if g.owner == .none then 0 else if !g.keep then 256 + g.heat else 512 + g.heat)

/-- The first page, by rank, that satisfies a condition and may be a victim. -/
def State.victim (s : State) (ok : Nat → TierPage → Bool) : Option Nat :=
  (s.pages.filter (fun e => e.2.state == .sill && e.2.pin.isNone && ok e.1 e.2 && !s.protected e.1)).foldl
    (fun b e => match b with
      | none => some e
      | some v => if victimRank e.2 < victimRank v.2 then some e else some v) none |>.map (fun e => e.1)

/-- A page leaves the Sill: its slots are freed and its marks end. Heat and epoch stay (09 R299, R316). -/
def TierPage.leave (g : TierPage) : TierPage :=
  { g with state := .home, pin := none, keep := false, owner := .none, dirty := 0, copied := 0, recopy := 0, round := 0,
           next := 0, slots := [], target := [] }

/-- Bytes read and written at a stack (10 R352 HBM_RD_BYTES, HBM_WR_BYTES). -/
def State.traffic (s : State) (n rd wr : Nat) : State :=
  s.updStack n (fun k => { k with rdBytes := k.rdBytes + BitVec.ofNat 64 rd, wrBytes := k.wrBytes + BitVec.ofNat 64 wr })

/-- A page is released by TIER_EVICT or LASTUSE (09 R298, R314): dropped when clean, demoted when dirty, its promotion
abandoned, or the release deferred while it relocates. -/
def State.releasePage (s : State) (p : Nat) : State :=
  let g := s.page p
  if g.pin.isSome then s
  else match g.state with
    | .sill =>
      if g.dirty = 0 then s.updPage p TierPage.leave
      else s.updPage p (fun g => { g with state := .demoting, copied := 0, recopy := 0, round := 0, next := 0 })
    | .promoting => s.updPage p TierPage.leave
    | .relocating => s.updPage p (fun g => { g with deferred := g.deferred ++ [.evict] })
    | .home | .demoting => s

/-- A page begins to move home: a victim, or one that a lower quota or a claimed frame drives out (09 R301, R304, R314). -/
def State.demote (s : State) (p : Nat) : State :=
  s.updPage p (fun g => { g with state := .demoting, keep := false, target := [], copied := 0, recopy := 0, round := 0, next := 0 })

/-- What the Sill held of a sub-block is lost: home has the value of its last write-back (09 R318; 10 R351). -/
def State.loseBlock (p : Nat) (s : State) (k : Nat) : State :=
  let a := p * 65536 + k * 4096
  { s with mem := s.mem.write a (s.stale.read a 4096), stale := s.stale.clear a 4096 }

/-- A dirty sub-block is written back; home memory that is out of service refuses it, and it is lost (10 R351). -/
def State.writeHome (p : Nat) (s : State) (k : Nat) : State :=
  let a := p * 65536 + k * 4096
  if a + 4096 ≤ s.homeBytes then ({ s with stale := s.stale.clear a 4096 }).traffic (s.sillOfBlock p k) 0 4096 else s.loseBlock p k

/-- Sub-blocks of a page whose home copy is not current: dirty ones that a demotion has not written back. -/
def TierPage.behind (g : TierPage) : List Nat :=
  (upTo 16).filter (fun k => bit g.dirty k && !(g.state == .demoting && bit g.copied k && !bit g.recopy k))

/-- A page leaves the Sill and its epoch rises. -/
def State.dropPage (s : State) (p : Nat) : State := s.updPage p (fun g => { g.leave with epoch := (g.epoch + 1) % 256 })

/-- A demotion that ends at once: dirty sub-blocks are written back and the slots are freed (09 R316, R318). -/
def State.demoteNow (s : State) (p : Nat) : State := ((s.page p).behind.foldl (State.writeHome p) s).dropPage p

/-- Every page that holds or takes slots is written back and dropped. -/
def State.demoteAll (s : State) : State := ((s.pages.filter (fun e => e.2.placed)).map (fun e => e.1)).foldl State.demoteNow s

/-- A sill is lost: the dirty sub-blocks in it are lost, the others of their pages are written back, and the pages leave the Sill (09
R318). -/
def State.loseSillPages (n : Nat) (s : State) : State :=
  let hit (g : TierPage) : Bool := g.held.any (fun t => t.sill == n)
  let lose (p : Nat) (s : State) (k : Nat) : State := if s.sillOfBlock p k = n then s.loseBlock p k else s.writeHome p k
  ((s.pages.filter (fun e => hit e.2)).map (fun e => e.1)).foldl (fun s p => ((s.page p).behind.foldl (lose p) s).dropPage p) s

/-- Take slots for the given sub-blocks of a page, demoting a victim of a full sill (09 R301): none when some sill has
neither a free slot, nor one that a demotion frees, nor a victim. -/
def State.takeSlots (s : State) (p : Nat) (avoid : List Nat) : List Nat → List SillSlot → Option (State × List SillSlot)
  | [], acc => some (s, acc.reverse)
  | k :: ks, acc =>
    let n := s.sillOfBlock p k
    let s' (s : State) : State := s.updPage p (fun g => { g with target := g.target ++ acc.reverse })
    match (s' s).freeSlot n avoid with
    | some t => State.takeSlots s p avoid ks (t :: acc)
    | none => match (s' s).dueSlot n avoid with
      | some t => State.takeSlots s p avoid ks (t :: acc)
      | none =>
        match s.victim (fun q g => q != p && g.slots.any (fun t => t.sill == n)) with
        | none => none
        | some v =>
          let s := s.demote v
          match (s' s).dueSlot n avoid with
          | some t => State.takeSlots s p avoid ks (t :: acc)
          | none => none

/-- Begin to place a page (09 R288, R313): PROMOTING with 16 slots taken; the state unchanged where room is lacking. -/
def State.placePage (s : State) (p : Nat) (owner : Owner) (pin : Option Nat) (keep : Bool) : Option State :=
  match s.takeSlots p [] (upTo 16) [] with
  | none => none
  | some (s, slots) =>
    some (s.updPage p (fun g => { g with
      state := .promoting, owner, pin, keep, dirty := 0, copied := 0, recopy := 0, round := 0, next := 0, slots := [], target := slots }))

/-- Room under a quota for one more page of an owner, demoting its own victim where that is allowed (09 R303). -/
def State.quotaRoom (s : State) (o : Owner) (demote : Bool) : Option State :=
  let fits : Bool := match o with
    | .ctx c => decide (s.quotaUse c + 1 ≤ (s.ctx c).quota)
    | .shared => decide (s.sharedUse + 1 ≤ s.sharedQuota)
    | .none => false
  if fits then some s
  else if !demote then none
  else match s.victim (fun _ g => g.owner == o) with
    | none => none
    | some v =>
      let s' := s.demote v
      let fits' : Bool := match o with
        | .ctx c => decide (s'.quotaUse c + 1 ≤ (s'.ctx c).quota)
        | .shared => decide (s'.sharedUse + 1 ≤ s'.sharedQuota)
        | .none => false
      if fits' then some s' else none

/-- Place an unplaced page for an owner within its quota; nothing happens without room (09 R301, R303). -/
def State.tryPlace (s : State) (p : Nat) (o : Owner) (keep demote : Bool) : State :=
  if (s.page p).state != .home then s else
  match s.quotaRoom o demote with
  | none => s
  | some s' =>
    match s'.placePage p o none keep with
    | none => s
    | some s'' => s''

/-- Heat of a page rises by `k`, saturating at 255 (09 R299). -/
def TierPage.warm (g : TierPage) (k : Nat) : TierPage := { g with heat := satAdd 8 g.heat k }

/-! ### Migration (09 R314 to R316) -/

/-- A promotion is abandoned before its freeze: its slots are freed (09 R315). -/
def State.abandonPromotion (s : State) (p : Nat) : State :=
  if (s.page p).state == .promoting then s.updPage p TierPage.leave else s

/-- Sub-block `k` of a page being demoted is written back. -/
def State.writeBlock (p : Nat) (s : State) (k : Nat) : State :=
  (s.writeHome p k).updPage p (fun g => { g with
    copied := g.copied ||| 2 ^ k, recopy := g.recopy &&& (0xFFFF ^^^ 2 ^ k) })

/-- Sub-block `k` of a migrating page moves from source to target (09 R316). -/
def State.copyBlock (p : Nat) (s : State) (k : Nat) : State :=
  match (s.page p).state with
  | .promoting => s.traffic (s.sillOfBlock p k) 4096 0
  | .demoting => s.writeHome p k
  | _ => s

/-- A page gives up the slots `hit`, and takes none in the frames `frames`: a placed one moves to RELOCATING, or is demoted where it
finds no slot; the copies of one that migrates into such a slot restart in new slots (09 R291, R313, R314). -/
def State.reslot (s : State) (p : Nat) (hit : SillSlot → Bool) (frames : List Nat) : State :=
  let g := s.page p
  let redo (l : List SillSlot) : Option (State × List SillSlot) :=
    l.zipIdx.foldl (fun acc e => match acc with
      | none => none
      | some (s, out) =>
        if hit e.1 then
          match (State.takeSlots (s.updPage p (fun g => { g with target := out ++ l })) p frames [e.2] []) with
          | some (s, t :: _) => some (s, out ++ [t])
          | _ => none
        else some (s, out ++ [e.1])) (some (s, []))
  if (g.state == .promoting || g.state == .relocating) && g.target.any hit then
    match redo g.target with
    | some (s, l) =>
      let kept (m k : Nat) : Nat :=
        if g.target.getD k ⟨0, 0, 0⟩ == l.getD k ⟨0, 0, 0⟩ then m else m &&& (0xFFFF ^^^ 2 ^ k)
      s.updPage p (fun g => { g with target := l, copied := (upTo 16).foldl kept g.copied })
    | none => if g.pin.isSome then s else if g.state == .promoting then s.abandonPromotion p else s.demote p
  else if g.state == .sill && g.slots.any hit then
    match redo g.slots with
    | some (s, l) => s.updPage p (fun g => { g with state := .relocating, target := l, copied := 0, recopy := 0, round := 0, next := 0 })
    | none => if g.pin.isSome then s else s.demote p
  else if g.state == .demoting then
    -- dirty sub-blocks of the slots are written back first
    (g.toCopy.filter (fun k => (g.slots[k]?).any hit)).foldl (State.writeBlock p) s
  else s

/-- A page gives up its slots in frames of a sill that are taken. -/
def State.relocate (s : State) (p : Nat) (n : Nat) (frames : List Nat) : State :=
  s.reslot p (fun t => t.sill == n && frames.contains t.frame) frames

/-- The demotion of a page is abandoned: what it has written back is clean, and pages that were to move into its slots take others (09
R314). -/
def State.keepPage (s : State) (p : Nat) (pin : Option Nat) : State :=
  let g := s.page p
  let clean : Nat := g.copied &&& (0xFFFF ^^^ g.recopy)
  let s := s.updPage p (fun g => { g with state := .sill, pin, dirty := g.dirty &&& (0xFFFF ^^^ clean), copied := 0, recopy := 0, round := 0, next := 0 })
  let into := (s.pages.filter (fun e => e.1 != p && e.2.target.any g.slots.contains)).map (fun e => e.1)
  into.foldl (fun s q => s.reslot q g.slots.contains []) s

/-- Pages with a slot in the given frames of a sill. -/
def State.pagesIn (s : State) (n : Nat) (frames : List Nat) : List Nat :=
  (s.pages.filter (fun e => (e.2.slots ++ e.2.target).any (fun t => t.sill == n && frames.contains t.frame))).map (fun e => e.1)

/-- Take a frame of a sill for a direct page and zero the page (09 R291; 03 R100): none without a frame in the pool. -/
def State.claimFrame (s : State) (p : Nat) (claim : Claim) : Option State :=
  let n := sillOfDirect p
  match s.bestFrame n [] with
  | none => none
  | some f =>
    let moved := s.pagesIn n [f]
    let s := (s.setDirect p (some { claim, frame := f })).freshLines (frameNumber n f) 0 1024
    let s := moved.foldl (fun s q => s.relocate q n [f]) s
    some { s with mem := s.mem.clear (directBase + p * 65536) 65536
                  poison := s.poison.filter (fun l => !(decide (directBase + p * 65536 ≤ l) && decide (l < directBase + (p + 1) * 65536))) }

/-- A direct page's frame returns to the pool, and its contents are discarded. -/
def State.releaseDirect (s : State) (p : Nat) : State :=
  let a := directBase + p * 65536
  { s.setDirect p none with
    mem := s.mem.clear a 65536
    poison := s.poison.filter (fun l => !(decide (a ≤ l) && decide (l < a + 65536))) }

/-- Every direct page claimed in a sill is released (09 R318). -/
def releaseSill (n : Nat) (s : State) : State :=
  ((s.direct.filter (fun e => sillOfDirect e.1 == n)).map (fun e => e.1)).foldl State.releaseDirect s

/-- A releasing page with no holder returns its frame and its contents are discarded; a waiting claim then takes effect
(09 R295). -/
def State.settleDirect (s : State) (p : Nat) : State :=
  match s.directPage p with
  | none => s
  | some d =>
    if d.releasing && d.holds == 0 then
      let s := s.releaseDirect p
      match d.next with
      | none => s
      | some c => (s.claimFrame p (.ctx c)).getD s
    else s

/-- Mark a direct page releasing (09 R295). -/
def State.startRelease (s : State) (p : Nat) : State :=
  match s.directPage p with
  | none => s
  | some d => s.setDirect p (some { d with releasing := true })

/-- A command lets go of the direct pages it holds (09 R295). -/
def State.dropHolds (s : State) (ps : List Nat) : State :=
  ps.foldl (fun s p => match s.directPage p with
    | none => s
    | some d => s.setDirect p (some { d with holds := d.holds - 1 })) s

/-- The pin owner lets a page go: it stays placed as an ordinary page of its owner (09 R307, R314). -/
def State.unpin (s : State) (p c : Nat) : State :=
  s.updPage p (fun g => if g.pin == some c then { g with pin := none } else g)

/-- What the tier does when a context ends (03 R100; 09 R302, R311, R319): claims are released, pins cleared, placed
pages lose their owner, the quota returns to zero, the schedule ends and the mirror page loses a user. A page that another context has
pinned loses its owner too, and keeps the pin (DESIGN CHOICE, log 121). -/
def State.endTier (s : State) (c : Nat) : State :=
  let loses (g : TierPage) : TierPage :=
    { g with pin := if g.pin == some c then none else g.pin, owner := if g.owner == .ctx c then .none else g.owner }
  let s := s.pages.foldl (fun s e => s.updPage e.1 loses) s
  let mine := s.direct.filter (fun e => match e.2 with
    | some d => d.claim == .ctx c || d.next == some c
    | none => false)
  let s := mine.foldl (fun s e => match s.directPage e.1 with
    | some d =>
      let d := if d.next == some c then { d with next := none } else d
      let s := s.setDirect e.1 (some d)
      if d.claim == .ctx c then s.startRelease e.1 else s
    | none => s) s
  let m := directPageOf (s.ctx c).desc.segMirror
  let s := match s.directPage m with
    | some d => match d.claim with
      | .mirror us =>
        let us := us.filter (fun u => u != c)
        if us = [] then (s.startRelease m).settleDirect m else s.setDirect m (some { d with claim := .mirror us })
      | .ctx _ => s
    | none => s
  s.updCtx c (fun x => { x with quota := 0, layers := [], layer := 0 })

end Sys2Proof.Machine
end

