-- ==== Sys2Proof/Machine/Demand.lean ====
section
/-! DEFINITION. What an engine's access to local home memory does beside moving data: the controllers' queues (10 R329,
R330), heat, hints and the layer schedule (09 R297 to R299, R310). -/

namespace Sys2Proof.Machine

/-- A local home line is served by the HBM of its stack. -/
def State.atHome (s : State) (a : Nat) : Bool := decide (a < 0x6000000000) && !(s.page (a / 65536)).serving

/-! ### Controller queues (10 R329, R330) -/

/-- Reads of a bank that hold queue entries. -/
def State.bankReads (s : State) (n p b : Nat) : Nat :=
  ((s.pc n p).reads.filter (fun r => !r.held && (s.rowOfHome r.line).bank == b)).length

/-- A gather engine reads ahead of its ops (08 R274, R275). -/
def Reader.runsAhead : Reader → Bool
  | .ahead _ _ => true
  | _ => false

/-- A read of a home line is queued, or held in its requester at the cap of its bank, which adds HOTBANK_W to its page's
heat, unless it only runs ahead (08 R275). A read that a queued write covers takes its data from the write queue. -/
def State.enqueueRead (s : State) (r : PcRead) : State :=
  let row := s.rowOfHome r.line
  let q := s.pc row.stack row.pc
  if q.writes.contains r.line then s
  else if s.bankReads row.stack row.pc row.bank ≥ 16 then
    let s := s.updPc row.stack row.pc (fun q => { q with reads := q.reads ++ [{ r with held := true }] })
    if r.who.runsAhead then s
    else
    let s := s.updStack row.stack (fun k => { k with capped := satAdd 32 k.capped 1 })
    s.updPage (r.line / 65536) (fun g => g.warm (bits s.tierCfg 15 8))
  else
    s.updPc row.stack row.pc (fun q => { q with
      reads := q.reads ++ [{ r with held := decide ((q.reads.filter (fun r => !r.held)).length ≥ 128) }] })

/-- Writes leave the write queue: until it is empty or 64 have been served. -/
def State.drainWrites (s : State) (n p : Nat) : State :=
  let out := (s.pc n p).writes.take 64
  let s := s.updStack n (fun k => { k with wrBytes := k.wrBytes + BitVec.ofNat 64 (64 * out.length) })
  s.updPc n p (fun q => { q with
    writes := q.writes.drop 64
    rows := out.foldl (fun t l => let r := s.rowOfHome l; Table.put 0 t r.bank (r.row + 1)) q.rows })

/-- Entries of a write queue (10 R330). -/
def writeQueue : Nat := 64

/-- A write of a home line enters its write queue, which drains when it holds 48, unless its pseudo-channel recalibrates (10 R330,
R343). -/
def State.enqueueWrite (s : State) (line : Nat) : State :=
  let row := s.rowOfHome line
  let q := s.pc row.stack row.pc
  let s := s.updPc row.stack row.pc (fun q => { q with writes := q.writes ++ [line] })
  if 48 ≤ q.writes.length + 1 ∧ q.state ≠ .recalibrating then s.drainWrites row.stack row.pc else s

/-- A write queue holds more than its entries: what would leave it so waits (10 R330). -/
def State.overfull (s : State) : Bool := s.hbm.any (fun k => k.2.pcs.any (fun p => decide (writeQueue < p.2.writes.length)))

/-- Writes of lines do not all find room in their write queues, which cannot drain (10 R330, R343). -/
def State.noRoom (s : State) (ls : List Nat) : Bool :=
  let place (l : Nat) : Nat × Nat := ((s.rowOfHome l).stack, (s.rowOfHome l).pc)
  let late := ls.filter (fun l => s.atHome l && (s.pc (place l).1 (place l).2).state == .recalibrating)
  late.any (fun l => decide (writeQueue < (s.pc (place l).1 (place l).2).writes.length + (late.filter (fun k => place k == place l)).length))

/-- Every line of a local home write that is not in the Sill enters its write queue. -/
def State.noteWrites (s : State) (a n : Nat) : State :=
  ((linesOf a n).filter s.atHome).foldl State.enqueueWrite s

/-! ### Layer schedules (09 R310, R311) -/

/-- Tier pages of a layer in rising order. -/
def Layer.pages (l : Layer) : List Nat :=
  if l.bytes = 0 ∨ l.places = false then []
  else (upTo ((l.addr + l.bytes - 1) / 65536 - l.addr / 65536 + 1)).map (fun i => l.addr / 65536 + i)

/-- Place pages in order until one does not fit the quota (09 R303, R310). -/
def State.placeAhead (c : Nat) : List Nat → State → State
  | [], s => s
  | p :: ps, s =>
    if (s.page p).state == .demoting then
      State.placeAhead c ps (s.updPage p (fun g => { g with deferred := g.deferred ++ [.prefetch c] }))
    else if (s.page p).state != .home then State.placeAhead c ps s
    else match s.quotaRoom (.ctx c) false with
      | none => s
      | some _ => State.placeAhead c ps (s.tryPlace p (.ctx c) false false)

/-- Place the pages of the layers ahead of the current one, up to MAX_MIB. -/
def State.prefetchLayers (s : State) (c : Nat) : State :=
  let x := s.ctx c
  let k := x.layers.length
  if k = 0 then s else
  let ahead := (upTo (min (k - 1) (bits s.schedAhead 3 0))).filterMap (fun i => x.layers[(x.currentLayer + i + 1) % k]?)
  s.placeAhead c (((ahead.flatMap Layer.pages).eraseDups).take (16 * bits s.schedAhead 23 8))

/-- The layers that a range of home addresses touches, in rising order. -/
def Ctx.layersOf (x : Ctx) (a n : Nat) : List Nat :=
  (x.layers.zipIdx.filter (fun e => decide (e.1.addr < a + n) && decide (a < e.1.addr + e.1.bytes))).map (fun e => e.2)

/-- A demand access of the context to layer `j` moves its current layer forward, and to layer 0 after the last one
(09 R310). -/
def State.touchLayer (c : Nat) (s : State) (j : Nat) : State :=
  let x := s.ctx c
  let last := x.layers.length - 1
  if x.layer < j ∨ x.layers.length ≤ x.layer ∨ (x.layer = last ∧ j = 0 ∧ last ≠ 0) then
    (s.updCtx c (fun x => { x with layer := j })).prefetchLayers c
  else s

/-! ### Hints and heat (09 R296 to R299, R302) -/

/-- A demand access of `lines` lines of a home page, with its owner, policy and hint. -/
def State.touchPage (s : State) (p lines : Nat) (o : Owner) (policy hint : Nat) : State :=
  if hint = 2 then s
  else
    let s := s.updPage p (fun g => { g.warm lines with last := o, policy })
    let g := s.page p
    if g.placed then (if hint = 1 ∧ g.state ≠ .demoting then s.updPage p (fun g => { g with keep := true }) else s)
    else if hint = 1 ∧ (policy = 0 ∨ policy = 2) then s.tryPlace p o true true
    else if hint = 0 ∧ policy = 2 then s.tryPlace p o false true
    else s

/-- A demand access of a host core or of another package: it counts heat, its owner is shared, and it carries neither hint
nor policy (09 R297, R302). -/
def State.touchShared (s : State) (p lines : Nat) : State := s.updPage p (fun g => { g.warm lines with last := .shared })

/-- The parts of a range that lie in each tier page, as (page, lines). -/
def pageParts (a n : Nat) : List (Nat × Nat) :=
  let ls := linesOf a n
  ((ls.map (fun l => l / 65536)).eraseDups).map (fun p => (p, (ls.filter (fun l => l / 65536 == p)).length))

/-- The tier's part of a demand access of an engine through a segment (09 R297, R298). -/
def State.demandTier (s : State) (c : Nat) (g : Seg) (hint a n : Nat) : State :=
  if g.type ≠ 0 ∨ 0x6000000000 ≤ s.localAddr a then s
  else
    let la := s.localAddr a
    let s := (pageParts la n).foldl (fun s e => s.touchPage e.1 e.2 (.ctx c) g.policy hint) s
    ((s.ctx c).layersOf la n).foldl (State.touchLayer c) s

/-- Heat of an access to home memory that no segment carries. -/
def State.demandShared (s : State) (a n : Nat) : State :=
  if s.localAddr a < 0x6000000000 then (pageParts (s.localAddr a) n).foldl (fun s e => s.touchShared e.1 e.2) s else s

/-- Home lines of a range that a read takes from the stacks enter their queues (10 R329, R352 HBM_RD_BYTES). -/
def State.queueReads (s : State) (who : Reader) (a n : Nat) : State :=
  ((linesOf (s.localAddr a) n).filter s.atHome).foldl (fun s l => s.enqueueRead { line := l, who, since := s.now }) s

/-- A line of a range still waits in a controller's queue for its reader. -/
def State.linesPending (s : State) (who : Reader) (a n : Nat) : Bool :=
  let ls := linesOf (s.localAddr a) n
  s.hbm.any (fun k => k.2.pcs.any (fun p => p.2.reads.any (fun r => r.who == who && ls.contains r.line)))

/-- A number for a read of another package or a host, which no such read in a queue has. -/
def State.freshTag (s : State) : Nat :=
  let tag (w : Reader) : Nat := match w with
    | .remote _ n _ _ | .tlp _ n _ _ _ => n + 1
    | _ => 0
  s.hbm.foldl (fun m k => k.2.pcs.foldl (fun m p => p.2.reads.foldl (fun m r => max m (tag r.who)) m) m) 0

/-- One queued read of the line of an address by a reader is dropped. -/
def State.dropOneRead (s : State) (who : Reader) (a : Nat) : State :=
  let l := lineOf (s.localAddr a)
  let row := s.rowOfHome l
  s.updPc row.stack row.pc (fun q => match q.reads.find? (fun r => r.who == who && r.line == l) with
    | some r => { q with reads := q.reads.erase r }
    | none => q)

/-- A host request ends with Unsupported Request or an error completion, which AER reports (12 R409, R410). -/
def tlpError (p : Nat) (s : State) : State := { s.updPort p (fun q => { q with aer := q.aer + 1 }) with busError := true }

/-- Lines that a CXL.mem read leaves in the host's caches enter the directory (12 R410). -/
def noteCached (p a n : Nat) (s : State) : State :=
  s.updPort p (fun x => { x with cached := (linesOf a n).foldl (fun l k => insertNat k l) x.cached })

/-- A host read completes with its data (12 R410). -/
def tlpData (p a : Nat) (mem : Bool) (bs : List Byte) (s : State) : State :=
  { if mem then noteCached p a bs.length s else s with bus := natOfBytes bs, busError := false }

/-- Requests of a read of another package's memory, one a line, or of a host's (12 R383, R411). -/
def State.requestLines (s : State) (unit a n : Nat) : State :=
  match regionOf a with
  | .aperture p o => s.updPort p (fun q => q.request (s.hostAddr p o) n false)
  | _ => (linesOf a n).foldl (fun s l => s.request unit false l 16 []) s

/-- Requests of a write to another package's memory, one a line, each with the bytes of the line that it writes (12 R383). -/
def State.requestWrites (s : State) (unit : Nat) (keep : Bool) (a : Nat) (bs : List Byte) : State :=
  (linesOf a bs.length).foldl (fun s l =>
    let lo := max l a
    let hi := min (l + 64) (a + bs.length)
    s.request unit keep lo (16 + max 8 (hi - lo)) (sliceBytes bs (lo - a) (hi - lo))) s

/-- Home pages that an access with hint LASTUSE releases when its op completes (09 R298). -/
def State.lastUsePages (s : State) (g : Seg) (hint a n : Nat) : List Nat :=
  if hint = 2 ∧ g.type = 0 ∧ s.localAddr a < 0x6000000000 then (pageParts (s.localAddr a) n).map (fun e => e.1) else []

end Sys2Proof.Machine
end

