-- ==== Sys2Proof/Machine/Completion.lean ====
section
/-! DEFINITION. How commands become ready, finish, are recorded, signal and are discarded (02 R52 to R73, R30), and what
becomes of their runs (07 R245 to R247): operations shared by every family. -/

namespace Sys2Proof.Machine

/-! ### Runs on cores -/

/-- The run belongs to a command. -/
def Inst.of (i : Inst) (id : CmdId) : Bool := i.cmd == id

/-- The opcode of a word (04 R138). -/
def wordOp (w : List Byte) : Nat := fieldOf w 0 2
def wordFlags (w : List Byte) : Nat := fieldOf w 2 1
def wordWaitEn (w : List Byte) : Bool := bit (fieldOf w 0 4) 24
def wordSigEn (w : List Byte) : Bool := bit (fieldOf w 0 4) 25
def wordWait (w : List Byte) : Nat := bits (natOfBytes w) 35 32
def wordSig (w : List Byte) : Nat := bits (natOfBytes w) 39 36
def wordImm (w : List Byte) : Nat := bits (natOfBytes w) 127 100
/-- Descriptor and map index of operand 0 (A), 1 (B) or 2 (C). -/
def wordDesc (w : List Byte) (k : Nat) : Nat := bits (natOfBytes w) (51 + 20 * k) (40 + 20 * k)
def wordMap (w : List Byte) (k : Nat) : Nat := bits (natOfBytes w) (59 + 20 * k) (52 + 20 * k)
def wordUses (w : List Byte) (k : Nat) : Bool := wordDesc w k != 0xFFF

/-- TILE_STEP is set (04 R142). -/
def wordStep (w : List Byte) : Bool := bit (wordFlags w) 7

/-- Send the event message without a DB_EVENT bit (07 R248). -/
def preemptMsg (ctx : Nat) (s : State) : State :=
  let d := (s.ctx ctx).desc
  if d.preemptEvt then contextMsg ctx d.evtData s else s

/-- The words of a run's program. -/
def State.wordsOf (s : State) (i : Inst) : List (List Byte) :=
  match s.entry? i.cmd with
  | some e => e.image.words
  | none => []

/-- A gather op has written every output (08 R273). -/
def OpRec.gaDone (o : OpRec) : Bool :=
  match o.ga with
  | none => true
  | some g => decide (g.outs ≤ g.written.length)

/-- An op has done all its work but its completion. -/
def OpRec.dataDone (o : OpRec) : Bool :=
  o.started && o.accs == 0 && (o.failed || (decide (o.tiles ≤ o.tile) && decide (o.rows ≤ o.row) && o.gaDone))

/-- Count of a program token. -/
def Inst.token (i : Inst) (n : Nat) : Nat := i.tokens.getD n 0

/-- A tile of a TILE_STEP op is part done: its count has been taken (04 R142; 07 R243). -/
def OpRec.midTile (o : OpRec) : Bool := decide (128 * o.tile < o.row)

/-- The row at which a TILE_STEP op goes on. -/
def OpRec.nextRow (o : OpRec) : Nat := max (128 * o.tile) o.row

/-- The op takes a count of its token before its next tile (04 R142). -/
def tileWaits (w : List Byte) : Bool := wordStep w && wordWaitEn w

/-- The first op of an engine that has not started. -/
def Inst.unstarted (i : Inst) (eng : Engine) : Option OpRec := i.ops.find? (fun o => o.eng == eng && !o.started)

/-- Every op of an engine that has started has done its work. -/
def Inst.settled (i : Inst) (eng : Engine) : Bool := i.ops.all (fun o => o.eng != eng || !o.started || o.dataDone)

/-- A stream that wants its SWAP (06 R200). -/
def wantsSwap (w : List Byte) : Bool := wordOp w == 0x0C02 && bit (wordFlags w) 0

/-- The panes have a row to issue: a stream that may start, or one with rows left; a stream that waits for a token's count has none
(06 R214). -/
def Inst.rowReady (i : Inst) (words : List (List Byte)) : Bool :=
  let counted (o : OpRec) : Bool :=
    let w := words.getD o.word []
    !tileWaits w || o.midTile || decide (0 < i.token (wordWait w))
  let next := match i.unstarted .mx with
    | some o =>
      let w := words.getD o.word []
      wordOp w == 0x0C02 && i.settled .mx && !wantsSwap w && counted o
    | none => false
  next || i.ops.any (fun o => o.eng == .mx && o.started && !o.failed && counted o && (decide (o.tile < o.tiles) || decide (o.row < o.rows)))

/-! ### Holds, and what ends after a failure (04 R136, R140) -/

/-- Opcodes of the sequencer's own words. -/
def isProgWord (o : Nat) : Bool := o == 0x2000 || o == 0x2002 || o == 0x2003 || o == 0x2004

/-- The run's next word is held at a token: its wait finds no count, or the word could issue but for the full token of its signal. -/
def Inst.wordHeld (i : Inst) (words : List (List Byte)) : Bool :=
  match words[i.pc]? with
  | none => false
  | some w =>
    let op := wordOp w
    let waits := wordWaitEn w && !wordStep w && !i.taken
    (waits && i.token (wordWait w) == 0) ||
      (!waits && isProgWord op && (op != 0x2004 || i.ops.isEmpty) && wordSigEn w && decide (65535 ≤ i.token (wordSig w)))

/-- A started op waits for the count of its next tile. -/
def Inst.tileHeld (i : Inst) (words : List (List Byte)) (o : OpRec) : Bool :=
  let w := words.getD o.word []
  o.started && !o.failed && o.sigSince.isNone && tileWaits w && !o.midTile && decide (o.tile < o.tiles) && i.token (wordWait w) == 0

/-- An op held at a per-tile wait, or at a full token. -/
def heldOp (words : List (List Byte)) (i : Inst) (o : OpRec) : Bool := o.sigSince.isSome || i.tileHeld words o

/-- The oldest op of an engine. -/
def Inst.oldest (i : Inst) (eng : Engine) : Option OpRec := i.ops.find? (fun o => o.eng == eng)

/-- Remove the oldest op of an engine. -/
def dropOldest (eng : Engine) : List OpRec → List OpRec
  | [] => []
  | o :: t => if o.eng == eng then t else o :: dropOldest eng t

/-- After a failure of the command, held ops end without further work, wherever they stand in their engines. -/
def endHeld (words : List (List Byte)) (i : Inst) : Inst :=
  { i with ops := i.ops.filter (fun o => !heldOp words i o), cut := i.cut || i.ops.any (heldOp words i) }

/-- The moment at which a hold began: now, or before where it holds on. -/
def since? (held : Bool) (old : Option Nat) (now : Nat) : Option Nat := if held then some (old.getD now) else none

/-- Note which of a run's word and ops are held at a token, from when (04 R140). -/
def Inst.noteHolds (i : Inst) (words : List (List Byte)) (now : Nat) : Inst :=
  { i with holdSince := since? (i.wordHeld words) i.holdSince now
           ops := i.ops.map (fun o => { o with waitSince := since? (i.tileHeld words o) o.waitSince now }) }

/-- Bring a core's run up to date after a change: what is held is noted, and once its command has failed what is held ends (04 R136,
R140). -/
def State.settleRun (s : State) (t c : Nat) : State :=
  let k := s.core t c
  match k.run with
  | none => s
  | some i =>
    match s.entry? i.cmd with
    | none => s
    | some e =>
      let i := i.noteHolds e.image.words s.now
      let i := if e.failure.isSome then endHeld e.image.words i else i
      s.setCore t c { k with run := some i }

/-- A cold core whose panes have a row to issue waits for Louvre admission (06 R214, R215). -/
def State.louvreCheck (s : State) (t c : Nat) : State :=
  let k := s.core t c
  match k.run with
  | none => s
  | some i =>
    if k.state == .running && !k.warm && !k.admitted && k.waiting.isNone && i.rowReady (s.wordsOf i) then
      let first := !(upTo 64).any (fun d => (s.core t d).waiting.isSome)
      let s := s.updCore t c (fun k => { k with waiting := some s.now })
      if first then s.updTile t (fun x => { x with louvreFrom := some ((s.now + 31) / 32 * 32) }) else s
    else s

/-- What follows from a change of a core's run: holds and ends, and the wait for Louvre admission. -/
def State.settleCore (s : State) (t c : Nat) : State := (s.settleRun t c).louvreCheck t c

/-- Record a failure of a run of a command: the first by station time, then of the lowest instance (04 R136). -/
def failRun (id : CmdId) (inst status detail : Nat) (s : State) : State :=
  let f : Failure := ⟨s.now, inst, status, detail⟩
  let first (g : Failure) : Bool := decide (f.time < g.time) || (f.time == g.time && decide (f.inst < g.inst))
  s.updEntry id (fun e => { e with failure := match e.failure with
    | none => some f
    | some g => if first g then some f else some g })

/-- A command is tile work: a PROG_RUN or a single tile-op. -/
def Entry.isTileWork (e : Entry) : Bool :=
  let o := e.opcode
  o == 0x2001 || (decide (0x0800 < o) && decide (o < 0x1800))

/-- Runs of a command. -/
def Entry.instances (e : Entry) : Nat := if e.opcode = 0x2001 then fieldOf e.pkt 0x2C 4 else 1

/-- A command of PRIO 6 or 7 that is ready or running with a run to start, in a context whose scope holds the core. -/
def State.urgent (s : State) (t c : Nat) : Bool :=
  s.ctxs.any (fun x => (match x.2.desc.kind with
      | 1 => x.2.desc.index == 64 * t + c
      | 2 => x.2.desc.index == t
      | _ => true) &&
    x.2.entries.any (fun e => e.isTileWork && decide (6 ≤ e.prio) && e.failure.isNone && e.readyAt.isSome && !e.isFinished &&
      decide (e.started.length < e.instances)))

/-- Cores that a scope covers (02 CTX_SCOPE): those in service. -/
def State.scopeCores (s : State) (kind index : Nat) : List (Nat × Nat) :=
  let all := (upTo 8).flatMap (fun t => (upTo 64).map (fun c => (t, c)))
  let live := all.filter (fun p => s.coreLive p.1 p.2)
  match kind with
  | 1 => live.filter (fun p => p.1 == index / 64 && p.2 == index % 64)
  | 2 => live.filter (fun p => p.1 == index)
  | _ => live

/-- A core is idle: it runs nothing and holds no pre-empted instance. -/
def Core.idle (k : Core) : Bool := k.run.isNone && k.held.isNone && k.state == .idle

/-- A fault in the panes of a run has failed its command: it wins over a pre-emption (06 R223, R224). -/
def Inst.paneFault (i : Inst) : Bool := i.ops.any (fun o => o.eng == .mx && o.failed)

/-- A core that a command of PRIO 6 or 7 may stop: it runs or restores an instance of PRIO 0 to 3 and holds none (02
R53; 06 R224; 07 R247). -/
def Core.stoppable (k : Core) : Bool :=
  k.run.any (fun i => decide (i.prio ≤ 3) && !i.paneFault) && k.held.isNone && (k.state == .running || k.state == .resuming)

/-- Runs of a command that still need a core. -/
def Entry.toStart (e : Entry) : Nat := e.instances - e.started.length

/-- A command of PRIO 6 or 7 stops running work of PRIO 0 to 3 when no core of its scope is idle: as many cores as it has runs to
start, the core `pref` first (02 R53). -/
def preemptFor (id : CmdId) (pref : Nat × Nat) (s : State) : State :=
  match s.entry? id with
  | none => s
  | some e =>
    let d := (s.ctx id.ctx).desc
    let cores := s.scopeCores d.kind d.index
    if !(e.isTileWork && decide (6 ≤ e.prio) && e.failure.isNone) || cores.any (fun p => (s.core p.1 p.2).idle) then s
    else
      let going := (cores.filter (fun p => (s.core p.1 p.2).state == .stopping)).length
      let able := ((pref :: cores).eraseDups).filter (fun p => cores.contains p && (s.core p.1 p.2).stoppable)
      (able.take (e.toStart - going)).foldl (fun s p => s.updCore p.1 p.2 (fun k => { k with state := .stopping })) s

/-- Every dispatched command of PRIO 6 or 7 with runs to start stops what it needs (02 R53). -/
def preemptAll (s : State) : State :=
  s.ctxs.foldl (fun s c => (c.2.entries.filter (fun e => e.phase == .running && decide (6 ≤ e.prio) && decide (0 < e.toStart))).foldl
    (fun s e => preemptFor ⟨c.1, e.ring, e.seq⟩ (0, 0) s) s) s

/-- A core is left by its run; a pre-empted instance begins to resume on it, unless a command of PRIO 6 or 7 needs the core within
1 ms of the pre-emption (07 R228, R245, R246). With the core taken again, a dispatched command that finds none idle stops what it needs
(02 R53). -/
def State.freeCore (s : State) (t c : Nat) : State :=
  let k := s.core t c
  let s := s.setCore t c { k with run := none, state := .idle, waiting := none, admitted := false, runAhead := [] }
  match k.held with
  | none => s
  | some p =>
    if s.urgent t c && decide (s.now < k.heldSince + 1000000) then s
    else
      let s := s.setCore t c { k with run := some { p with restoring := true }, held := none, state := .resuming, waiting := none, admitted := false, runAhead := [] }
      preemptAll (preemptMsg p.cmd.ctx s)

/-- Cores with a running or pre-empted instance, as (tile, core). -/
def State.busyCores (s : State) : List (Nat × Nat) :=
  (s.cores.filter (fun e => e.2.run.isSome || e.2.held.isSome)).map (fun e => (e.1 / 64, e.1 % 64))

/-- The command whose run reads a line. -/
def Reader.run? : Reader → Option CmdId
  | .op _ _ cmd _ _ _ => some cmd
  | _ => none

/-- Reads of a command that no run makes: those of a reduction or copy. -/
def State.readsOfCmd (s : State) (id : CmdId) : Bool :=
  s.hbm.any (fun k => k.2.pcs.any (fun p => p.2.reads.any (fun r => match r.who with
    | .command cmd _ => cmd == id
    | _ => false)))

/-- Every run of a command leaves its core without further effect (02 R72; 07 R247). Reads that its ops queued are
dropped. -/
def State.dropRuns (s : State) (id : CmdId) : State :=
  let s := s.busyCores.foldl (fun s tc =>
    let k := s.core tc.1 tc.2
    let s := match k.held with
      | some p => if p.of id then s.setCore tc.1 tc.2 { k with held := none } else s
      | none => s
    match (s.core tc.1 tc.2).run with
    | some r => if r.of id then s.freeCore tc.1 tc.2 else s
    | none => s) s
  s.hbm.foldl (fun s e => e.2.pcs.foldl (fun s q =>
    if q.2.reads.any (fun r => r.who.run? == some id) then s.updPc e.1 q.1 (fun p => { p with reads := p.reads.filter (fun r => r.who.run? != some id) }) else s) s) s

/-! ### Readiness (02 R52, R54, R55, R58, R60, R62) -/

/-- The wait condition of R54. -/
def waitHolds (c : Ctx) (e : Entry) : Bool :=
  !e.waitEn || !((Table.get {} c.tokens e.waitIdx).count - e.waitVal).msb

/-- Latch what has come to hold for one waiting command. -/
def latch (now : Nat) (c : Ctx) (e : Entry) : Entry :=
  if e.phase != .waiting then e else
  let e := if e.waitDone.isNone && waitHolds c e then
      { e with waitDone := some now, depFailed := e.waitEn && (Table.get {} c.tokens e.waitIdx).poison,
               late := e.relEn && decide (e.release < now) }
    else e
  if e.readyAt.isNone && e.waitDone.isSome && e.released then { e with readyAt := some now } else e

/-- Latch, and finish a command whose satisfied wait was on a poisoned token (02 R55). -/
def latchDep (now : Nat) (c : Ctx) (e : Entry) : Entry :=
  let e := latch now c e
  if e.phase == .waiting && e.waitDone.isSome && e.depFailed
  then { e with phase := .finished ⟨sDepFailed, e.waitIdx, 0, 0⟩ } else e

/-- Latch what has come to hold for the waiting commands of a context. -/
def refreshWaits (n : Nat) (s : State) : State :=
  s.updCtx n (fun c => { c with entries := c.entries.map (latchDep s.now c) })

/-! ### Finishing (02 R39, R56, R64 to R68) -/

/-- RED_OP, RED_TENSOR and RED_PERIOD of a command (11 R353). -/
def Entry.redOp (e : Entry) : Nat := fieldOf e.pkt 0x29 1
def Entry.redTensor (e : Entry) : Nat := fieldOf e.pkt 0x2A 2
def Entry.redPeriod (e : Entry) : Nat := fieldOf e.pkt 0x2C 2

/-- The command is a reduction, and a reduction or a copy among ranks (11 R353). -/
def Entry.reduces (e : Entry) : Bool := e.opcode == 0x1801 || e.opcode == 0x1802
def Entry.isRed (e : Entry) : Bool := decide (0x1801 ≤ e.opcode) && decide (e.opcode ≤ 0x1804)

/-- A self-test ends with its command (15 R475, R477). -/
def endSelftest (id : CmdId) (s : State) : State :=
  if s.selftest.any (fun x => x.cmd == id) then { s with selftest := none } else s

/-- A command finishes with a result; its runs leave their cores. -/
def finishWith (id : CmdId) (r : CmdResult) (s : State) : State :=
  (endSelftest id (s.dropRuns id)).updEntry id (fun e => if e.isFinished then e else { e with phase := .finished r })

/-- A command is discarded (02 R72). -/
def discard (id : CmdId) (s : State) : State := finishWith id ⟨sDiscarded, 0, 0, 0⟩ s

/-- Discard every unfinished command that satisfies a condition (02 R72). -/
def discardIf (p : Nat → Entry → Bool) (s : State) : State :=
  s.ctxs.foldl (fun s c => c.2.entries.foldl (fun s e =>
    if !e.isFinished && p c.1 e then discard ⟨c.1, e.ring, e.seq⟩ s else s) s) s

/-- Discard reductions and copies at work that a unit which leaves service may serve: those of the contexts that satisfy `p`. Which
units work for such a command the spec does not say, so unless the context is scoped to one core a free value decides (02 R72; 11
R379). -/
def discardReds (p : CtxDesc → Bool) (s : State) : State :=
  s.ctxs.foldl (fun s c => c.2.entries.foldl (fun s e =>
    if e.isRed && e.phase == .running && p c.2.desc then
      let (v, s) := s.draw
      if c.2.desc.kind = 1 ∨ v % 2 = 1 then discard ⟨c.1, e.ring, e.seq⟩ s else s
    else s) s) s

/-- Cores have left service: a command at work on cores none of which is left in its scope is discarded (02 R72), and those that find no
core idle stop what they need (02 R53). -/
def recheckCores (s : State) : State :=
  let none_ (d : CtxDesc) : Bool := (s.scopeCores d.kind d.index).isEmpty
  preemptAll (discardIf (fun n e => (e.isTileWork || e.isRed) && none_ (s.ctx n).desc) s)

/-- End of a DISABLE, or of BUSY at a termination (02 R30). -/
def clearBusy (n : Nat) (s : State) : State :=
  if bit s.ctxStat 31 && s.ctxStat % 1024 == n then { s with ctxStat := s.ctxStat - 2 ^ 31 } else s

/-- Terminate a context as under R30: fetching stops, every in-flight command is discarded, and what the context held of
the tier ends (02 R30; 09 R319). -/
def terminateCtx (n : Nat) (s : State) : State :=
  let c := s.ctx n
  if c.phase == .disabled then s else
  let s := c.entries.foldl (fun s e => if e.isFinished then s else discard ⟨n, e.ring, e.seq⟩ s) s
  let s := s.updCtx n (fun c => { c with phase := .disabled, syncing := false })
  (clearBusy n s).endTier n

/-- A context being disabled whose last command has left the window is disabled (02 R30). -/
def settleDisable (n : Nat) (s : State) : State :=
  let c := s.ctx n
  if c.phase == .disabling && c.entries.isEmpty then
    (clearBusy n (s.updCtx n (fun c => { c with phase := .disabled }))).endTier n
  else s

/-- Remove a command from its context. -/
def removeEntry (id : CmdId) (s : State) : State :=
  let held := match s.entry? id with
    | some e => e.direct
    | none => []
  let s := s.updCtx id.ctx (fun c => { c with
    entries := c.entries.filter (fun e => !(e.ring == id.ring && e.seq == id.seq))
    held := c.held.filter (fun h => h != (id.ring, id.seq)) })
  let s := s.dropHolds held
  settleDisable id.ctx s

/-- The command signals a token when it ends with a status. A malformed packet may name a token above 255; no such token exists, and it
makes no signal (02 R38, R56, R57; log 93). -/
def Entry.signals (e : Entry) (st : Nat) : Bool := e.sigEn && decide (e.sigIdx ≤ 255) && st != sDiscarded

/-- The token signal of a finished command (02 R56, R57). -/
def signalToken (id : CmdId) (e : Entry) (st : Nat) (s : State) : State :=
  if e.signals st then
    let bump (t : Token) : Token := { count := t.count + 1, poison := t.poison || poisons st }
    refreshWaits id.ctx (s.updCtx id.ctx (fun c => { c with tokens := Table.upd {} c.tokens e.sigIdx bump }))
  else s

/-- The armed condition of DB_CQ_ARM (02 R39). -/
def Ctx.armedNow (c : Ctx) : Bool := c.armed && !(c.cqTail - c.cqArm).msb && c.cqTail != c.cqArm

/-- The completion message after a record or a finish: one message, which spends the arming (02 R39). -/
def completionMsg (n : Nat) (notify : Bool) (s : State) : State :=
  let c := s.ctx n
  if notify || c.armedNow then
    let s := if c.armedNow then s.updCtx n (fun c => { c with armed := false }) else s
    contextMsg n c.desc.msiData s
  else s

/-- The completion ring has room (02 R67). -/
def Ctx.cqRoom (c : Ctx) : Bool := decide ((c.cqTail - c.cqHead).toNat < 2 ^ c.desc.cqLog2)

/-- The 32 bytes of record `k` (02 R64, R65). -/
def recordBytes (n : Nat) (c : Ctx) (e : Entry) (r : CmdResult) (now : Nat) : List Byte :=
  let k := c.cqTail.toNat
  let phase := 1 - k / 2 ^ c.desc.cqLog2 % 2
  let sig := if e.signals r.status then ((Table.get {} c.tokens e.sigIdx).count + 1).toNat else 0
  bytesOfNat 4 e.seq ++ bytesOfNat 2 r.status ++ bytesOfNat 2 (e.ring + 16 * phase + flagAt e.late 5)
    ++ bytesOfNat 2 n ++ bytesOfNat 2 r.detail ++ bytesOfNat 4 (min r.countA (2 ^ 32 - 1)) ++ bytesOfNat 4 (min r.countB (2 ^ 32 - 1))
    ++ bytesOfNat 4 sig ++ bytesOfNat 8 now

/-- A record goes to the FLT log (02 R68). -/
def redirectRecord (n : Nat) (e : Entry) (r : CmdResult) (s : State) : State :=
  fltAppend { seq := 0, cls := 8, code := 1, unit := e.ring, ctx := n, time := s.now, addr := 0,
              data := recordBytes n (s.ctx n) e r s.now } s

/-- Write a completion record, or redirect it (02 R65, R68). -/
def writeRecord (n : Nat) (e : Entry) (r : CmdResult) (s : State) : State :=
  let c := s.ctx n
  if c.cqLost then redirectRecord n e r s
  else
    let a := c.desc.cqBase + 32 * (c.cqTail.toNat % 2 ^ c.desc.cqLog2)
    match s.writeMem a (recordBytes n c e r s.now) with
    | .ok s => s.updCtx n (fun c => { c with cqTail := c.cqTail + 1 })
    | .error .hostDown => (redirectRecord n e r s).updCtx n (fun c => { c with cqLost := true })
    | .error _ =>
      let s := (redirectRecord n e r s).updCtx n (fun c => { c with cqLost := true })
      fltPost 7 2 e.ring n a 0 0 (terminateCtx n s)

/-- The status that a context is shown: every status of contract version 1.0 is known to it (02 R80). -/
def shownStatus (st : Nat) : Nat := st

/-- The port of a HOST segment of the command, or of its completion ring. -/
def Entry.ports (e : Entry) (cqBase : Nat) : List Nat :=
  let host := (e.segs.filter (fun g => g.type == 2)).map (fun g => g.hostPort)
  match regionOf cqBase with
  | .aperture p _ => p :: host
  | _ => host

/-- Every earlier write of the command is confirmed on each port that it wrote through, before its record, its signal or its message (12
R412). -/
def confirmPorts (id : CmdId) (e : Entry) (s : State) : State :=
  ((e.ports (s.ctx id.ctx).desc.cqBase).eraseDups).foldl (fun s p =>
    if (s.port p).posted.isEmpty || (s.port p).hostDown then s else s.updPort p Port.confirm) s

/-- A finished command leaves: its writes are confirmed, then record, signal, message, in that order (02 R39, R56, R66, R67; 12 R412). -/
def completeEntry (id : CmdId) (e : Entry) (r : CmdResult) (s : State) : State :=
  let s := confirmPorts id e s
  let r := { r with status := shownStatus r.status }
  let s := if e.quiet && r.status == sOk then s else writeRecord id.ctx e r s
  let s := signalToken id e r.status s
  let s := completionMsg id.ctx e.notify s
  removeEntry id s

/-- A SEG_SYNC that completes lets the fetcher accept again (03 R102). -/
def endSync (n : Nat) (e : Entry) (s : State) : State :=
  if e.opcode == 0x0401 then s.updCtx n (fun c => { c with syncing := false, replaced := none }) else s

/-- A table line that SEG_SYNC read proves uncorrectable before its record is written: a table could not be read, and nothing is installed
(03 R103; log 60). -/
def failSync (id : CmdId) (s : State) : State :=
  let back (c : Ctx) : Ctx := match c.replaced with
    | some (segs, crc, gen) => { c with segs, mirrorCrc := crc, gen, replaced := none }
    | none => c
  (s.updCtx id.ctx back).updEntry id (fun e => { e with phase := .finished ⟨sBadPacket, 0, 0, 0⟩ })

/-- Accumulates that a command sent are in flight: its writes are not all visible (02 R66). -/
def State.accsOf (s : State) (id : CmdId) : Bool := s.accs.any (fun a => a.own && a.cmd == id)

/-- COMMAND_FINISH of a finished command: once its reads are served and all its writes visible it leaves, or is held for want of room with CQ_STALL
set (02 R66, R67). -/
def finishEntry (id : CmdId) (s : State) : State :=
  match s.entry? id with
  | none => s
  | some e =>
    match e.phase with
    | .finished r =>
      if (s.ctx id.ctx).held.contains (id.ring, id.seq) || s.accsOf id || s.readsOfCmd id then s else
      let s := endSync id.ctx e s
      let c := s.ctx id.ctx
      if (e.quiet && r.status == sOk) || c.cqLost || (c.held.isEmpty && c.cqRoom) then completeEntry id e r s
      else
        let s := s.updCtx id.ctx (fun c => { c with held := c.held ++ [(id.ring, id.seq)] })
        if c.held.isEmpty then raiseEvent id.ctx evCqStall s else s
    | _ => s

/-- Held records that now have room are written in order; CQ_STALL is raised again when the ring fills (02 R67, R510). -/
def drainHeld (n : Nat) : Nat → State → State
  | 0, s => s
  | k + 1, s =>
    let c := s.ctx n
    match c.held with
    | [] => s
    | (ring, seq) :: rest =>
      if !c.cqRoom && !c.cqLost then raiseEvent n evCqStall s
      else
        let s := s.updCtx n (fun c => { c with held := rest })
        let id : CmdId := ⟨n, ring, seq⟩
        match s.entry? id with
        | some e =>
          match e.phase with
          | .finished r => drainHeld n k (completeEntry id e r s)
          | _ => drainHeld n k s
        | none => drainHeld n k s

/-! ### Command-level work -/

/-- Run a dispatched command of one opcode with `f`, which gives its result; nothing happens for a command that is not
running or is another operation. -/
def runCmd (id : CmdId) (op : Nat) (s : State) (f : Entry → State → State × CmdResult) : Host.Outcome State Fault Refusal :=
  match s.entry? id with
  | some e =>
    if e.phase == .running && e.opcode == op then
      let (s, r) := f e s
      .next (finishWith id r s)
    else .next s
  | none => .next s

/-- A result with a status alone. -/
def CmdResult.of (st : Nat) : CmdResult := ⟨st, 0, 0, 0⟩

/-- A command met an access fault on a segment: its fault record and its result (03 R113 to R115). -/
def accessFault (id : CmdId) (seg addr : Nat) (e : AccErr) (s : State) : State × CmdResult :=
  (faultRecord id.ctx id.ring id.seq seg e.kind addr s, ⟨e.status, e.detail, 0, 0⟩)

end Sys2Proof.Machine
end

