-- ==== Sys2Proof/Machine/Crypto.lean ====
section
/-! DEFINITION. SM3 digests and SM2 signature checks. The manual names the algorithms (15 R459 to R462, 12 R394, R397)
and does not define them: the definitions are those of GB/T 32905 and GB/T 32918 (PRESUMED, log 8). The digest of a
signature is taken directly as the SM3 digest of the bytes that the manual names, with no identity prefix
(DEDUCED from "over bytes ... with SM3", log 8). -/

namespace Sys2Proof.Machine

/-- 32-bit wrap. -/
def w32 (x : Nat) : Nat := x % 2 ^ 32

/-- 32-bit left rotation. -/
def rotl (x n : Nat) : Nat := let n := n % 32; w32 (x * 2 ^ n) ||| x / 2 ^ (32 - n)

/-- The big-endian number of a run of bytes. -/
def natOfBytesBE (bs : List Byte) : Nat := natOfBytes bs.reverse

/-- The `n` big-endian bytes of a number. -/
def bytesOfNatBE (n x : Nat) : List Byte := (bytesOfNat n x).reverse

/-- SM3 permutation P0. -/
def sm3P0 (x : Nat) : Nat := x ^^^ rotl x 9 ^^^ rotl x 17

/-- SM3 permutation P1. -/
def sm3P1 (x : Nat) : Nat := x ^^^ rotl x 15 ^^^ rotl x 23

/-- The message words W16 to W67, newest first, from the sixteen newest words. -/
def sm3Expand : Nat → List Nat → List Nat
  | 0, w => w
  | n + 1, w =>
    let g (k : Nat) := w.getD (k - 1) 0
    sm3Expand n ((sm3P1 (g 16 ^^^ g 9 ^^^ rotl (g 3) 15) ^^^ rotl (g 13) 7 ^^^ g 6) :: w)

/-- The state of the SM3 compression. -/
structure Sm3 where
  a : Nat
  b : Nat
  c : Nat
  d : Nat
  e : Nat
  f : Nat
  g : Nat
  h : Nat
  deriving DecidableEq, Repr

/-- One round. -/
def sm3Round (s : Sm3) (j w w' : Nat) : Sm3 :=
  let t := if j < 16 then 0x79CC4519 else 0x7A879D8A
  let ss1 := rotl (w32 (rotl s.a 12 + s.e + rotl t j)) 7
  let ss2 := ss1 ^^^ rotl s.a 12
  let ff := if j < 16 then s.a ^^^ s.b ^^^ s.c else (s.a &&& s.b) ||| (s.a &&& s.c) ||| (s.b &&& s.c)
  let gg := if j < 16 then s.e ^^^ s.f ^^^ s.g else (s.e &&& s.f) ||| ((s.e ^^^ 0xFFFFFFFF) &&& s.g)
  let tt1 := w32 (ff + s.d + ss2 + w')
  let tt2 := w32 (gg + s.h + ss1 + w)
  ⟨tt1, s.a, rotl s.b 9, s.c, sm3P0 tt2, s.e, rotl s.f 19, s.g⟩

/-- The rounds over the expanded words. -/
def sm3Rounds : Nat → Nat → List Nat → Sm3 → Sm3
  | 0, _, _, s => s
  | n + 1, j, w, s => sm3Rounds n (j + 1) (w.drop 1) (sm3Round s j (w.getD 0 0) (w.getD 0 0 ^^^ w.getD 4 0))

/-- One block of 64 bytes. -/
def sm3Block (v : Sm3) (blk : List Byte) : Sm3 :=
  let ws := (chunksOf 16 4 blk).map natOfBytesBE
  let w := (sm3Expand 52 ws.reverse).reverse
  let r := sm3Rounds 64 0 w v
  ⟨r.a ^^^ v.a, r.b ^^^ v.b, r.c ^^^ v.c, r.d ^^^ v.d, r.e ^^^ v.e, r.f ^^^ v.f, r.g ^^^ v.g, r.h ^^^ v.h⟩

/-- The padded message. -/
def sm3Pad (m : List Byte) : List Byte :=
  m ++ 0x80 :: List.replicate ((119 - m.length % 64) % 64) 0 ++ bytesOfNatBE 8 (8 * m.length)

/-- The 32-byte SM3 digest. -/
def sm3 (m : List Byte) : List Byte :=
  let p := sm3Pad m
  let iv : Sm3 := ⟨0x7380166f, 0x4914b2b9, 0x172442d7, 0xda8a0600, 0xa96f30bc, 0x163138aa, 0xe38dee4d, 0xb0fb0e4e⟩
  let s := (chunksOf (p.length / 64) 64 p).foldl sm3Block iv
  [s.a, s.b, s.c, s.d, s.e, s.f, s.g, s.h].flatMap (bytesOfNatBE 4)

/-! ### SM2 -/

/-- The field prime. -/
def sm2P : Nat := 0xFFFFFFFEFFFFFFFFFFFFFFFFFFFFFFFFFFFFFFFF00000000FFFFFFFFFFFFFFFF
/-- The group order. -/
def sm2N : Nat := 0xFFFFFFFEFFFFFFFFFFFFFFFFFFFFFFFF7203DF6B21C6052B53BBF40939D54123
/-- The curve coefficient b (a is −3). -/
def sm2B : Nat := 0x28E9FA9E9D9F5E344D5A9E4BCF6509A7F39789F515AB8F92DDBCBD414D940E93
/-- The base point. -/
def sm2Gx : Nat := 0x32C4AE2C1F1981195F9904466A39C9948FE30BBFF2660BE1715A4589334C74C7
/-- The base point. -/
def sm2Gy : Nat := 0xBC3736A2F4F6779C59BDCEE36B692153D0A9877CC62A474002DF32E52139F0A0

/-- A point in Jacobian coordinates; z = 0 is the point at infinity. -/
structure Jac where
  x : Nat
  y : Nat
  z : Nat
  deriving DecidableEq, Repr

/-- Subtraction in the field. -/
def fsub (a b : Nat) : Nat := (a + sm2P - b % sm2P) % sm2P

/-- Doubling. -/
def jdbl (p : Jac) : Jac :=
  let zz := p.z * p.z % sm2P
  let al := 3 * (fsub p.x zz) * ((p.x + zz) % sm2P) % sm2P
  let yy := p.y * p.y % sm2P
  let be := p.x * yy % sm2P
  let x := fsub (al * al % sm2P) (8 * be)
  let z := 2 * p.y * p.z % sm2P
  let y := fsub (al * fsub (4 * be % sm2P) x % sm2P) (8 * yy * yy)
  ⟨x, y, z⟩

/-- Addition. -/
def jadd (p q : Jac) : Jac :=
  if p.z = 0 then q else if q.z = 0 then p else
  let z1 := p.z * p.z % sm2P
  let z2 := q.z * q.z % sm2P
  let u1 := p.x * z2 % sm2P
  let u2 := q.x * z1 % sm2P
  let s1 := p.y * q.z % sm2P * z2 % sm2P
  let s2 := q.y * p.z % sm2P * z1 % sm2P
  if u1 = u2 then (if s1 = s2 then jdbl p else ⟨1, 1, 0⟩) else
  let h := fsub u2 u1
  let r := fsub s2 s1
  let hh := h * h % sm2P
  let hhh := h * hh % sm2P
  let v := u1 * hh % sm2P
  let x := fsub (fsub (r * r % sm2P) hhh) (2 * v)
  ⟨x, fsub (r * fsub v x % sm2P) (s1 * hhh), h * p.z % sm2P * q.z % sm2P⟩

/-- k × P by bits from bit `n` down. -/
def jmul : Nat → Nat → Jac → Jac → Jac
  | 0, _, _, acc => acc
  | n + 1, k, p, acc =>
    let d := jdbl acc
    jmul n k p (if k.testBit n then jadd d p else d)

/-- b^e modulo m by bits from bit `n` down. -/
def powMod (m b : Nat) : Nat → Nat → Nat → Nat
  | 0, _, acc => acc
  | n + 1, e, acc =>
    let s := acc * acc % m
    powMod m b n e (if e.testBit n then s * b % m else s)

/-- The affine x coordinate. -/
def jx (p : Jac) : Nat :=
  let i := powMod sm2P p.z 256 (sm2P - 2) 1
  p.x * (i * i % sm2P) % sm2P

/-- An SM2 public key. -/
structure Sm2Key where
  x : Nat
  y : Nat
  deriving DecidableEq, Repr

/-- Whether (r, s) is a signature of the digest `e` under the key. -/
def sm2Verify (key : Sm2Key) (digest sig : List Byte) : Bool :=
  let r := natOfBytesBE (sig.take 32)
  let s := natOfBytesBE ((sig.drop 32).take 32)
  let e := natOfBytesBE digest
  let t := (r + s) % sm2N
  if r = 0 ∨ r ≥ sm2N ∨ s = 0 ∨ s ≥ sm2N ∨ t = 0 then false
  else if key.y * key.y % sm2P ≠ (key.x * key.x % sm2P * key.x + (sm2P - 3) * key.x + sm2B) % sm2P then false
  else
    let q := jadd (jmul 256 s ⟨sm2Gx, sm2Gy, 1⟩ ⟨1, 1, 0⟩) (jmul 256 t ⟨key.x, key.y, 1⟩ ⟨1, 1, 0⟩)
    decide (q.z ≠ 0) && decide ((e + jx q) % sm2N = r)

end Sys2Proof.Machine
end

