-- ==== Sys2Proof/Machine/PaneRows.lean ====
section
/-! DEFINITION. Rows that a core's panes issue, and dummy rows of the keep-warm mode (06 R208, R213, R216, R217). -/

namespace Sys2Proof.Machine

/-- The core's free-running count of AC cycles since it last left reset (06 R217). -/
def Core.cycle (k : Core) (ac : Nat) : Nat := ac - k.acFrom

/-- Rows that issue under limit `l` from cycle `a` until cycle `b` (06 R217). -/
def rowsUnder (l a b : Nat) : Nat := b * l / 64 - a * l / 64

/-- A row may issue in cycle `c` under limit `l` (06 R217). -/
def mayIssue (l c : Nat) : Bool := decide (c * l / 64 < (c + 1) * l / 64)

/-- The first cycle from `c` on in which a row may issue. -/
def nextCycle (l c : Nat) : Nat := (((upTo 64).map (fun i => c + i)).find? (mayIssue l)).getD c

/-- Cycles of the keep-warm threshold: 325 for each 0.25 µs. -/
def threshCycles (thresh : Nat) : Nat := 325 * thresh

/-- A dummy row issues in cycle `c` under a limit at a rate: the pattern of 06 R217 allows it under both (06 R213). -/
def dummyMay (limit rate c : Nat) : Bool := mayIssue limit c && mayIssue rate c

/-- Dummy rows that issue before cycle `c`, and from cycle `a` to cycle `b`: the patterns repeat every 64 cycles. -/
def dummyBefore (limit rate c : Nat) : Nat :=
  let among (n : Nat) : Nat := ((upTo n).filter (dummyMay limit rate)).length
  c / 64 * among 64 + among (c % 64)
def rowsBoth (limit rate a b : Nat) : Nat := dummyBefore limit rate b - dummyBefore limit rate a

/-- The rate of interval `j` of a gap: max(1, ⌊L₀ × (64 − j) ÷ 64⌋) sixty-fourths (06 R213). -/
def gapPace (l0 j : Nat) : Nat := max 1 (l0 * (64 - j) / 64)

/-- First cycle of interval `j` of a gap from cycle `c0`. -/
def intervalAt (c0 thresh j : Nat) : Nat := c0 + threshCycles thresh * j / 64

/-- Dummy rows of a gap from cycle `d` to cycle `e` (06 R213). -/
def dummyRows (c0 l0 thresh limit d e : Nat) : Nat :=
  ((upTo 64).map (fun j =>
    let a := max d (intervalAt c0 thresh j)
    let b := min e (intervalAt c0 thresh (j + 1))
    if a < b then rowsBoth limit (gapPace l0 j) a b else 0)).sum

/-- A dummy row of a gap issues in cycle `c`. -/
def dummyAtCycle (c0 l0 thresh limit c : Nat) : Bool :=
  (upTo 64).any (fun j => decide (intervalAt c0 thresh j ≤ c) && decide (c < intervalAt c0 thresh (j + 1)) && dummyMay limit (gapPace l0 j) c)

/-- The last dummy row before cycle `e`: of the gap in progress, in which no two are more than 64 cycles apart, or of an earlier one. -/
def Core.lastRowBy (k : Core) (e : Nat) : Option Nat :=
  match k.gap with
  | some (c0, l0, _) =>
    let top := min e (c0 + threshCycles k.thresh)
    match ((upTo (min 65 (top - c0))).map (fun i => top - 1 - i)).find? (dummyAtCycle c0 l0 k.thresh k.limit) with
    | some c => some c
    | none => k.lastDummy
  | none => k.lastDummy

/-- PANE_DUMMY in a cycle of the core: rows counted, and rows of the gap in progress. -/
def Core.dummyAt (k : Core) (c : Nat) : BitVec 64 :=
  match k.gap with
  | some (c0, l0, d) => k.dummy + BitVec.ofNat 64 (dummyRows c0 l0 k.thresh k.limit d c)
  | none => k.dummy

/-- Count the rows of a gap up to cycle `c`, before what they depend on changes. -/
def Core.countGap (k : Core) (c : Nat) : Core :=
  { k with dummy := k.dummyAt c, lastDummy := k.lastRowBy c, gap := k.gap.map (fun g => (g.1, g.2.1, max g.2.2 c)) }

/-- A gap ends. -/
def Core.endGap (k : Core) (c : Nat) : Core := { k with dummy := k.dummyAt c, lastDummy := k.lastRowBy c, gap := none }

/-- A real row of `bytes` local-store bytes issues from cycle `c` on, at the rate of 06 R208 and under the issue limit: it ends a
gap, and the core is warm (06 R213, R214, R217; log 100). -/
def Core.issueRow (k : Core) (c bytes : Nat) : Core :=
  let due := max (512 * c) k.nextRow
  let at_ := nextCycle k.limit ((due + 511) / 512)
  { k.endGap at_ with
    rows := k.rows + 1, warm := true, admitted := false
    recent := (at_ :: k.recent).take 256
    nextRow := max due (512 * at_ - 511) + max 512 bytes }

/-- The cycle of the last row, real or dummy. -/
def Core.lastIssue (k : Core) : Option Nat := (k.recent.head?.toList ++ k.lastDummy.toList).max?

/-- The core, in keep-warm mode, had fallen cold before that mode began. -/
def Core.coldBefore (k : Core) : Bool := k.lastIssue.any (fun r => decide (r + 129 ≤ k.keepFrom))

/-- The cycle in which the keep-warm gap after the last real row begins: eight cycles have passed, and the mode is set (06 R213; log
100). -/
def Core.gapFrom (k : Core) : Option Nat := if k.coldBefore then none else k.recent.head?.map (fun r => max (r + 9) k.keepFrom)

/-- The real rows that issued in the 256 cycles before cycle `c` (06 R213). -/
def Core.rowsBefore (k : Core) (c : Nat) : Nat := (k.recent.filter (fun r => decide (c ≤ r + 256) && decide (r < c))).length

/-- L₀ of a gap that begins in cycle `c` (06 R213). -/
def Core.gapRate (k : Core) (c : Nat) : Nat := max 1 ((64 * k.rowsBefore c + 255) / 256)

/-- The cycle in which the core falls cold: 128 cycles have passed with no row; dummy rows of a gap end with its threshold. -/
def Core.coldAt (k : Core) : Option Nat :=
  match k.gap with
  | some (c0, _, _) => some (c0 + threshCycles k.thresh + 128)
  | none => if k.keepWarm && !k.coldBefore then none else k.lastIssue.map (fun r => r + 129)

/-- Bring station time forward to a cycle of a core. -/
def advanceToCycle (k : Core) (c : Nat) (s : State) : State :=
  let n := k.acFrom + c - s.clk.ac
  advanceTo (s.now + (10 * n + 12) / 13) s

/-- A Louvre slot that begins at or after a station time (06 R214). -/
def slotAt (now : Nat) : Nat := (now + 31) / 32 * 32

/-- A new issue limit (06 R216; 14 R440): a fall, or a rise of at most 8, acts at once; a larger rise goes by steps. -/
def Core.setLimit (k : Core) (l c : Nat) : Core :=
  let k := k.countGap c
  if l ≤ k.limit + 8 then { k with limit := l, target := l } else { k with target := l }

end Sys2Proof.Machine
end

