-- ==== Sys2Proof/Machine/Repair.lean ====
section
/-! DEFINITION. The repair ledger, and withdrawing matrix cores (15 R472, R478, R479; 01 R22, R24). -/

namespace Sys2Proof.Machine

/-- Bytes 0x00 to 0x1F of a repair record (15 R479). -/
def RepairRecord.bytes (r : RepairRecord) : List Byte :=
  bytesOfNat 1 r.type ++ bytesOfNat 1 r.tile ++ bytesOfNat 2 r.unit ++ bytesOfNat 4 r.seq ++ bytesOfNat 8 r.time ++ bytesOfNat 16 r.data

/-- RL_SEQ of the next record: the count since manufacture, from 1 (log 16). -/
def Flash.nextRepair (f : Flash) : Nat := ((f.repairs.getLast?).map (fun r => r.seq)).getD 0 + 1

/-- Append a record to the repair ledger; its chain value is the SM3 digest of the one before and of its first 32 bytes. -/
def appendRepair (type tile unit data : Nat) (s : State) : State :=
  let r : RepairRecord := { type, tile, unit, seq := s.flash.nextRepair, time := s.now, data }
  { s with flash := { s.flash with repairs := s.flash.repairs ++ [r], chain := sm3 (s.flash.chain ++ r.bytes) } }

/-- Physical matrix cores of a tile that carry a logical number. -/
def State.physUsed (s : State) (t : Nat) : List Nat :=
  ((upTo 64).filter (fun c => (s.core t c).inService)).map (fun c => (s.core t c).phys)

/-- The lowest-numbered physical spare of a compute die (15 R478). -/
def State.spareCore (s : State) (t : Nat) : Option Nat :=
  (upTo 72).find? (fun p => !(s.tile t).badCores.contains p && !(s.physUsed t).contains p)

/-- A context's scope takes in a tile, or a core of it (02 R31). -/
def scopeHas (t : Nat) (c : Option Nat) (d : CtxDesc) : Bool :=
  match d.kind with
  | 1 => d.index / 64 == t && c.all (fun c => d.index % 64 == c)
  | 2 => d.index == t
  | _ => true

/-- Every in-flight command with work on a core, a pre-empted instance's included, is discarded (02 R72; 07 R247). -/
def discardCore (t c : Nat) (s : State) : State :=
  let k := s.core t c
  let ids := (k.run.toList ++ k.held.toList).map (fun i => i.cmd)
  discardReds (scopeHas t (some c)) (ids.foldl (fun s id => discard id s) s)

/-- The logical core has no run and is cold; the dummy rows of a gap are counted up to cycle `c`. -/
def Core.clear (k : Core) (c : Nat) : Core :=
  { k.endGap c with run := none, held := none, state := .idle, waiting := none, admitted := false, warm := false, recent := [], lastDummy := none
                    runAhead := [], ueTimes := [] }

/-- A matrix core is withdrawn and the lowest spare of its die takes its logical number; with no spare left the number stays
vacant (15 R478). FLT names the unit by its logical number (01 R24; log 18). `cause` is RL_DATA's: 1 residue, 2 local store, 3 fence, 4 self-test. Its in-flight work is discarded. -/
def withdrawCore (t c cause : Nat) (s : State) : State :=
  let k := s.core t c
  if !k.inService then s
  else
    let s := discardCore t c s
    let s := appendRepair 2 t k.phys cause s
    let s := s.updTile t (fun x => { x with badCores := insertNat k.phys x.badCores })
    let gone (s : State) : State := fltPost 2 1 (tileUnit t c) noUnit 0 2 cause s
    match s.spareCore t with
    | some p =>
      let s := appendRepair 3 t p c (gone s)
      let s := s.updCore t c (fun k => { k.clear (k.cycle s.clk.ac) with phys := p })
      fltPost 2 3 (tileUnit t c) noUnit 0 3 cause s
    | none => gone (recheckCores (withCap (fun s => s.updCore t c (fun k => { k.clear (k.cycle s.clk.ac) with inService := false })) s))

/-! ### Sill rows (09 R320) -/

/-- The lines of a frame are read as a direct page leaves it: what they hold of errors is corrected, or carried as uncorrectable. -/
def State.carryStrikes (s : State) (n f p : Nat) : State :=
  let bad := (s.strikes.filter (fun e => e.1 / 1024 == frameNumber n f && decide (correctable < e.2))).map
    (fun e => directBase + p * 65536 + 64 * (e.1 % 1024))
  { s with poison := bad.foldl (fun l a => insertNat a l) s.poison }.freshLines (frameNumber n f) 0 1024

/-- A direct page in a frame that is retired moves to another frame; with none in the pool it loses its backing. -/
def moveDirect (n f : Nat) (s : State) (p : Nat) : State :=
  match s.directPage p with
  | none => s
  | some d =>
    if d.frame != f then s
    else match s.bestFrame n [f] with
      | some f' =>
        let moved := s.pagesIn n [f']
        let s := (s.carryStrikes n f p).freshLines (frameNumber n f') 0 1024
        moved.foldl (fun s q => s.relocate q n [f']) (s.setDirect p (some { d with frame := f' }))
      | none =>
        let s := { s.setDirect p none with lostDirect := insertNat p s.lostDirect }
        fltPost 3 7 n noUnit (directBase + p * 65536) 0 0 s

/-- A failing row of a sill: it is recorded in the repair ledger and its frame retired at once (09 R320). -/
def retireFrame (n f row : Nat) (s : State) : State :=
  if (s.sill n).retired.contains f then s
  else
    let s := appendRepair 0x0F n f row s
    let s := withCap (fun s => s.updSill n (fun k => { k with retired := insertNat f k.retired })) s
    let s := (s.pagesIn n [f]).foldl (fun s q => s.relocate q n [f]) s
    let ps := (s.direct.filter (fun e => sillOfDirect e.1 == n)).map (fun e => e.1)
    fltPost 3 6 n noUnit 0 0 0 (ps.foldl (moveDirect n f) s)

/-- The row of a frame that holds one of its lines: the spec gives frames no row layout, so its number is free (log 57). -/
def SillLine.row (l : SillLine) : Nat := (Config.sillRow l.line).toNat

/-- The row of a line is failing. -/
def SillLine.fails (l : SillLine) (s : State) : State := retireFrame l.sill l.frame l.row s

/-- One hour in ns. -/
def hourNs : Nat := 3600000000000

/-- A line of the Sill reads with `errs` bytes in error (09 R320): a correctable read is counted against its row, which fails at 16 in
an hour; an uncorrectable line of a clean sub-block is filled again from home, and any other stays uncorrectable. -/
def sillRead (l : SillLine) (a errs : Nat) (s : State) : State :=
  if errs = 0 then s
  else if errs ≤ correctable then
    let key := 65536 * l.frame + l.row
    let times := (Table.get [] (s.sill l.sill).rows key ++ [s.now]).filter (fun t => decide (s.now < t + hourNs))
    let s := s.updSill l.sill (fun k => { k with rows := Table.put [] k.rows key times })
    if 16 ≤ times.length then l.fails s else s
  else if l.clean then l.fails s
  else l.fails { s with poison := insertNat (lineOf a) s.poison }

/-- The line that a read takes, if the Sill serves it, is read with `errs` bytes in error, or with those it holds where they are more; what
the read finds is corrected and written back, or settled for good. -/
def readCode (a errs : Nat) (s : State) : State :=
  let la := s.localAddr a
  match s.sillLine la with
  | some l => sillRead l la (max errs (s.struck l)) { s with strikes := Table.put 0 s.strikes l.number 0 }
  | none => s

/-- Lines of a range that the Sill serves are read, with the errors that they hold. -/
def State.readSill (s : State) (a n : Nat) : State :=
  if s.strikes.isEmpty then s else (linesOf (s.localAddr a) n).foldl (fun s l => readCode l 0 s) s

/-- What a read of local memory does at the Sill and at the home controllers. -/
def State.takeReads (s : State) (who : Reader) (a n : Nat) : State := (s.readSill a n).queueReads who a n

/-- A read of home memory that no segment carries. -/
def State.demandRead (s : State) (who : Reader) (a n : Nat) : State := (s.takeReads who a n).demandShared a n

/-- The epoch of the placement to which an access of a home page is routed (09 R317). -/
def State.epochAt (s : State) (a : Nat) : Option Nat :=
  if s.localAddr a < 0x6000000000 then some (s.page (s.localAddr a / 65536)).epoch else none

/-- The device granule to which an access of a home line is routed (10 R338). -/
def State.granuleAt (s : State) (a : Nat) : Option Nat :=
  if s.localAddr a < 0x6000000000 then some (s.deviceGranule (s.localAddr a / 2 ^ 21)) else none

/-! ### Uncorrectable reads (09 R320; 10 R328, R352) -/

/-- FLT class 0x03 with the pseudo-channel and its state (15 R487). -/
def memoryEvent (code n p st addr : Nat) (s : State) : State := fltPost 3 code n noUnit addr p st s

/-- The code of HBM_PC_STAT.STATE (10 R352). -/
def PcState.code : PcState → Nat
  | .inService => 0 | .recalibrating => 1 | .degrading => 2 | .restriping => 3 | .mappedOut => 4

/-- A stack counts an uncorrectable line read and logs it; HBM_UE_ADDR holds home addresses only. -/
def countBad (r : RowId) (home : Option Nat) (s : State) : State :=
  let s := s.updStack r.stack (fun k => { k with ue := satAdd 8 k.ue 1, ueAddr := home.getD k.ueAddr })
  memoryEvent 1 r.stack r.pc (s.pc r.stack r.pc).state.code (home.getD 0) s

/-- A read met lines that are known as uncorrectable: one that home memory serves is counted at its stack (10 R352). Such a line holds a
poison code, and says nothing more of its row (10 R328; log 57). -/
def State.readFailed (s : State) (a n : Nat) : State :=
  ((linesOf (s.localAddr a) n).filter s.poison.contains).foldl (fun s l =>
    if s.atHome l then countBad (s.rowOfHome l) (some l) s else s) (s.readSill a n)

/-- The outcome of a read of memory by a steward, or of another that no queue holds back: its lines are queued at their
controllers, and lines that read uncorrectable are counted. -/
def State.noteRead (who : Reader) (a n : Nat) (s : State) : State :=
  match s.readMem a n with
  | .ok _ => s.takeReads who a n
  | .error .uncorrectable => s.readFailed a n
  | .error _ => s

end Sys2Proof.Machine
end

