-- ==== Sys2Proof/Machine/Operands.lean ====
section
/-! DEFINITION. Operand, table and index descriptors (04 R146 to R152; 05 R166 to R168; 08 R250, R258), offset maps (04
R144), and reading and writing the elements of a placed operand. -/

namespace Sys2Proof.Machine

/-! ### Strided, engine-ready and ring descriptors -/

/-- An operand descriptor (04 R146). -/
structure Od where
  where_ : Nat
  code   : Nat
  rank   : Nat
  layout : Nat
  scale  : Nat
  anchor : Int
  off    : Nat
  e0     : Nat
  e1     : Nat
  e2     : Nat
  e3     : Nat
  s1     : Int
  s2     : Int
  s3     : Int
  rsvd   : Nat
  deriving DecidableEq, Repr

/-- Read an operand descriptor from its block (04 R146). -/
def Od.parse (b : List Byte) : Od :=
  { where_ := fieldOf b 0 1, code := fieldOf b 1 1, rank := fieldOf b 2 1, layout := fieldOf b 3 1, scale := fieldOf b 4 2
    anchor := signed 16 (fieldOf b 6 2), off := fieldOf b 8 8
    e0 := fieldOf b 0x10 4, e1 := fieldOf b 0x14 4, e2 := fieldOf b 0x18 4, e3 := fieldOf b 0x1C 4
    s1 := signed 64 (fieldOf b 0x20 8), s2 := signed 64 (fieldOf b 0x28 8), s3 := signed 64 (fieldOf b 0x30 8)
    rsvd := fieldOf b 0x38 4 }

/-- OD_WHERE of any descriptor (04 R146, R149). -/
def whereSeg (w : Nat) : Nat := bits w 3 0
def whereLs (w : Nat) : Bool := bit w 4
def whereHint (w : Nat) : Nat := bits w 6 5
def whereHintEn (w : Nat) : Bool := bit w 7

/-- The rules of OD_WHERE and OD_OFFSET: hints, and the zero bits of a local-store operand (04 R146, R148, R149). -/
def whereOk (w off : Nat) : Bool :=
  (if whereHintEn w then whereHint w != 3 else whereHint w == 0) &&
  (if whereLs w then decide (w = 16) && decide (off < 2 ^ 22) else decide (off < 2 ^ 48))

def Od.seg (d : Od) : Nat := whereSeg d.where_
def Od.ls (d : Od) : Bool := whereLs d.where_
def Od.fmt? (d : Od) : Option Fmt := Fmt.ofCode d.code
def Od.fmt (d : Od) : Fmt := (Fmt.ofCode d.code).getD .int8
def Od.isAttar (d : Od) : Bool := d.code == 0x0C
def Od.isMx (d : Od) : Bool := d.fmt.isMx
def Od.isRing (d : Od) : Bool := d.layout == 2
def Od.isEngineReady (d : Od) : Bool := d.layout == 1

/-- Bytes of dimension 0 (04 R148). -/
def Od.rowBytes (d : Od) : Nat := d.e0 * d.fmt.bits / 8

/-- Lines along dimension 0: rows streamed of a RING, and all of them otherwise. -/
def Od.lines (d : Od) : Nat := if d.isRing then d.e1 else d.e1 * d.e2 * d.e3

/-- Stride of dimension 1 in force: engine-ready rows lie 128 bytes apart (04 R148). -/
def Od.stride1 (d : Od) : Int := if d.isEngineReady then 128 else d.s1

/-- Offset of line `k` from the operand's effective offset (04 R148, R150). -/
def Od.lineOff (d : Od) (k : Nat) : Int :=
  if d.isRing then ((k % (128 * d.e2) * 128 : Nat) : Int)
  else
    let d1 := k % d.e1
    let d2 := k / d.e1 % d.e2
    let d3 := k / d.e1 / d.e2
    d1 * d.stride1 + d2 * d.s2 + d3 * d.s3

/-- Lowest and highest byte, relative to the effective offset (04 R148, R150). -/
def Od.span (d : Od) : Int × Int :=
  if d.isRing then (0, (128 * 128 * d.e2 : Nat) - 1)
  else
    let t (e : Nat) (s : Int) : Int := ((e : Int) - 1) * s
    let row : Int := if d.isEngineReady then 128 else (d.rowBytes : Int)
    (min 0 (t d.e1 d.stride1) + min 0 (t d.e2 d.s2) + min 0 (t d.e3 d.s3),
     row - 1 + max 0 (t d.e1 d.stride1) + max 0 (t d.e2 d.s2) + max 0 (t d.e3 d.s3))

/-- The multiple that offset and strides keep (04 R148). -/
def Fmt.align (f : Fmt) : Nat := if f.bits ≥ 16 then f.bits / 8 else 1

/-- An anchor is in range for an ATTAR operand and zero for others (04 R146; 05 R170). -/
def anchorOk (isAttar : Bool) (a : Int) : Bool := if isAttar then decide (-512 ≤ a) && decide (a ≤ 511) else decide (a = 0)

/-- The descriptor's own rules (04 R146 to R151; 05 R170); scale shapes are `Od.scaleOk`. What an offset map adds is held to none of them
(DESIGN CHOICE, log 116). -/
def Od.ok (d : Od) : Bool :=
  match d.fmt? with
  | none => false
  | some f =>
    whereOk d.where_ d.off && decide (d.rsvd = 0) && decide (1 ≤ d.rank) && decide (d.rank ≤ 4) && decide (d.layout ≤ 2) &&
    decide (1 ≤ d.e0) && decide (1 ≤ d.e1) && decide (1 ≤ d.e2) && decide (1 ≤ d.e3) &&
    (decide (2 ≤ d.rank) || d.e1 == 1) && (decide (3 ≤ d.rank) || d.e2 == 1) && (d.rank == 4 || d.e3 == 1) &&
    decide (d.s1.natAbs < 2 ^ 47) && decide (d.s2.natAbs < 2 ^ 47) && decide (d.s3.natAbs < 2 ^ 47) &&
    (f.bits != 4 || d.e0 % 2 == 0) &&
    (if f.isMx then d.e0 % 32 == 0 && d.scale != 0xFFFF else d.scale == 0xFFFF) &&
    anchorOk d.isAttar d.anchor &&
    d.off % f.align == 0 && d.s1.natAbs % f.align == 0 && d.s2.natAbs % f.align == 0 && d.s3.natAbs % f.align == 0 &&
    (if d.layout == 1 then d.off % 128 == 0 && decide (f.bits ≤ 16) && d.e0 * f.bits == 1024 && d.s1 == 0
     else if d.layout == 2 then
       d.off % 128 == 0 && d.ls && d.s1 == 0 && d.s2 == 0 && d.s3 == 0 && (d.rank == 2 || d.rank == 3) && decide (d.e2 ≤ 256)
         && d.e3 == 1 && decide (f.bits ≤ 32) && decide (d.e0 * f.bits ≤ 1024)
     else true)

/-- The E8M0 descriptor `s` has the shape that R167 gives for the MX operand `d`. -/
def Od.scaleOk (d s : Od) : Bool :=
  s.ok && s.code == 0x10 && s.layout == 0 &&
  (if d.layout == 0 then s.e0 == d.e0 / 32 && s.e1 == d.e1 && s.e2 == d.e2 && s.e3 == d.e3
   else if d.layout == 1 then s.e0 == 8 && s.e1 == d.e1 && s.s1 == 8 && s.e2 == d.e2 && s.e3 == d.e3
   else s.rank == 2 && s.ls && s.e0 == 8 && s.e1 == 128 * d.e2 && s.s1 == 8)

/-- The scale row of line `k` (05 R167). -/
def Od.scaleLine (d : Od) (k : Nat) : Nat := if d.isRing then k % (128 * d.e2) else k

/-! ### Table and index descriptors (08 R250, R258) -/

/-- A TABLE descriptor. -/
structure Tb where
  where_ : Nat
  code   : Nat
  anchor : Int
  off    : Nat
  rows   : Nat
  dims   : Nat
  fail   : Bool
  rowScale : Bool
  shardLog2 : Nat
  shards : Nat
  stride : Nat
  mapSeg : Nat
  mapOff : Nat
  /-- Every reserved bit is zero, the rank is 2 and OD_SCALE is 0xFFFF. -/
  shape  : Bool
  deriving DecidableEq, Repr

/-- Read a TABLE descriptor. -/
def Tb.parse (b : List Byte) : Tb :=
  { where_ := fieldOf b 0 1, code := fieldOf b 1 1, anchor := signed 16 (fieldOf b 6 2), off := fieldOf b 8 8
    rows := fieldOf b 0x10 8, dims := fieldOf b 0x18 2, fail := bit (fieldOf b 0x1A 1) 0, rowScale := bit (fieldOf b 0x1A 1) 1
    shardLog2 := fieldOf b 0x1B 1, shards := fieldOf b 0x1C 2, stride := fieldOf b 0x20 4
    mapSeg := bits (fieldOf b 0x24 1) 3 0, mapOff := fieldOf b 0x28 8
    shape := fieldOf b 2 1 == 2 && fieldOf b 4 2 == 0xFFFF && decide (fieldOf b 0x1A 1 < 4) && fieldOf b 0x1E 2 == 0
      && decide (fieldOf b 0x24 4 < 16) && fieldOf b 0x30 12 == 0 }

def Tb.fmt (d : Tb) : Fmt := (Fmt.ofCode d.code).getD .int8
/-- Element bytes and row bytes (08 R251). -/
def Tb.elemBytes (d : Tb) : Nat := d.dims * d.fmt.bits / 8
def Tb.rowBytes (d : Tb) : Nat := d.elemBytes + (if d.rowScale then 4 else 0)
/-- Rows per shard, or all rows (08 R253). -/
def Tb.extRows (d : Tb) : Nat := if d.shards = 0 then d.rows else 2 ^ d.shardLog2

/-- A TABLE descriptor's own rules (08 R250, R251, R254). -/
def Tb.ok (d : Tb) : Bool :=
  (Fmt.ofCode d.code).isSome && d.shape && whereOk d.where_ d.off && !whereLs d.where_ && anchorOk (d.code == 0x0C) d.anchor &&
  decide (1 ≤ d.rows) && decide (d.rows < 2 ^ 40) && d.dims * d.fmt.bits % 8 == 0 &&
  decide (16 ≤ d.elemBytes) && decide (d.elemBytes ≤ 4096) && d.stride % 16 == 0 && decide (d.rowBytes ≤ d.stride) &&
  d.off % 16 == 0 && decide (d.mapOff < 2 ^ 48) &&
  (if d.shards = 0 then d.shardLog2 == 0
   else decide (d.shards ≤ 4096) && decide (10 ≤ d.shardLog2) && decide (d.shardLog2 ≤ 39) &&
     decide ((d.shards - 1) * 2 ^ d.shardLog2 < d.rows) && decide (d.rows ≤ d.shards * 2 ^ d.shardLog2))

/-- An INDEX descriptor. -/
structure Ix where
  where_ : Nat
  code   : Nat
  off    : Nat
  count  : Nat
  bags   : Nat
  bagLen : Nat
  weights : Bool
  combine : Bool
  anchor : Int
  wOff   : Nat
  bOff   : Nat
  /-- Every reserved bit is zero, the rank is 1, OD_SCALE 0xFFFF and OD_ANCHOR 0. -/
  shape  : Bool
  deriving DecidableEq, Repr

/-- Read an INDEX descriptor. -/
def Ix.parse (b : List Byte) : Ix :=
  { where_ := fieldOf b 0 1, code := fieldOf b 1 1, off := fieldOf b 8 8, count := fieldOf b 0x10 4, bags := fieldOf b 0x14 4
    bagLen := fieldOf b 0x18 2, weights := bit (fieldOf b 0x1A 1) 0, combine := bit (fieldOf b 0x1A 1) 1
    anchor := signed 16 (fieldOf b 0x1C 2), wOff := fieldOf b 0x20 8, bOff := fieldOf b 0x28 8
    shape := fieldOf b 2 1 == 1 && fieldOf b 4 2 == 0xFFFF && fieldOf b 6 2 == 0 && decide (fieldOf b 0x1A 2 < 4)
      && fieldOf b 0x1E 2 == 0 && fieldOf b 0x30 12 == 0 }

/-- Bytes of an index. -/
def Ix.size (d : Ix) : Nat := if d.code = 0x0F then 8 else 4

/-- An INDEX descriptor's own rules (08 R258, R259). -/
def Ix.ok (d : Ix) : Bool :=
  d.shape && (d.code == 0x0E || d.code == 0x0F) && whereOk d.where_ d.off && whereOk d.where_ d.wOff && whereOk d.where_ d.bOff &&
  decide (1 ≤ d.count) && decide (-512 ≤ d.anchor) && decide (d.anchor ≤ 511) &&
  (if d.bags = 0 then d.bagLen == 0 else (d.bagLen == 0 || d.count == d.bags * d.bagLen))

/-! ### Offset maps (04 R144) -/

/-- An offset map: base, per instance, per count of each loop, and whether its reserved bytes are zero. -/
structure OffMap where
  base : Int := 0
  i    : Int := 0
  l    : List Int := [0, 0, 0, 0]
  ok   : Bool := true
  deriving DecidableEq, Repr

/-- Read an offset map. -/
def OffMap.parse (b : List Byte) : OffMap :=
  let f (o : Nat) : Int := signed 64 (fieldOf b o 8)
  ⟨f 0, f 8, [f 0x10, f 0x18, f 0x20, f 0x28], fieldOf b 0x30 16 == 0⟩

/-- The offset a map adds for an instance and its loop counters. -/
def OffMap.at (m : OffMap) (i : Nat) (l : List Nat) : Int :=
  m.base + m.i * i + ((m.l.zip l).map (fun p => p.1 * (p.2 : Int))).sum

/-- Lowest and highest offset over the instances and the trip counts of the enclosing loops (04 R145). -/
def OffMap.extremes (m : OffMap) (instances : Nat) (trips : List Nat) : Int × Int :=
  let terms := (m.i, (instances : Int) - 1) :: (m.l.zip (trips.map (fun (t : Nat) => (t : Int) - 1)))
  (m.base + (terms.map (fun p => if p.1 > 0 then 0 else p.1 * p.2)).sum,
   m.base + (terms.map (fun p => if p.1 > 0 then p.1 * p.2 else 0)).sum)

/-- Map `m` of an image; map 0 adds nothing. -/
def Image.map (g : Image) (m : Nat) : OffMap := if m = 0 then {} else OffMap.parse (g.maps.getD (m - 1) [])

/-! ### An op being executed -/

/-- Why an op fails (04 R136): status, DETAIL and its fault record (kind 0: none). -/
structure OpFail where
  status : Nat
  detail : Nat := 0
  seg    : Nat := 0
  kind   : Nat := 0
  addr   : Nat := 0
  deriving DecidableEq, Repr

/-- An op at work: the state, the core and its run taken out of it, the command, the word, the loop counters, the op's number on its
engine, its tile and what it comes after, and what the op has met so far. -/
structure Exec where
  s     : State
  k     : Core
  i     : Inst
  t     : Nat
  c     : Nat
  e     : Entry
  word  : Nat
  loops : List Nat
  num   : Nat := 0
  tile  : Nat := 0
  known : Known := []
  sat   : Bool := false
  err   : Option OpFail := none
  lastUse : List Nat := []
  mem   : List (Nat × Nat) := []
  zero  : Nat := 0
  out   : Nat := 0

/-- The op `o` of the run of a core, at work. -/
def Exec.of (s : State) (k : Core) (i : Inst) (t c : Nat) (e : Entry) (o : OpRec) : Exec :=
  { s, k, i, t, c, e, word := o.word, loops := o.loops, num := o.num, tile := o.tile, known := o.known }

/-- The op's word. -/
def Exec.w (x : Exec) : List Byte := x.e.image.words.getD x.word []

/-- The command's SEED (04 R131, R153): both forms hold it at 0x30. -/
def Entry.seed (e : Entry) : Nat := fieldOf e.pkt 0x30 8

/-- The command is a PROG_RUN. -/
def Entry.isProg (e : Entry) : Bool := e.opcode == 0x2001

/-- Inputs of the op's draws (05 R184). -/
def Exec.drawAt (x : Exec) : DrawAt :=
  if x.e.isProg then ⟨x.e.seed, x.word, x.i.index, x.loops⟩ else ⟨x.e.seed, 0, 0, []⟩

/-- The op fails, unless it has failed already. -/
def Exec.fail (x : Exec) (f : OpFail) : Exec := if x.err.isSome then x else { x with err := some f }

/-- A placed operand: its descriptor, effective offset, and scales with theirs (04 R144; 05 R167). -/
structure Opnd where
  od    : Od
  off   : Int
  sc    : Option (Od × Int)
  deriving DecidableEq, Repr

/-- The descriptor of an operand slot. -/
def Exec.descOf (x : Exec) (n : Nat) : List Byte := x.e.image.descs.getD n []

/-- What the map of an operand slot adds. -/
def Exec.mapOf (x : Exec) (k : Nat) : Int := (x.e.image.map (wordMap x.w k)).at x.i.index x.loops

/-- The operand of slot `k`, placed. -/
def Exec.opnd (x : Exec) (k : Nat) : Opnd :=
  let d := Od.parse (x.descOf (wordDesc x.w k))
  let m := x.mapOf k
  let s := Od.parse (x.descOf d.scale)
  { od := d, off := (d.off : Int) + m, sc := if d.isMx then some (s, (s.off : Int) + m) else none }

/-! ### Local store (07 R229, R230, R233, R234, R243) -/

/-- Line addresses of `l` that the range touches. -/
def hitLines (l : List Nat) (a n : Nat) : List Nat := l.filter (fun x => decide (x + 64 > a) && decide (x < a + n))

/-- Read local-store bytes. Correctable lines are counted and written back; an uncorrectable one fails the op. -/
def Exec.rdLs (x : Exec) (a n : Nat) : Exec × List Byte :=
  match hitLines x.i.bad a n with
  | l :: _ =>
    ({ x with k := { x.k with lsUe := satAdd 8 x.k.lsUe 1, lsUeAddr := l, ueTimes := x.k.ueTimes ++ [x.s.now] } }.fail
      { status := sUncorrectable }, [])
  | [] =>
    let w := hitLines x.i.weak a n
    ({ x with k := { x.k with lsCe := satAdd 16 x.k.lsCe w.length }
              i := { x.i with weak := x.i.weak.filter (fun l => !w.contains l) } }, x.i.ls.read a n)

/-- A source of a loaded weight set was written (06 R218). -/
def WeightSet.touch (w : WeightSet) (a n : Nat) : WeightSet :=
  let hit (src len : Nat) : Bool := decide (a < src + len) && decide (src < a + n)
  let h := match w.scl with
    | some sc => hit w.src 16384 || hit sc 1024
    | none => hit w.src 16384
  if w.fmt.isSome && h then { w with srcWritten := true } else w

/-- Write local-store bytes: lines are tagged and encoded again, lines of a pre-empted instance are spilled first; a partial write reads
the line, which counts a correctable one and fails on an uncorrectable one (07 R233, R234, R243). -/
def Exec.wrLs (x : Exec) (a : Nat) (bs : List Byte) : Exec :=
  let n := bs.length
  let ls := linesOf a n
  let whole := wholeLines a n
  match (hitLines x.i.bad a n).filter (fun l => !whole.contains l) with
  | l :: _ =>
    { x with k := { x.k with lsUe := satAdd 8 x.k.lsUe 1, lsUeAddr := l, ueTimes := x.k.ueTimes ++ [x.s.now] } }.fail
      { status := sUncorrectable }
  | [] =>
    let k := match x.k.held with
      | none => x.k
      | some p =>
        let out := ls.filter (fun l => p.tags.contains l && !p.spilled.contains l)
        { x.k with held := some { p with spilled := out.foldl (fun t l => insertNat l t) p.spilled }
                   spilledCount := x.k.spilledCount + BitVec.ofNat 32 out.length }
    let weak := hitLines x.i.weak a n
    let k := { k with lsCe := satAdd 16 k.lsCe (weak.filter (fun l => !whole.contains l)).length }
    { x with k, i := { x.i with
        ls := x.i.ls.write a bs
        weak := x.i.weak.filter (fun l => !weak.contains l)
        tags := ls.foldl (fun t l => insertNat l t) x.i.tags
        bad := x.i.bad.filter (fun l => !whole.contains l)
        active := x.i.active.touch a n
        shadow := x.i.shadow.touch a n } }

/-! ### Memory through a segment (03 R112, R113; 08 R272; 09 R297) -/

/-- The segment of the command. -/
def Entry.seg (e : Entry) (n : Nat) : Seg := e.segs.getD n {}

/-- The hint of an access: the operand's, or the segment's default (09 R297). -/
def hintOf (w : Nat) (g : Seg) : Nat := if whereHintEn w then whereHint w else g.hint

/-- The op as the reader of a line, through a segment. -/
def Exec.reader (x : Exec) (seg : Nat) : Reader := .op x.t x.c x.i.cmd x.i.index x.word seg

/-- Reads of home lines that the controllers serve, for the op of this word. -/
def Exec.queueReads (x : Exec) (seg a n : Nat) : Exec := { x with s := x.s.takeReads (x.reader seg) a n }

/-- Fail with an access error on a segment. -/
def Exec.failMem (x : Exec) (seg a : Nat) (er : AccErr) : Exec := x.fail ⟨er.status, er.detail, seg, er.kind, a⟩

/-- What an access that fails leaves behind: an uncorrectable read is noted, and one that nothing answers ends at the completion timeout,
counted from its request (03 R126; 10 R328). -/
def State.accessEnds (s : State) (er : AccErr) (a n : Nat) : State :=
  match er with
  | .uncorrectable => s.readFailed a n
  | .timeout => advanceTo (s.now + s.timeoutNs) s
  | _ => s

/-- Read memory at an address through a segment, but for the requests that leave toward another package. -/
def Exec.rdRow (x : Exec) (w seg a n : Nat) : Exec × List Byte :=
  let g := x.e.seg seg
  let hint := hintOf w g
  match x.s.readMem a n with
  | .error er => ({ x with s := x.s.accessEnds er a n }.failMem seg a er, [])
  | .ok bs =>
    let lu := x.s.lastUsePages g hint a n
    let x := x.queueReads seg a n
    ({ x with s := x.s.demandTier x.i.cmd.ctx g hint a n, lastUse := x.lastUse ++ lu }, bs)

/-- Read memory at an address through a segment, a line at a time. -/
def Exec.rdAt (x : Exec) (w seg a n : Nat) : Exec × List Byte :=
  let (x, bs) := x.rdRow w seg a n
  (if x.err.isSome then x else { x with s := x.s.requestLines (tileUnit x.t x.c) a n }, bs)

/-- Write memory at an address through a segment. -/
def Exec.wrAt (x : Exec) (w seg a : Nat) (bs : List Byte) : Exec :=
  let g := x.e.seg seg
  let hint := hintOf w g
  match x.s.writeMem a bs with
  | .error er => { x with s := x.s.accessEnds er a 0 }.failMem seg a er
  | .ok s =>
    let lu := s.lastUsePages g hint a bs.length
    let s := (s.noteWrites (s.localAddr a) bs.length).requestWrites (tileUnit x.t x.c) false a bs
    { x with s := s.demandTier x.i.cmd.ctx g hint a bs.length, lastUse := x.lastUse ++ lu, mem := x.mem ++ [(a, bs.length)] }

/-- Read bytes at an offset of where a descriptor points. -/
def Exec.rd (x : Exec) (w : Nat) (off : Int) (n : Nat) : Exec × List Byte :=
  if x.err.isSome then (x, [])
  else if whereLs w then x.rdLs off.toNat n
  else x.rdAt w (whereSeg w) ((x.e.seg (whereSeg w)).base + off.toNat) n

/-- Write bytes at an offset of where a descriptor points. -/
def Exec.wr (x : Exec) (w : Nat) (off : Int) (bs : List Byte) : Exec :=
  if x.err.isSome then x
  else if whereLs w then x.wrLs off.toNat bs
  else x.wrAt w (whereSeg w) ((x.e.seg (whereSeg w)).base + off.toNat) bs

/-! ### Elements (00 R12; 04 R148, R151) -/

/-- The codes of `n` elements of `b` bits: 4-bit elements lie two to a byte, the even one low. -/
def unpack (b n : Nat) (bs : List Byte) : List Nat :=
  if b = 4 then ((bs.flatMap (fun x => [x.toNat % 16, x.toNat / 16])).take n)
  else (upTo n).map (fun i => fieldOf bs (i * (b / 8)) (b / 8))

/-- Pairs of 4-bit codes as bytes. -/
def packNibbles : List Nat → List Byte
  | [] => []
  | [x] => [BitVec.ofNat 8 (x % 16)]
  | x :: y :: t => BitVec.ofNat 8 (x % 16 + 16 * (y % 16)) :: packNibbles t

/-- The bytes of element codes. -/
def pack (b : Nat) (cs : List Nat) : List Byte :=
  if b = 4 then packNibbles cs else cs.flatMap (bytesOfNat (b / 8))

/-- The codes of line `k` of an operand. -/
def Exec.rdLine (x : Exec) (o : Opnd) (k : Nat) : Exec × List Nat :=
  let (x, bs) := x.rd o.od.where_ (o.off + o.od.lineOff k) o.od.rowBytes
  (x, unpack o.od.fmt.bits o.od.e0 (sliceBytes bs 0 o.od.rowBytes))

/-- The scale codes of line `k`: 2⁰ for a non-MX operand (05 R168). -/
def Exec.rdScales (x : Exec) (o : Opnd) (k : Nat) : Exec × List Nat :=
  match o.sc with
  | none => (x, List.replicate (o.od.e0 / 32 + 1) 0x7F)
  | some (s, off) =>
    let (x, bs) := x.rd s.where_ (off + s.lineOff (o.od.scaleLine k)) s.rowBytes
    (x, (sliceBytes bs 0 s.rowBytes).map (fun b => b.toNat))

/-- The exact values of codes under their scales (05 R161 to R168). -/
def valuesOf (f : Fmt) (anchor : Int) (cs scales : List Nat) : List Num :=
  match f with
  | .attar => cs.map (fun c => (Attar.ofCode c).value anchor)
  | f =>
    if f.isMx then cs.zipIdx.map (fun e => mxValue (decodeElem f.elem e.1) (scales.getD (e.2 / 32) 0x7F))
    else cs.map (decodeElem f)

/-- The values of line `k`. -/
def Exec.rdVals (x : Exec) (o : Opnd) (k : Nat) : Exec × List Num :=
  let (x, cs) := x.rdLine o k
  let (x, sc) := x.rdScales o k
  (x, valuesOf o.od.fmt o.od.anchor cs sc)

/-- Write the codes of line `k`, and its scales for an MX operand; bytes of a scale row beyond the line's blocks are
written as 0 (04 R152). -/
def Exec.wrLine (x : Exec) (o : Opnd) (k : Nat) (cs scales : List Nat) : Exec :=
  let x := x.wr o.od.where_ (o.off + o.od.lineOff k) (pack o.od.fmt.bits cs)
  match o.sc with
  | none => x
  | some (s, off) => x.wr s.where_ (off + s.lineOff (o.od.scaleLine k)) (sliceBytes (scales.map (BitVec.ofNat 8)) 0 s.rowBytes)

/-! ### Rounding a line into an operand (05 R180 to R184) -/

/-- Round the values of line `k` of C into its format; the result is element codes and scale codes. Elements of the line
have logical indices from `k` × OD_EXT0. -/
def roundLine (f : Fmt) (mode : Mode) (draw : Nat → Nat) (first : Nat) (vs : List Num) : List Nat × List Nat :=
  if f.isMx then
    let blocks := (chunksOf (vs.length + 1) 32 vs).zipIdx.map (fun b =>
      roundBlock f mode (fun j => draw (first + 32 * b.2 + j)) b.1)
    (blocks.flatMap (fun b => b.2), blocks.map (fun b => b.1))
  else (vs.zipIdx.map (fun v => roundNum f mode (draw (first + v.2)) v.1), [])

/-- Round a line of values into line `k` of C and write it. -/
def Exec.wrVals (x : Exec) (o : Opnd) (mode : Mode) (k : Nat) (vs : List Num) : Exec :=
  let r := roundLine o.od.fmt mode x.drawAt.draw (k * o.od.e0) vs
  x.wrLine o k r.1 r.2

/-- The rounding field of a word's flags at bit `lo`: 0 RNE, 1 SR (04 R155). -/
def modeOf (fl lo : Nat) : Mode := if bits fl (lo + 1) lo = 1 then .sr else .rne

/-! ### Byte ranges in the local store (04 R141; 06 R206) -/

/-- Local-store ranges of lines `r0` to `r0 + n − 1` of an operand, with their scales. -/
def Opnd.ranges (o : Opnd) (r0 n : Nat) : List (Nat × Nat) :=
  let main := if o.od.ls then (upTo n).map (fun j => ((o.off + o.od.lineOff (r0 + j)).toNat, o.od.rowBytes)) else []
  let sc := match o.sc with
    | some (s, off) => if s.ls then (upTo n).map (fun j => ((off + s.lineOff (o.od.scaleLine (r0 + j))).toNat, s.rowBytes)) else []
    | none => []
  main ++ sc

/-- Memory ranges of lines `r0` to `r0 + n − 1` of an operand, with their scales. -/
def Exec.memRanges (x : Exec) (o : Opnd) (r0 n : Nat) : List (Nat × Nat) :=
  let lines (d : Od) (off : Int) (row : Nat → Nat) : List (Nat × Nat) :=
    if d.ls then []
    else (upTo n).map (fun j => (x.s.localAddr ((x.e.seg (whereSeg d.where_)).base + (off + d.lineOff (row (r0 + j))).toNat), d.rowBytes))
  lines o.od o.off id ++ (match o.sc with
    | some (s, off) => lines s off o.od.scaleLine
    | none => [])

/-- The bytes two ranges share, as (first, count) with count 0 for none. -/
def overlap (p q : Nat × Nat) : Nat × Nat :=
  let lo := max p.1 q.1
  (lo, min (p.1 + p.2) (q.1 + q.2) - lo)

/-- The non-empty overlaps of two lists of ranges. -/
def overlaps (ps qs : List (Nat × Nat)) : List (Nat × Nat) :=
  (ps.flatMap (fun p => qs.map (overlap p))).filter (fun r => decide (r.2 > 0))

/-! ### The sash (06 R205, R206) -/

/-- Lowest byte and count of a held partial: its rows and the gaps between them. -/
def Sash.span (p : Sash) : Nat × Nat :=
  let last : Int := ((p.rows : Int) - 1) * p.stride
  let lo := (p.off + min 0 last).toNat
  (lo, ((p.off : Int) + max 0 last + 16 * p.cols).toNat - lo)

/-- Write a dirty held partial to its local-store bytes. -/
def Exec.writeBack (x : Exec) : Exec :=
  match x.i.sash with
  | some p =>
    if p.dirty then
      let x := p.vals.zipIdx.foldl (fun (x : Exec) r => x.wrLs ((p.off : Int) + r.2 * p.stride).toNat (pack 128 r.1)) x
      { x with i := { x.i with sash := some { p with dirty := false } } }
    else x
  | none => x

/-- The access of another op to the bytes of a held partial. -/
def Exec.touchSash (x : Exec) (reads writes : List (Nat × Nat)) : Exec :=
  match x.i.sash with
  | none => x
  | some p =>
    let w := !(overlaps writes [p.span]).isEmpty
    if w then
      let x := x.writeBack
      { x with i := { x.i with sash := none } }
    else if !(overlaps reads [p.span]).isEmpty then x.writeBack
    else x

/-! ### Stops part-way through an op (07 R243) -/

/-- What a core's panes have issued, at an AC cycle, and a core as that left it. -/
def Core.track (k : Core) (ac : Nat) : PaneTrack :=
  ⟨k.rows, k.dummy, k.warm, k.admitted, k.gap, k.recent, k.nextRow, k.lastDummy, k.limit, ac⟩
def Core.retrack (k : Core) (p : PaneTrack) : Core :=
  { k with rows := p.rows, dummy := p.dummy, warm := p.warm, admitted := p.admitted, gap := p.gap, recent := p.recent, nextRow := p.nextRow
           lastDummy := p.lastDummy }

/-- What the rows of an op replace: the local store, the memory rows of its operand C, and the sash. -/
def Exec.before (x : Exec) : Before :=
  let c := x.opnd 2
  let at_ (d : Od) (off : Int) (k : Nat) : List (Nat × List Byte) :=
    if d.ls then [] else
      let a := (x.e.seg d.seg).base + (off + d.lineOff k).toNat
      [(a, x.s.peek a d.rowBytes)]
  let row (k : Nat) : List (Nat × List Byte) := at_ c.od c.off k ++ (match c.sc with
    | some (d, off) => at_ d off (c.od.scaleLine k)
    | none => [])
  { ls := x.i.ls, tags := x.i.tags, sash := x.i.sash, mem := if wordUses x.w 2 then (upTo c.od.lines).map row else []
    sets := [x.i.active, x.i.shadow].map (fun w => (w.num, w.srcWritten)), panes := x.k.track x.s.clk.ac }

/-- Local-store bytes are put back as they were. -/
def Exec.putBack (x : Exec) (bs : List (Nat × List Byte)) : Exec :=
  { x with i := { x.i with ls := bs.foldl (fun m p => m.write p.1 p.2) x.i.ls } }

/-- Rows `l` on of an op's operand C, without those of its sash, are as they were before the op. -/
def Exec.undoRows (x : Exec) (b : Before) (l : Nat) : Exec :=
  let c := x.opnd 2
  let x := x.putBack ((c.ranges l (c.od.lines - l)).map (fun r => (r.1, b.ls.read r.1 r.2)))
  { x with s := ((b.mem.drop l).flatten.reverse).foldl (fun s p => s.tryWrite p.1 p.2) x.s }

/-- Operand C is a ring that the rows of the op go round more than once: a row no longer shows what it replaced. -/
def Opnd.wraps (o : Opnd) : Bool := o.od.isRing && decide (128 * o.od.e2 < o.od.lines)

/-! ### Unordered ops (04 R141) -/

/-- Free bytes. -/
def State.freeBytes : Nat → State → List Byte × State
  | 0, s => ([], s)
  | n + 1, s =>
    let (v, s) := s.draw
    let (bs, s) := State.freeBytes n s
    (BitVec.ofNat 8 v :: bs, s)

/-- Put free bytes into local-store ranges. -/
def Exec.fillFree (x : Exec) : List (Nat × Nat) → Exec
  | [] => x
  | r :: rs =>
    let (bs, s) := x.s.freeBytes r.2
    { x with s, i := { x.i with ls := x.i.ls.write r.1 bs } }.fillFree rs

/-- Local-store ranges come to hold free values; a partial held over them is written back and released first. -/
def Exec.scramble (x : Exec) (rs : List (Nat × Nat)) : Exec := if rs.isEmpty then x else (x.touchSash [] rs).fillFree rs

/-- Put free bytes into memory ranges. -/
def State.scramble : List (Nat × Nat) → State → State
  | [], s => s
  | r :: rs, s =>
    let (bs, s) := s.freeBytes r.2
    (s.tryWrite r.1 bs).scramble rs

/-- Put free bytes into memory ranges. -/
def Exec.scrambleMem (x : Exec) (rs : List (Nat × Nat)) : Exec := { x with s := x.s.scramble rs }

/-- Place of an engine in what is known of the four, which is its number in SR_QUEUE (07 R244). -/
def engineNum : Engine → Nat
  | .mx => 0 | .vx => 1 | .mov => 2 | .ga => 3

/-- What is known of one engine. -/
def Known.of (k : Known) (eng : Engine) : Nat × Nat := List.getD k (engineNum eng) (0, 0)

/-- The later of two states of an engine. -/
def laterOf (p q : Nat × Nat) : Nat × Nat := if p.1 < q.1 ∨ (p.1 = q.1 ∧ p.2 < q.2) then q else p

/-- What two know together. -/
def Known.join (k l : Known) : Known := (upTo 4).map (fun n => laterOf (List.getD k n (0, 0)) (List.getD l n (0, 0)))

/-- What is known, and a state of one engine. -/
def Known.add (k : Known) (eng : Engine) (p : Nat × Nat) : Known :=
  (upTo 4).map (fun n => if n = engineNum eng then laterOf (List.getD k n (0, 0)) p else List.getD k n (0, 0))

/-- The access is known to be over. -/
def Known.covers (k : Known) (p : Past) : Bool :=
  let (n, t) := k.of p.eng
  decide (p.num ≤ n) || (p.num == n + 1 && decide (p.tile < t))

/-- Accesses of other engines that the op is not ordered after. -/
def Exec.unordered (x : Exec) (eng : Engine) : List Past := x.i.past.filter (fun p => p.eng != eng && !x.known.covers p)

/-- Ops in flight on other engines with accesses still to make that no count of a token can put after this op: one that takes a count
before each tile is judged when it makes them. -/
def Exec.others (x : Exec) (eng : Engine) : List OpRec :=
  x.i.ops.filter (fun o => o.eng != eng && !tileWaits (x.e.image.words.getD o.word []))

/-- Before an access: bytes it reads that an unordered op has written, or is to write, hold free values. -/
def Exec.raceBefore (x : Exec) (eng : Engine) (reads : List (Nat × Nat)) : Exec :=
  x.scramble ((x.unordered eng).flatMap (fun p => overlaps reads p.writes) ++ (x.others eng).flatMap (fun o => overlaps reads o.writes))

/-- What is left of a range without another. -/
def rangeLess (p q : Nat × Nat) : List (Nat × Nat) :=
  [(p.1, min (p.1 + p.2) q.1 - p.1), (max p.1 (q.1 + q.2), p.1 + p.2 - max p.1 (q.1 + q.2))].filter (fun r => decide (0 < r.2))

/-- What is left of ranges without others. -/
def rangesLess (ps qs : List (Nat × Nat)) : List (Nat × Nat) := qs.foldl (fun l q => l.flatMap (fun p => rangeLess p q)) ps

/-- What came of unspecified bytes: local-store bytes, memory and loaded weights. -/
structure Taint where
  ls    : List (Nat × Nat) := []
  mem   : List (Nat × Nat) := []
  loads : List Nat := []

/-- What an access made of bytes that are unspecified is unspecified too; what it wrote of others is not. -/
def Taint.step (t : Taint) (p : Past) : Taint :=
  if !(overlaps p.reads t.ls).isEmpty || t.loads.contains p.uses then
    { ls := t.ls ++ p.writes, mem := t.mem ++ p.mem, loads := if p.loads then p.num :: t.loads else t.loads }
  else { t with ls := rangesLess t.ls p.writes }

/-- What came of the accesses that read bytes unordered with the writes `writes`: the bytes they read were unspecified. -/
def taintOf (hit : Past → Bool) : List Past → Taint → Taint
  | [], t => t
  | p :: ps, t =>
    taintOf hit ps (if hit p then { ls := t.ls ++ p.writes, mem := t.mem ++ p.mem, loads := if p.loads then p.num :: t.loads else t.loads }
      else t.step p)

/-- A weight set loaded from unspecified bytes. -/
def Exec.freeSet (x : Exec) (bad : List Nat) (w : WeightSet) : Exec × WeightSet :=
  if w.num ≠ 0 ∧ bad.contains w.num = true then
    let (d, s) := x.s.freeBytes 16384
    let (q, s) := s.freeBytes 1024
    ({ x with s }, { w with data := d, scales := q })
  else (x, w)

/-- What came of unspecified bytes holds free values. -/
def Exec.spoil (x : Exec) (t : Taint) : Exec :=
  let x := (x.scramble t.ls).scrambleMem t.mem
  let (x, a) := x.freeSet t.loads x.i.active
  let (x, b) := x.freeSet t.loads x.i.shadow
  { x with i := { x.i with active := a, shadow := b } }

/-- Accesses that every op in flight and every later word comes after need no more notice, from the oldest on. -/
def Inst.prune (i : Inst) : Inst :=
  { i with past := i.past.dropWhile (fun p => i.known.covers p && i.ops.all (fun o => o.eng == p.eng || o.known.covers p)) }

/-- After an access: bytes that it and an unordered op both write hold free values, and so does what an unordered op made of bytes that
this one writes. The access is noted for those that follow. -/
def Exec.raceAfter (x : Exec) (eng : Engine) (reads writes : List (Nat × Nat)) (loads : Bool := false) : Exec :=
  let un := x.unordered eng
  let both := un.flatMap (fun p => overlaps writes p.writes) ++ (x.others eng).flatMap (fun o => overlaps writes o.writes)
  let hit (p : Past) : Bool := un.contains p && !(overlaps writes p.reads).isEmpty
  let x := x.scramble both
  let x := if x.i.past.any hit then
      let t := taintOf hit x.i.past {}
      x.spoil { t with ls := rangesLess t.ls writes }
    else x
  let p : Past := { eng, num := x.num, tile := x.tile, reads, writes, mem := x.mem, loads, uses := x.i.active.num }
  { x with i := ({ x.i with past := x.i.past ++ [{ p with uses := if eng == .mx && !loads then p.uses else 0 }] } : Inst).prune }

end Sys2Proof.Machine
end

