-- ==== Sys2Proof/Machine/Accept.lean ====
section
/-! DEFINITION. Acceptance: the checks of 03 R109 in their order, with the rules of every operation that they apply (02
R36, R38, R61, R78; 04 R131 to R157; 05 R166 to R179; 06 R199, R202; 07 R235; 08 R250 to R262; 09 R291 to R311; 11 R353
to R357; 15 R463). -/

namespace Sys2Proof.Machine

/-! ### Operations -/

/-- What an opcode names (04 R155, R157). -/
inductive OpKind where
  | nop | tokenSet | selftest | reset | segSync | progRun
  | allreduce | reduceScatter | allgather | alltoall | barrier
  | layerSchedule | quota | pin | unpin | evict | prefetch
  | timeMark | timeSource | pwrLimit | pwrIdle | attest | cert
  | progWord
  | tile
  deriving DecidableEq, Repr

/-- Opcodes of the tile-ops of the copy, pane, vector and gather engines (04 R155). -/
def isTileOp (o : Nat) : Bool :=
  (decide (0x0801 ≤ o) && decide (o ≤ 0x0805)) || (decide (0x0C01 ≤ o) && decide (o ≤ 0x0C02)) ||
  (decide (0x1001 ≤ o) && decide (o ≤ 0x100B)) || (decide (0x1401 ≤ o) && decide (o ≤ 0x1404))

/-- The operation of an opcode under contract version 1.0; none is an unknown opcode (02 R78; 04 R155, R157). -/
def opKind (o : Nat) : Option OpKind :=
  match o with
  | 0x0000 => some .nop | 0x0002 => some .tokenSet | 0x0003 => some .selftest | 0x0005 => some .reset
  | 0x0401 => some .segSync | 0x2001 => some .progRun
  | 0x1801 => some .allreduce | 0x1802 => some .reduceScatter | 0x1803 => some .allgather | 0x1804 => some .alltoall
  | 0x1805 => some .barrier
  | 0x1C01 => some .layerSchedule | 0x1C02 => some .quota | 0x1C03 => some .pin | 0x1C04 => some .unpin
  | 0x1C05 => some .evict | 0x1C06 => some .prefetch
  | 0x2401 => some .timeMark | 0x2402 => some .timeSource | 0x2801 => some .pwrLimit | 0x2802 => some .pwrIdle
  | 0x2C01 => some .attest | 0x2C02 => some .cert
  | o => if isTileOp o then some .tile else if isProgWord o then some .progWord else none

/-- The engine of a tile-op. -/
def engineOf (o : Nat) : Engine := if o < 0x0C00 then .mov else if o < 0x1000 then .mx else if o < 0x1400 then .vx else .ga

/-- Privileged operations (04 R157). -/
def OpKind.privileged : OpKind → Bool
  | .selftest | .reset | .quota | .timeSource | .pwrLimit | .pwrIdle => true
  | _ => false

/-! ### Outcomes of a check -/

/-- How acceptance ends short of admission: a completion status with DETAIL and, for unreadable data, a fault record
(segment, kind, address); or data that is to be read again (02 R36; 04 R132). -/
inductive AccFail where
  | fail (status detail : Nat) (fault : Option (Nat × Nat × Nat))
  | reread (what : Reread) (kept : List (List Byte)) (maps : Table (List Nat))
  deriving DecidableEq, Repr

/-- A rule of step 1. -/
def need (b : Bool) : Except AccFail Unit := if b then .ok () else .error (.fail sBadPacket 0 none)

/-- A rule with another status. -/
def needs (b : Bool) (st detail : Nat) : Except AccFail Unit := if b then .ok () else .error (.fail st detail none)

/-- What the use of an operand needs (04 R149; 09 R308). -/
inductive Perm where
  | r | w | a | none
  deriving DecidableEq, Repr

/-- A use of a segment: its lowest and highest byte offset, and the permission it needs. -/
structure Use where
  seg  : Nat
  lo   : Int
  hi   : Int
  perm : Perm
  deriving DecidableEq, Repr

/-- The segment grants a permission. -/
def Seg.grants (g : Seg) : Perm → Bool
  | .r => g.permR
  | .w => g.permW
  | .a => g.permA
  | .none => true

/-- The lowest segment among the uses that fail a test. -/
def lowest (us : List Use) (ok : Use → Bool) : Option Nat :=
  us.foldl (fun m u => if ok u then m else match m with
    | none => some u.seg
    | some k => some (min k u.seg)) none

/-- Every rule holds for all uses, else a status with the lowest failing segment. -/
def forUses (us : List Use) (ok : Use → Bool) (st : Nat) : Except AccFail Unit :=
  match lowest us ok with
  | none => .ok ()
  | some g => .error (.fail st g none)

/-- Step 4 for one use (03 R110). -/
def Use.inSeg (segs : List Seg) (u : Use) : Bool :=
  let g := segs.getD u.seg {}
  g.valid && decide (0 ≤ u.lo) && decide (u.hi < (g.size : Int))

/-- Step 5 for one use (04 R149). -/
def Use.permitted (segs : List Seg) (u : Use) : Bool := (segs.getD u.seg {}).grants u.perm

/-! ### Scope and features -/

/-- A unit named by a scope is in service (02 R32; 15 R473). -/
def State.scopeUp (s : State) (kind index : Nat) : Bool :=
  match kind with
  | 1 => s.coreLive (index / 64) (index % 64)
  | 2 => (s.tile index).inService
  | 3 => true
  | _ => !(s.gangMembers index).isEmpty

/-- The scope names a unit kind and an index that exist (02 R32). -/
def scopeOk (kind index : Nat) : Bool :=
  match kind with
  | 1 => decide (index < 512)
  | 2 => decide (index < 8)
  | 3 => index == 0
  | 4 => decide (1 ≤ index) && decide (index ≤ 3)
  | _ => false

/-- Features that a command needs are reported by a tile of its scope, and in a gang by the gang's block too (02 R75, R83). -/
def featsOk (s : State) (c : Ctx) (feat : Nat) : Bool :=
  (c.desc.kind != 4 || fieldOf (s.gangCap c.desc.index) 0x44 4 &&& feat == feat) &&
  (s.scopeCores c.desc.kind c.desc.index).any (fun p => s.tileFeat p.1 &&& feat == feat)

/-! ### Tile-ops (04 R155) -/

/-- What an operand slot takes. -/
inductive SlotKind where
  | unused | mem | ls | lsOpt | any
  deriving DecidableEq, Repr

/-- A row of the catalogue: slots A, B, C, the flags the op defines, the bit of its rounding field, the largest immediate. -/
structure OpInfo where
  a     : SlotKind
  b     : SlotKind
  c     : SlotKind
  flags : Nat
  round : Option Nat
  imm   : Nat

/-- The catalogue of tile-ops (04 R155). -/
def opInfo (o : Nat) : OpInfo :=
  match o with
  | 0x2002 => ⟨.unused, .unused, .unused, 0, none, 0xFFFFFF⟩
  | 0x0801 => ⟨.mem, .unused, .ls, 0x83, some 0, 0⟩
  | 0x0802 => ⟨.ls, .unused, .mem, 0x83, some 0, 0⟩
  | 0x0803 => ⟨.mem, .unused, .mem, 0x03, some 0, 0⟩
  | 0x0804 => ⟨.ls, .unused, .ls, 0x83, some 0, 0⟩
  | 0x0805 => ⟨.unused, .unused, .any, 0, none, 0⟩
  | 0x0C01 => ⟨.ls, .unused, .unused, 0, none, 0⟩
  | 0x0C02 => ⟨.ls, .lsOpt, .ls, 0x87, some 1, 0⟩
  | 0x1001 => ⟨.ls, .ls, .ls, 0x03, some 0, 5⟩
  | 0x1002 => ⟨.ls, .unused, .ls, 0x03, some 0, 7⟩
  | 0x1003 => ⟨.ls, .ls, .ls, 0, none, 2⟩
  | 0x1004 => ⟨.ls, .ls, .ls, 0, none, 0⟩
  | 0x1005 => ⟨.ls, .unused, .ls, 0x03, some 0, 0⟩
  | 0x1006 => ⟨.ls, .unused, .ls, 0x03, some 0, 2⟩
  | 0x1007 => ⟨.ls, .ls, .ls, 0x03, some 0, 1⟩
  | 0x1008 => ⟨.ls, .unused, .ls, 0x03, some 0, 0⟩
  | 0x1009 => ⟨.ls, .ls, .ls, 0, none, 0⟩
  | 0x100A => ⟨.ls, .unused, .ls, 0, none, 0⟩
  | 0x100B => ⟨.ls, .unused, .ls, 0x03, some 0, 0⟩
  | 0x1401 => ⟨.mem, .any, .any, 0, none, 0⟩
  | 0x1402 => ⟨.mem, .any, .any, 0, none, 3⟩
  | 0x1403 => ⟨.any, .any, .mem, 0x01, none, 0⟩
  | 0x1404 => ⟨.any, .any, .mem, 0, none, 0⟩
  | _ => ⟨.unused, .unused, .unused, 0, none, 0⟩

/-- A descriptor by its layout (04 R146). -/
inductive Dsc where
  | od (d : Od)
  | tb (d : Tb)
  | ix (d : Ix)
  deriving DecidableEq, Repr

/-- Read a descriptor of an image or a block. -/
def Dsc.parse (b : List Byte) : Dsc :=
  match fieldOf b 3 1 with
  | 3 => .tb (Tb.parse b)
  | 4 => .ix (Ix.parse b)
  | _ => .od (Od.parse b)

def Dsc.where_ : Dsc → Nat
  | .od d => d.where_
  | .tb d => d.where_
  | .ix d => d.where_

/-- OD_ANCHOR of an ATTAR descriptor. -/
def Dsc.anchor? : Dsc → Option Int
  | .od d => if d.isAttar then some d.anchor else none
  | .tb d => if d.code = 0x0C then some d.anchor else none
  | .ix _ => none

/-- A descriptor's own rules, its scales included (04 R134, R148; 05 R167). -/
def Dsc.ok (ds : List (List Byte)) : Dsc → Bool
  | .od d => d.ok && (!d.isMx || (decide (d.scale < ds.length) && d.scaleOk (Od.parse (ds.getD d.scale []))))
  | .tb d => d.ok
  | .ix d => d.ok

/-- A word with its place in the program: its loops' trip counts, outermost first, and the formats of the weights checked
for it (none: the +0 set). -/
structure WordAt where
  w      : List Byte
  trips  : List Nat
  /-- Format of the latest MX_WLOAD before it. -/
  wload  : Option Fmt
  /-- Format checked for the latest SWAP stream before it. -/
  active : Option Fmt

/-- The descriptor of slot `k` of a word. -/
def WordAt.dsc (x : WordAt) (ds : List (List Byte)) (k : Nat) : Dsc := Dsc.parse (ds.getD (wordDesc x.w k) [])

/-- The descriptor of slot `k` as an operand descriptor. -/
def WordAt.od (x : WordAt) (ds : List (List Byte)) (k : Nat) : Option Od :=
  if wordUses x.w k then match x.dsc ds k with
    | .od d => some d
    | _ => none
  else none

/-- Two slots name the same operand (06 R202). -/
def sameOpnd (w : List Byte) (j k : Nat) : Bool := wordDesc w j == wordDesc w k && wordMap w j == wordMap w k

/-- The slot rules of a word (04 R138, R145, R155). -/
def slotOk (x : WordAt) (ds : List (List Byte)) (maps : Nat) (g : Image) (k : Nat) (kind : SlotKind) : Bool :=
  let d := wordDesc x.w k
  let m := wordMap x.w k
  if d = 0xFFF then m == 0 && (kind == .unused || kind == .lsOpt)
  else
    let ls := whereLs (x.dsc ds k).where_
    decide (d < ds.length) && decide (m ≤ maps) && kind != .unused &&
    (kind == .any || ls == (kind != .mem)) &&
    ((g.map m).l.drop x.trips.length).all (fun c => c == 0)

/-- Equal extents. -/
def Od.sameExt (a b : Od) : Bool := a.e0 == b.e0 && a.e1 == b.e1 && a.e2 == b.e2 && a.e3 == b.e3

/-- A format that holds a number, MX included. -/
def Od.isNum (d : Od) : Bool := d.fmt.isNumber || d.fmt.isMx

/-- Shapes of the copy ops (04 R150, R155; 05 R186; the equal extents are DEDUCED, log 12). -/
def movOk (op : Nat) (a c : Option Od) : Bool :=
  match c with
  | none => false
  | some c =>
    let ringC := op == 0x0801 || op == 0x0804
    let ringA := op == 0x0802 || op == 0x0804
    (ringC || !c.isRing) &&
    (if op = 0x0805 then true else match a with
      | none => false
      | some a =>
        (ringA || !a.isRing) && a.e0 == c.e0 && a.lines == c.lines &&
        (a.code == c.code || (c.fmt.isTarget && (a.isNum || a.isAttar))))

/-- MX_WLOAD (06 R199). -/
def wloadOk (a : Option Od) : Bool :=
  match a with
  | none => false
  | some a => a.isEngineReady && a.rank == 2 && a.e1 == 128 && a.fmt.paneClass.isSome

/-- Formats that the fixed anchors serve (05 R178): not MX, not BF16. -/
def fixedFmt (f : Fmt) : Bool := !f.isMx && f != .bf16

/-- MX_STREAM (04 R156; 05 R178, R179; 06 R202). -/
def streamOk (x : WordAt) (a b c : Option Od) : Bool :=
  match a, c with
  | some a, some c =>
    let swap := bit (wordFlags x.w) 0
    let wf := if swap then x.wload else x.active
    a.fmt.paneClass.isSome && (a.isEngineReady && a.rank == 2 || a.isRing) &&
    a.e0 * a.fmt.bits == 1024 &&
    (if swap then (match wf with | some f => f.paneClass == a.fmt.paneClass | none => false)
     else (match wf with | some f => f.paneClass == a.fmt.paneClass | none => true)) &&
    decide (c.e0 ≤ 128) && c.e1 == a.e1 &&
    (c.isRing && !c.isAttar || !c.isRing && c.rank == 2) &&
    (c.isAttar || c.fmt.isTarget) &&
    (match b with
     | none => !wordUses x.w 1 && (c.isAttar || fixedFmt a.fmt && (match wf with | some f => fixedFmt f | none => true))
     | some b => b.isAttar && !b.isRing && b.rank == 2 && b.e0 == c.e0 && b.e1 == c.e1 && (!c.isAttar || sameOpnd x.w 1 2))
  | _, _ => false

/-- Vector ops (04 R155; 07 R235). -/
def vecOk (op : Nat) (a b c : Option Od) : Bool :=
  match a, c with
  | some a, some c =>
    let flat (d : Od) : Bool := !d.isRing
    flat a && flat c && (match b with | some b => flat b | none => true) &&
    (match op, b with
     | 0x1001, some b => a.isNum && b.isNum && c.fmt.isTarget && a.sameExt b && a.sameExt c
     | 0x1002, none => a.isNum && c.fmt.isTarget && a.sameExt c
     | 0x1003, some b => a.isNum && b.isNum && c.code == 0x11 && a.sameExt b && a.sameExt c
     | 0x1004, some b => a.isNum && (b.isNum || b.code == 0x11) && c.fmt.isTarget && a.sameExt b && a.sameExt c
     | 0x1005, none => a.isNum && c.fmt.isTarget && a.sameExt c
     | 0x1006, none => a.isNum && c.fmt.isTarget && c.e0 == 1 && a.e1 == c.e1 && a.e2 == c.e2 && a.e3 == c.e3
     | 0x1007, some b => a.isNum && b.isNum && c.fmt.isTarget && a.sameExt c && b.rank == 1 && b.e0 == a.e0
     | 0x1008, none => a.isNum && c.fmt.isTarget && a.sameExt c
     | 0x1009, some b => a.isAttar && b.isAttar && c.isAttar && a.sameExt b && a.sameExt c
     | 0x100A, none => a.isNum && c.isAttar && a.sameExt c
     | 0x100B, none => a.isAttar && c.fmt.isTarget && a.sameExt c
     | _, _ => false)
  | _, _ => false

/-- Table formats of gathers (08 R251). -/
def gatherFmt (f : Fmt) : Bool := f == .e4m3 || f == .e5m2 || f == .int8 || f == .bf16 || f == .fp16

/-- The segment type rule of a table (08 R251): an entry that is not valid passes. -/
def tableSegOk (segs : List Seg) (t : Tb) (gather : Bool) : Bool :=
  let g := segs.getD (whereSeg t.where_) {}
  !g.valid || (if t.shards ≠ 0 then g.type == 0 else if gather then decide (g.type ≤ 2) else decide (g.type ≤ 1))

/-- Gather ops (08 R251, R262). -/
def gaOk (op : Nat) (segs : List Seg) (w : List Byte) (a b c : Dsc) : Bool :=
  let gather := op == 0x1401 || op == 0x1402
  let fp := op == 0x1403 && bit (wordFlags w) 0
  match (if gather then a else c), b, (if gather then c else a) with
  | .tb t, .ix x, .od d =>
    tableSegOk segs t gather && !d.isRing && d.rank == 2 && d.e0 == t.dims &&
    (match op with
     | 0x1401 => gatherFmt t.fmt && x.bags == 0 && !x.weights && !x.combine && d.e1 == x.count && (d.fmt.isTarget || d.isAttar)
     | 0x1402 =>
       gatherFmt t.fmt && decide (0 < x.bags) && x.weights == (wordImm w == 3) && !x.combine && d.e1 == x.bags &&
       (d.fmt.isTarget && !d.isMx || d.isAttar && (wordImm w == 0 || wordImm w == 3))
     | 0x1403 =>
       t.code == (if fp then 0x0B else 0x0C) && !t.rowScale && t.off % 64 == 0 && t.stride % 64 == 0 && !(x.combine && fp) &&
       d.e1 == (if x.bags = 0 then x.count else x.bags) &&
       (if fp then d.fmt == .fp32 || d.fmt == .bf16 || d.fmt == .fp16 else d.fmt.isNumber || d.isAttar)
     | _ => !t.rowScale && t.fmt.isNumber && x.bags == 0 && !x.weights && !x.combine && d.e1 == x.count && d.fmt.isNumber)
  | _, _, _ => false

/-- The features that a word needs (05 R193; 08 R286). -/
def wordFeat (x : WordAt) (ds : List (List Byte)) : Nat :=
  let op := wordOp x.w
  let sr := match (opInfo op).round with
    | some lo => decide (modeOf (wordFlags x.w) lo = .sr)
    | none => false
  let slot (k : Nat) : Option Dsc := if wordUses x.w k then some (x.dsc ds k) else none
  let mx (k : Nat) : Bool := match slot k with
    | some (.od d) => d.isMx
    | _ => false
  let combine := match slot 1 with
    | some (.ix d) => d.combine
    | _ => false
  let scaled := match slot 0 with
    | some (.tb d) => d.rowScale
    | _ => false
  let fp := bit (wordFlags x.w) 0
  flagAt sr 0 ||| flagAt (mx 0 || mx 1 || mx 2) 1 ||| flagAt (op == 0x1403 && !fp) 2 ||| flagAt (mx 2) 3
    ||| flagAt (op == 0x1403 && fp) 5 ||| flagAt combine 6 ||| flagAt scaled 7

/-- The scales of every MX operand of a word lie in the local store, where the panes and the vector unit read and write (06 R219; 07
R235). -/
def WordAt.scalesLocal (x : WordAt) (ds : List (List Byte)) : Bool :=
  (upTo 3).all (fun k => match x.od ds k with
    | some d => !d.isMx || (Od.parse (ds.getD d.scale [])).ls
    | none => true)

/-- Every rule of a word but its local-store limits (04 R134). -/
def wordOk (segs : List Seg) (x : WordAt) (ds : List (List Byte)) (maps : Nat) (g : Image) : Bool :=
  let op := wordOp x.w
  let i := opInfo op
  let fl := wordFlags x.w
  let dsc (k : Nat) : Dsc := x.dsc ds k
  let anchors := ((upTo 3).filter (wordUses x.w)).filterMap (fun k => (dsc k).anchor?)
  fl &&& i.flags == fl && decide (wordImm x.w ≤ i.imm) &&
  (match i.round with | some lo => decide (bits fl (lo + 1) lo ≤ 1) | none => true) &&
  slotOk x ds maps g 0 i.a && slotOk x ds maps g 1 i.b && slotOk x ds maps g 2 i.c &&
  (match anchors with | [] => true | a :: t => t.all (fun y => y == a)) &&
  (if isProgWord op then true
   else if op < 0x0C00 then movOk op (x.od ds 0) (x.od ds 2)
   else if op < 0x1400 && !x.scalesLocal ds then false
   else if op = 0x0C01 then wloadOk (x.od ds 0)
   else if op = 0x0C02 then streamOk x (x.od ds 0) (x.od ds 1) (x.od ds 2)
   else if op < 0x1400 then vecOk op (x.od ds 0) (x.od ds 1) (x.od ds 2)
   else gaOk op segs x.w (dsc 0) (dsc 1) (dsc 2))

/-- The use of slot `k`: read, written or accumulated (04 R149). -/
def slotPerm (op k : Nat) : Perm :=
  if op = 0x1403 then (if k = 2 then .a else .r) else if k = 2 then .w else .r

/-- Uses of an operand with an element type: its bytes at both extremes, with its scales, C of an fma or a select being
read as well as written within the local store. -/
def odUses (ds : List (List Byte)) (d : Od) (ext : Int × Int) (p : Perm) : List (Bool × Use) :=
  let one (d : Od) : Bool × Use := (d.ls, ⟨d.seg, d.off + ext.1 + d.span.1, d.off + ext.2 + d.span.2, p⟩)
  one d :: (if d.isMx then [one (Od.parse (ds.getD d.scale []))] else [])

/-- The uses of one word at both extremes of its maps (04 R145; 08 R253, R260); the flag marks local-store ranges. The
arrays of an INDEX operand stay where their own offsets put them (DEDUCED, log 12). -/
def wordUsesOf (x : WordAt) (ds : List (List Byte)) (g : Image) (instances : Nat) : List (Bool × Use) :=
  ((upTo 3).filter (wordUses x.w)).flatMap (fun k =>
    let ext := (g.map (wordMap x.w k)).extremes instances x.trips
    let p := slotPerm (wordOp x.w) k
    match x.dsc ds k with
    | .od d => odUses ds d ext p
    | .tb t => [(false, ⟨whereSeg t.where_, t.off + ext.1, t.off + ext.2 + ((t.extRows - 1) * t.stride + t.rowBytes : Nat) - 1, p⟩)]
    | .ix d =>
      let ls := whereLs d.where_
      let sg := whereSeg d.where_
      [(ls, ⟨sg, d.off + ext.1, d.off + ext.2 + (d.count * d.size : Nat) - 1, .r⟩)] ++
      (if d.weights then [(ls, ⟨sg, d.wOff, d.wOff + (4 * d.count : Nat) - 1, .r⟩)] else []) ++
      (if d.bags ≠ 0 ∧ d.bagLen = 0 then [(ls, ⟨sg, d.bOff, d.bOff + (4 * (d.bags + 1) : Nat) - 1, .r⟩)] else []))

/-- The usable local store (07 R229). -/
def lsUsable : Nat := 0x3B0000

/-- A local-store range lies in the usable local store (04 R145). -/
def Use.inLs (u : Use) : Bool := decide (0 ≤ u.lo) && decide (u.hi < (lsUsable : Int))

/-! ### Programs (04 R133, R134, R143) -/

/-- Walk the words: loops nest at most four deep and close; each word gets its trip counts and weight formats. -/
def placeWords (ds : List (List Byte)) : List (List Byte) → List Nat → Option Fmt → Option Fmt → Option (List WordAt)
  | [], open_, _, _ => if open_ = [] then some [] else none
  | w :: ws, open_, wload, active =>
    let here : WordAt := ⟨w, open_.reverse, wload, active⟩
    let op := wordOp w
    let fmtA : Option Fmt := match here.od ds 0 with
      | some d => d.fmt?
      | none => none
    let next : Option (List Nat × Option Fmt × Option Fmt) :=
      if op = 0x2002 then (if open_.length < 4 then some ((wordImm w + 1) :: open_, wload, active) else none)
      else if op = 0x2003 then (match open_ with | [] => none | _ :: t => some (t, wload, active))
      else if op = 0x0C01 then some (open_, fmtA, active)
      else if op = 0x0C02 then some (open_, wload, if bit (wordFlags w) 0 then wload else active)
      else some (open_, wload, active)
    match next with
    | none => none
    | some (o, wl, ac) => (placeWords ds ws o wl ac).map (fun t => here :: t)

/-- Two byte regions share no byte; an empty region overlaps none. -/
def apart (p q : Nat × Nat) : Bool := p.2 == 0 || q.2 == 0 || decide (p.1 + p.2 ≤ q.1) || decide (q.1 + q.2 ≤ p.1)

/-- Every pair of regions is apart. -/
def allApart : List (Nat × Nat) → Bool
  | [] => true
  | p :: t => t.all (apart p) && allApart t

/-- The CRCs and the regions of an image (04 R132 to R134): the parts the device keeps, or none when a CRC fails. The header counts
among the parts that must be apart (log 101), and an empty region must lie within PROG_BYTES as another must (DESIGN CHOICE, log 117). -/
def readImage (ver : Nat) (img : List Byte) : Except AccFail (Option Image) := do
  let hdr := img.take 64
  if crc32c (hdr.take 60) ≠ fieldOf hdr 0x3C 4 then return none
  need (fieldOf hdr 0x07 1 == 0 && fieldOf hdr 0x18 36 == 0)
  let pv := fieldOf hdr 0 2
  need (pv / 256 == ver / 256 && decide (pv % 256 ≤ ver % 256))
  let ops := fieldOf hdr 2 2
  let nd := fieldOf hdr 4 2
  let nm := fieldOf hdr 6 1
  need (decide (1 ≤ ops) && decide (ops ≤ 16384) && decide (nd ≤ 4095))
  let wo := fieldOf hdr 8 4
  let mo := fieldOf hdr 0x0C 4
  let do_ := fieldOf hdr 0x10 4
  let regions := [(0, 64), (wo, 16 * ops), (mo, 64 * nm), (do_, 64 * nd)]
  need (wo % 64 == 0 && mo % 64 == 0 && do_ % 64 == 0 && regions.all (fun r => decide (r.1 + r.2 ≤ img.length)) && allApart regions)
  let words := sliceBytes img wo (16 * ops)
  let maps := sliceBytes img mo (64 * nm)
  let descs := chunksOf (nd + 1) 64 (sliceBytes img do_ (64 * nd))
  if crc32c (words ++ maps) ≠ fieldOf hdr 0x14 4 then return none
  if descs.any (fun d => crc32c (d.take 60) != fieldOf d 0x3C 4) then return none
  return some { words := chunksOf (ops + 1) 16 words, maps := chunksOf (nm + 1) 64 maps, descs }

/-- The word that a single tile-op command stands for (04 R153). -/
def singleWord (pkt : List Byte) : List Byte :=
  let slot (b : Nat) : Nat := if b = 0xFF then 0xFFF else b
  let f (o : Nat) : Nat := slot (fieldOf pkt o 1)
  bytesOfNat 16 (fieldOf pkt 0 2 + bits (fieldOf pkt 2 2) 7 0 * 2 ^ 16 + f 0x29 * 2 ^ 40 + f 0x2A * 2 ^ 60 + f 0x2B * 2 ^ 80
    + (fieldOf pkt 0x2C 4 % 2 ^ 28) * 2 ^ 100)

/-- The rules of a program's words, maps and descriptors (04 R134). An unknown opcode of a word is found after them. -/
def programOk (segs : List Seg) (g : Image) (instances : Nat) : Except AccFail (List WordAt) := do
  need (g.descs.all (fun d => (Dsc.parse d).ok g.descs))
  need (g.maps.all (fun m => (OffMap.parse m).ok))
  let known := g.words.filter (fun w => isTileOp (wordOp w) || isProgWord (wordOp w))
  need (g.words.all (fun w => bits (natOfBytes w) 31 26 == 0))
  need (g.words.all (fun w => isTileOp (wordOp w) || isProgWord (wordOp w) || (opKind (wordOp w)).isNone))
  match placeWords g.descs known [] none none with
  | none => .error (.fail sBadPacket 0 none)
  | some ws => do
    need (ws.all (fun x => wordOk segs x g.descs g.maps.length g))
    need (((ws.flatMap (fun x => wordUsesOf x g.descs g instances)).filter (fun u => u.1)).all (fun u => u.2.inLs))
    needs (known.length == g.words.length) sBadOpcode 0
    return ws

/-! ### Parameters of the other operations (04 R131, R157; 11 R353) -/

/-- Bytes of the BODY from `o` to its end are zero. -/
def bodyZero (pkt : List Byte) (o : Nat) : Bool := fieldOf pkt o (0x3C - o) == 0

/-- SILL_BYTES of the block that acceptance checks against: the package's, or its gang's (02 R83; 09 R303). -/
def quotaLimit (s : State) (c : Ctx) : Nat := if c.desc.kind = 4 then fieldOf (s.gangCap c.desc.index) 0x30 8 else s.capOwn.sill

/-- Features of the block that acceptance checks against (02 R83). -/
def scopeFeat (s : State) (c : Ctx) : Nat := if c.desc.kind = 4 then fieldOf (s.gangCap c.desc.index) 0x44 4 else s.variant.feat

/-- Parameters of the operations with no data of their own to read (04 R157; 15 R476; 11 R353). -/
def paramOk (s : State) (c : Ctx) (k : OpKind) (pkt : List Byte) : Bool :=
  let f := fieldOf pkt
  let fl := bits (f 2 2) 7 0
  let count := f 0x28 1
  match k with
  | .nop | .timeMark => fl == 0 && bodyZero pkt 0x20
  | .tokenSet => fl == 0 && decide (f 0x20 2 ≤ 255) && f 0x22 2 == 0 && bodyZero pkt 0x28
  | .selftest => fl == 0 && decide (f 0x20 1 ≤ 1) && f 0x21 3 == 0 && decide (f 0x24 4 < 2 ^ 11) && bodyZero pkt 0x28
  | .reset => fl == 0 && f 0x22 2 == 0 && bodyZero pkt 0x24 && scopeOk (f 0x20 2 % 8) (f 0x20 2 / 8)
  | .segSync => decide (fl ≤ 1) && bodyZero pkt 0x24 && f 0x20 4 == (c.gen + 1).toNat
  | .progRun =>
    fl == 0 && decide (f 0x20 8 < 2 ^ 52) && f 0x28 4 % 64 == 0 && decide (128 ≤ f 0x28 4) && decide (f 0x28 4 ≤ 2 ^ 20)
      && decide (1 ≤ f 0x2C 4) && decide (f 0x2C 4 ≤ 2 ^ 24) && bodyZero pkt 0x38
  | .allreduce | .reduceScatter =>
    decide (fl ≤ 1) && decide (f 0x29 1 ≤ 2) && decide (f 0x2A 2 ≤ 1023) && decide (1 ≤ f 0x2C 2) && decide (f 0x2C 2 ≤ 1024)
      && f 0x2E 2 == 0 && bodyZero pkt 0x38 && (f 0x29 1 != 2 || f 0x2C 2 == 1) && count == (if f 0x2C 2 = 1 then 2 else 3)
  | .allgather | .alltoall => fl == 0 && bodyZero pkt 0x29 && count == 2
  | .barrier => fl == 0 && bodyZero pkt 0x20
  | .layerSchedule => fl == 0 && bodyZero pkt 0x29
  | .quota =>
    fl == 0 && decide (f 0x20 2 < 1024) && f 0x22 6 == 0 && f 0x28 8 % 65536 == 0 && decide (f 0x28 8 ≤ quotaLimit s c) && bodyZero pkt 0x30
  | .pin | .unpin | .evict | .prefetch => fl == 0 && bodyZero pkt 0x29 && count == 1
  | .timeSource => fl == 0 && decide (f 0x20 1 ≤ 3) && bodyZero pkt 0x21
  | .pwrLimit =>
    let m := (s.gangMembers c.desc.index).length
    fl == 0 && f 0x25 3 == 0 && bodyZero pkt 0x28 && decide (1 ≤ f 0x24 1) && decide (f 0x24 1 ≤ 10) &&
      (match c.desc.kind with
       | 3 => decide (1200 ≤ f 0x20 4) && decide (f 0x20 4 ≤ s.maxW)
       | 4 => decide (1200 * m ≤ f 0x20 4) && decide (f 0x20 4 ≤ fieldOf (s.gangCap c.desc.index) 0x4C 4)
       | _ => false)
  | .pwrIdle =>
    fl == 0 && decide (f 0x20 1 ≤ 1) && f 0x21 1 == 0 && decide (1 ≤ f 0x22 2) && decide (f 0x22 2 ≤ 64) && bodyZero pkt 0x24
  | .attest => fl == 0 && count == 1 && f 0x29 7 == 0 && bodyZero pkt 0x38
  | .cert => fl == 0 && count == 1 && bodyZero pkt 0x29
  | .tile => !bit fl 7 && decide (f 0x2C 4 < 2 ^ 28) && bodyZero pkt 0x38
  | .progWord => false

/-- Whether an operation takes descriptor blocks (02 R38). -/
def OpKind.takesBlocks : OpKind → Bool
  | .allreduce | .reduceScatter | .allgather | .alltoall | .layerSchedule | .pin | .unpin | .evict | .prefetch | .attest
  | .cert | .tile => true
  | _ => false

/-- A region descriptor (09 R308). -/
structure Region9 where
  seg   : Nat
  off   : Nat
  bytes : Nat
  ok    : Bool
  deriving DecidableEq, Repr

/-- Read a region descriptor. -/
def Region9.parse (b : List Byte) : Region9 :=
  { seg := fieldOf b 0 1 % 16, off := fieldOf b 8 8, bytes := fieldOf b 0x10 8
    ok := decide (fieldOf b 0 1 < 16) && fieldOf b 1 7 == 0 && fieldOf b 0x18 36 == 0
      && decide (fieldOf b 8 8 < 2 ^ 48) && decide (fieldOf b 0x10 8 < 2 ^ 48) }

/-- Regions of a command's blocks. -/
def regionsOf (descs : List (List Byte)) : List Region9 := descs.map Region9.parse

/-- The entry of a segment names another package (03 R87; 09 R308). -/
def State.farSeg (s : State) (g : Seg) : Bool :=
  match regionOf g.base with
  | .remote pkg _ => !s.isSelf pkg
  | _ => false

/-- The segment lies in the memory of a package that has left its gang (12 R400). -/
def State.leftSeg (s : State) (g : Seg) : Bool :=
  match regionOf g.base with
  | .remote pkg _ => s.gang.left.contains pkg
  | _ => false

/-- A HOME segment that the device cannot place: one in another package's memory while this one has no fabric address, or in that of a
package that has left its gang (00 R9; 12 R393, R400). -/
def State.absentSeg (s : State) (g : Seg) : Bool := g.type == 0 && ((bit g.base 55 && s.gang.addr.isNone) || s.leftSeg g)

/-- The use of a region; a region of no bytes touches none (09 R308, R311). -/
def Region9.use (r : Region9) (p : Perm) : Use := ⟨r.seg, r.off, r.off + r.bytes - 1, p⟩

/-- Rules of a tier command's regions (09 R308, R311). -/
def tierRegionsOk (s : State) (c : Ctx) (k : OpKind) (rs : List Region9) : Bool :=
  let one (r : Region9) : Bool :=
    let g := c.seg r.seg
    r.ok && (decide (1 ≤ r.bytes) || (k == .layerSchedule && rs.length == 1)) &&
    (!g.valid || (g.type == 0 && !s.farSeg g) || (g.type == 1 && (k == .pin || k == .unpin)))
  rs.all one

/-- Bytes of the output of SEC_ATTEST or SEC_CERT (15 R462, R463): each further member of a gang starts at the next
2,048-byte boundary. -/
def secBytes (s : State) (c : Ctx) (k : OpKind) : Nat :=
  let one := if k = .attest then 448 else s.flash.cert.length
  if c.desc.kind = 4 then ((s.gangMembers c.desc.index).length - 1) * 2048 + one else one

/-- Rules of an output region of the security operations (15 R463). -/
def secRegionOk (s : State) (c : Ctx) (k : OpKind) (r : Region9) : Bool :=
  let g := c.seg r.seg
  r.ok && decide (secBytes s c k ≤ r.bytes) && (!g.valid || g.permW)

/-- Formats of the reductions' and copies' operands (11 R357). -/
def redFmtOk (k : OpKind) (op : Nat) (i o : Od) : Bool :=
  match k with
  | .allreduce | .reduceScatter =>
    if op = 0 then (i.fmt.isNumber || i.isAttar) && (o.fmt.isTarget && !o.isMx || o.isAttar)
    else if op = 1 then (i.fmt.isNumber || i.isAttar) && o.fmt.isTarget && !o.isMx
    else i.fmt.isNumber && o.fmt.isTarget && !o.isMx
  | _ => !i.isMx && i.code != 0x10 && i.code != 0x11 && i.code == o.code

/-- Shapes of the reductions' operands (11 R353 to R356); `gang` says that the context names a gang. -/
def redShapesOk (c : Ctx) (k : OpKind) (gang : Bool) (op period : Nat) (ds : List Od) : Bool :=
  match ds with
  | i :: o :: rest =>
    let p := i.e1
    let e := i.e0
    let flat (d : Od) : Bool := d.ok && d.layout == 0 && !d.ls && d.rank == 2
    let segOk (d : Od) : Bool :=
      let g := c.seg d.seg
      !g.valid || (if gang then g.type == 0 else g.type == 0 || g.type == 1)
    flat i && flat o && o.e1 == p && (gang || decide (p ≤ 4096)) && (ds.all segOk) &&
    (!gang || (i.s1 == 0 && o.s1 == 0)) &&
    redFmtOk k op i o &&
    (match k with
     | .allreduce => o.e0 == e
     | .reduceScatter => e % p == 0 && o.e0 == e / p
     | .allgather => o.e0 == p * e
     | _ => o.e0 == e && e % p == 0) &&
    (match rest with
     | [] => decide (period ≤ 1)
     | [a] =>
       a.ok && a.layout == 0 && !a.ls && a.rank == 3 && a.isAttar && a.e0 == e && a.e1 == 2 && a.e2 == p && (!gang || a.s2 == 0)
     | _ => false) &&
    (match (ds.filter Od.isAttar).map (fun d => d.anchor) with | [] => true | x :: t => t.all (fun y => y == x))
  | _ => false

/-- Uses of the reductions' operands: the accumulator is read and written. -/
def redUses (ds : List Od) : List Use :=
  ds.zipIdx.flatMap (fun d =>
    let u (p : Perm) : Use := ⟨d.1.seg, d.1.off + d.1.span.1, d.1.off + d.1.span.2, p⟩
    if d.2 = 0 then [u .r] else if d.2 = 1 then [u .w] else [u .r, u .w])

/-! ### Steps 4 to 7 -/

/-- Direct pages that a use touches through a SILL segment. -/
def Use.directPages (segs : List Seg) (u : Use) : List Nat :=
  let g := segs.getD u.seg {}
  if g.type = 1 ∧ u.lo ≤ u.hi then
    let a := g.base + u.lo.toNat
    let b := g.base + u.hi.toNat
    (upTo (directPageOf b - directPageOf a + 1)).map (fun i => directPageOf a + i)
  else []

/-- A direct page is claimed by a context under TIER_PIN and not releasing (09 R293, R295; 03 R100). -/
def State.claimedOk (s : State) (p : Nat) : Bool :=
  match s.directPage p with
  | some d => !d.releasing && (match d.claim with | .ctx _ => true | .mirror _ => false)
  | none => false

/-- Home tier pages that a region touches. -/
def homePages (s : State) (g : Seg) (r : Region9) : List Nat :=
  if r.bytes = 0 then [] else
  let a := s.localAddr (g.base + r.off)
  (upTo ((a + r.bytes - 1) / 65536 - a / 65536 + 1)).map (fun i => a / 65536 + i)

/-- Pages that accepted, unfinished TIER_PIN commands are to pin or claim, with their contexts: what acceptance has
reserved (09 R305). -/
def State.reserved (s : State) (home : Bool) : List (Nat × Nat) :=
  (s.ctxs.flatMap (fun c => (c.2.entries.filter (fun e => e.opcode == 0x1C03 && !e.isFinished)).flatMap (fun e =>
    let r := Region9.parse (e.descs.headD [])
    let g := e.segs.getD r.seg {}
    if (g.type == 0) == home then
      (if home then homePages s g r else (r.use .none).directPages e.segs).map (fun p => (c.1, p))
    else []))).eraseDups

/-- Slots of sill `k` that pinned pages and the given pages hold. -/
def State.pinnedSlots (s : State) (k : Nat) (fresh : List Nat) : Nat :=
  let pinned := (s.pages.filter (fun e => e.2.pin.isSome)).map (fun e => e.1)
  ((pinned ++ fresh.filter (fun p => !pinned.contains p)).flatMap (fun p => (upTo 16).filter (fun b => s.sillOfBlock p b == k))).length

/-- Direct pages not claimed yet among the given ones, that lie in sill `k`. -/
def State.newClaims (s : State) (k : Nat) (fresh : List Nat) : Nat :=
  (fresh.filter (fun p => sillOfDirect p == k && (s.directPage p).isNone)).length

/-- Step 7 for TIER_PIN (09 R291, R292, R295, R305): the context's pins and claims fit its quota, and every sill has the
frames for its pinned slots and claimed frames. -/
def pinFits (s : State) (n : Nat) (home : Bool) (pages : List Nat) : Bool :=
  let mine (p : Nat) : Bool := match s.directPage p with
    | some d => (d.claim == .ctx n && !d.releasing) || d.next == some n
    | none => false
  let mirror (p : Nat) : Bool := match s.directPage p with
    | some d => (match d.claim with | .mirror _ => !d.releasing | .ctx _ => false)
    | none => false
  let blocked (p : Nat) : Bool :=
    (s.reserved false).any (fun e => e.2 == p && e.1 != n) ||
    (match s.directPage p with
     | some d => (match d.claim with
        | .mirror _ => d.next.isSome && d.next != some n
        | .ctx m => (!d.releasing && m != n) || (d.next.isSome && d.next != some n))
     | none => false)
  let allHome := (s.reserved true ++ (if home then pages.map (fun p => (n, p)) else [])).eraseDups
  let allDirect := (s.reserved false ++ (if home then [] else pages.map (fun p => (n, p)))).eraseDups
  let newHome := allHome.filter (fun e => (s.page e.2).pin.isNone)
  let newDirect := allDirect.filter (fun e => !mirror e.2 && (e.1 != n || !mine e.2))
  let own (l : List (Nat × Nat)) : Nat := (l.filter (fun e => e.1 == n)).length
  let hp := (newHome.map (fun e => e.2)).eraseDups
  let dp := (newDirect.map (fun e => e.2)).eraseDups
  (home || !pages.any blocked) && decide (s.tierPins n + own newHome + own newDirect ≤ (s.ctx n).quota) &&
  (upTo 8).all (fun k =>
    (s.pinnedSlots k hp == 0 && s.newClaims k dp == 0) ||
    decide (s.pinnedSlots k hp + 16 * ((s.claimedFrames k).length + s.newClaims k dp) ≤ 16 * s.framesOf k))

/-- The checks of steps 3 to 7 for a command whose uses are known (03 R109). `feat` are features its tiles must report,
`runs` says that it needs a core of its scope, `far` that it needs the fabric. -/
def laterSteps (s : State) (n : Nat) (k : OpKind) (ring segGen : Nat) (us : List Use) (feat : Nat) (runs absent : Bool)
    (fits : Bool) (fitSeg : Nat) : Except AccFail Unit := do
  let c := s.ctx n
  needs (segGen == c.gen.toNat) sStaleGen 0
  forUses us (Use.inSeg c.segs) sSegBound
  forUses us (Use.permitted c.segs) sSegPerm
  needs (k != .segSync || ring == c.desc.segRing) sSegPerm 0
  needs (!k.privileged || bit (Table.get 0 s.privs (n / 64)) (n % 64)) sSegPerm 0xFFFF
  needs (!us.any (fun u => s.absentSeg (c.seg u.seg))) sAbsent 0
  needs (!absent) sAbsent 0
  needs (!runs || featsOk s c feat) sAbsent 0
  (if k == .pin || k == .unpin then .ok () else forUses us (fun u => (u.directPages c.segs).all s.claimedOk) sQuota)
  needs fits sQuota fitSeg

/-! ### Shard maps (08 R255, R257) -/

/-- The sharded tables among descriptors, by descriptor index. -/
def shardedOf (ds : List (List Byte)) : List (Nat × Tb) :=
  ds.zipIdx.filterMap (fun e => match Dsc.parse e.1 with
    | .tb t => if t.shards = 0 then none else some (e.2, t)
    | _ => none)

/-- Read the shard maps not read yet (04 R132; 08 R255): one that the device cannot place is absent (00 R9; log 94). -/
def readMaps (s : State) (c : Ctx) (kept : List (List Byte)) (last : Bool) :
    List (Nat × Tb) → Table (List Nat) → Except AccFail (Table (List Nat))
  | [], got => .ok got
  | (i, t) :: rest, got =>
    if s.absentSeg (c.seg t.mapSeg) then .error (.fail sAbsent 0 none)
    else if (Table.get [] got i).isEmpty then
      let a := (c.seg t.mapSeg).base + t.mapOff
      match s.readMem a (2 * t.shards) with
      | .error e =>
        if last then .error (.fail sBadPacket 0 (some (t.mapSeg, e.kind, a))) else .error (.reread .shardMap kept got)
      | .ok bs =>
        let es := (upTo t.shards).map (fun k => fieldOf bs (2 * k) 2)
        if es.any (fun e => decide (0x8000 ≤ e)) then .error (.fail sBadPacket 0 none)
        else readMaps s c kept last rest (Table.put [] got i es)
    else readMaps s c kept last rest got

/-- A command with sharded tables needs this package's address, gang features for entries elsewhere (08 R257), and no package that
has left its gang (12 R400). -/
def shardAbsent (s : State) (c : Ctx) (got : Table (List Nat)) : Bool :=
  !got.isEmpty && (s.gang.addr.isNone || got.any (fun e => e.2.any s.gang.left.contains) ||
    (got.any (fun e => e.2.any (fun a => s.gang.addr != some a)) && !featsOk s c (2 ^ 4)))

/-- Tables and words: a map is read once its operand passes steps 3 to 5; then steps 3 to 7 of every operand (03 R109). -/
def programSteps (s : State) (n : Nat) (k : OpKind) (ring segGen : Nat) (g : Image) (ws : List WordAt) (instances : Nat)
    (extra : List Use) (kept : List (List Byte)) (maps : Table (List Nat)) (last : Bool) :
    Except AccFail (Table (List Nat) × List Use) := do
  let c := s.ctx n
  let named := ws.flatMap (fun x => ((upTo 3).filter (wordUses x.w)).map (wordDesc x.w))
  let sh := (shardedOf g.descs).filter (fun e => named.contains e.1)
  let mapUses := sh.map (fun e => (⟨e.2.mapSeg, e.2.mapOff, e.2.mapOff + (2 * e.2.shards : Nat) - 1, .r⟩ : Use))
  let readable := (sh.zip mapUses).filter (fun e => segGen == c.gen.toNat && e.2.inSeg c.segs && e.2.permitted c.segs)
  let got ← readMaps s c kept last (readable.map (fun e => e.1)) maps
  let us := extra ++ mapUses ++
    ((ws.flatMap (fun x => wordUsesOf x g.descs g instances)).filter (fun u => !u.1)).map (fun u => u.2)
  let feat := ws.foldl (fun f x => f ||| wordFeat x g.descs) 0
  laterSteps s n k ring segGen us feat true (shardAbsent s c got) true 0
  return (got, us)

/-! ### The whole of acceptance -/

/-- What acceptance gives a command that passes. -/
structure Accepted where
  image  : Image := {}
  shards : Table (List Nat) := []
  descs  : List (List Byte) := []
  uses   : List Use := []

/-- Rules of the packet that every operation shares (02 R34, R38, R61). -/
def packetOk (s : State) (n : Nat) (pkt : List Byte) : Bool :=
  let f := fieldOf pkt
  let ctrl := f 0x0A 2
  f 8 2 == n && decide (f 2 2 < 2 ^ 10) && decide (ctrl < 2 ^ 8) &&
  (!bit ctrl 6 || decide (f 0x10 2 ≤ 255)) && (!bit ctrl 7 || decide (f 0x12 2 ≤ 255)) &&
  (!bit ctrl 4 || (f 0x18 8 % 64 == 0 && decide (f 0x18 8 ≤ s.now + 60000000000))) &&
  (!bit ctrl 5 || (decide (1 ≤ f 0x28 1) && f 0x20 8 % 64 == 0 && decide (f 0x20 8 < 2 ^ 56)))

/-- The address of descriptor block `i` of a packet (02 R34). -/
def blockAddr (pkt : List Byte) (i : Nat) : Nat := fieldOf pkt 0x20 8 + 64 * i

/-- Read one descriptor block: a block that cannot be read, or whose CRC fails, gives no bytes (02 R36). -/
def readBlock (s : State) (a : Nat) : List Byte :=
  match s.readMem a 64 with
  | .error _ => []
  | .ok d => if crc32c (d.take 60) == fieldOf d 0x3C 4 then d else []

/-- Descriptor blocks not read yet (02 R36). -/
def blocksLeft (pkt : List Byte) (kept : List (List Byte)) : List Nat :=
  (upTo (fieldOf pkt 0x28 1)).filter (fun i => (kept.getD i []).isEmpty)

/-- Read the descriptor blocks of a packet that have not been read yet (02 R36). -/
def readBlocks (s : State) (pkt : List Byte) (kept : List (List Byte)) : List (List Byte) :=
  (upTo (fieldOf pkt 0x28 1)).map (fun i =>
    let d := kept.getD i []
    if d.isEmpty then readBlock s (blockAddr pkt i) else d)

/-- Acceptance comes to read the packet's descriptor blocks (02 R36; 03 R109 step 1). -/
def readsBlocks (s : State) (n : Nat) (pkt : List Byte) : Bool :=
  packetOk s n pkt && bit (fieldOf pkt 0x0A 2) 5 && (match opKind (fieldOf pkt 0 2) with
    | some k => k.takesBlocks && paramOk s (s.ctx n) k pkt
    | none => true)

/-- The place of the image of a PROG_RUN, where its operand passes steps 3 to 5 (03 R109; 04 R132). -/
def imageAt (s : State) (n : Nat) (pkt : List Byte) : Option (Nat × Nat) :=
  let c := s.ctx n
  let seg := fieldOf pkt 0x26 1 % 16
  let off := fieldOf pkt 0x20 6
  let len := fieldOf pkt 0x28 4
  let u : Use := ⟨seg, off, off + len - 1, .r⟩
  if fieldOf pkt 0 2 = 0x2001 ∧ packetOk s n pkt = true ∧ paramOk s c .progRun pkt = true ∧ fieldOf pkt 0x0C 4 = c.gen.toNat ∧
      u.inSeg c.segs = true ∧ u.permitted c.segs = true ∧ s.absentSeg (c.seg seg) = false then some ((c.seg seg).base + off, len) else none

/-- The reads that acceptance makes of descriptor blocks and of an image: the memory that holds them counts them, and uncorrectable data
met in them, as any read (02 R36). -/
def noteAccept (s : State) (n : Nat) (pkt : List Byte) (kept : List (List Byte)) : State :=
  let s := if readsBlocks s n pkt then
      (blocksLeft pkt kept).foldl (fun s i => s.noteRead .steward (blockAddr pkt i) 64) s
    else s
  match imageAt s n pkt with
  | some (a, len) => if kept.isEmpty then s.noteRead .steward a len else s
  | none => s

/-- Acceptance of a packet of ring `ring` of context `n` (03 R109). `kept` holds the descriptor blocks or the image
already read, `maps` the shard maps; `last` says of each kind of data that no further re-read is left. An image or a shard map in a
segment that the device cannot place is not read, and the command ends with S_ABSENT (00 R9; log 94). -/
def accept (s : State) (n ring : Nat) (pkt : List Byte) (kept : List (List Byte)) (maps : Table (List Nat))
    (last : Reread → Bool) : Except AccFail Accepted := do
  let c := s.ctx n
  let op := fieldOf pkt 0 2
  let segGen := fieldOf pkt 0x0C 4
  let hasDesc := bit (fieldOf pkt 0x0A 2) 5
  need (packetOk s n pkt)
  let kind := opKind op
  -- rules that depend on the operation apply only when the opcode is known
  match kind with
  | some k => do
    need (hasDesc == k.takesBlocks)
    need (paramOk s c k pkt)
  | none => pure ()
  let descs ← (if hasDesc then
      let ds := readBlocks s pkt kept
      if ds.all (fun d => !d.isEmpty) then .ok ds
      else if last .desc then .error (.fail sBadPacket 0 none) else .error (.reread .desc ds [])
    else .ok [])
  match kind with
  | none => .error (.fail sBadOpcode 0 none)
  | some k =>
    match k with
    | .progRun => do
      let seg := fieldOf pkt 0x26 1 % 16
      let off := fieldOf pkt 0x20 6
      let len := fieldOf pkt 0x28 4
      let u : Use := ⟨seg, off, off + len - 1, .r⟩
      needs (segGen == c.gen.toNat) sStaleGen 0
      forUses [u] (Use.inSeg c.segs) sSegBound
      forUses [u] (Use.permitted c.segs) sSegPerm
      needs (!s.absentSeg (c.seg seg)) sAbsent 0
      let a := (c.seg seg).base + off
      let img ← (match kept with
        | b :: _ => .ok b
        | [] => match s.readMem a len with
          | .ok b => .ok b
          | .error e =>
            if last .image then .error (.fail sBadPacket 0 (some (seg, e.kind, a))) else .error (.reread .image [] []))
      match ← readImage c.desc.ver img with
      | none => if last .image then .error (.fail sBadPacket 0 none) else .error (.reread .image [] [])
      | some g => do
        let inst := fieldOf pkt 0x2C 4
        let ws ← programOk c.segs g inst
        let r ← programSteps s n k ring segGen g ws inst [u] [img] maps (last .shardMap)
        return { image := g, shards := r.1, uses := r.2 }
    | .tile => do
      let g : Image := { words := [singleWord pkt], descs }
      let ws ← programOk c.segs g 1
      let r ← programSteps s n k ring segGen g ws 1 [] descs maps (last .shardMap)
      return { image := g, shards := r.1, descs, uses := r.2 }
    | .allreduce | .reduceScatter | .allgather | .alltoall => do
      let gang := c.desc.kind == 4
      let rop := fieldOf pkt 0x29 1
      let ds := descs.map Od.parse
      need (redShapesOk c k gang rop (fieldOf pkt 0x2C 2) ds)
      let us := redUses ds
      let p := (ds.headD (Od.parse [])).e1
      laterSteps s n k ring segGen us (if gang then 2 ^ 8 else 0) true
        (gang && p != (s.gangMembers c.desc.index).length) true 0
      return { descs, uses := us }
    | .layerSchedule | .pin | .unpin | .evict | .prefetch => do
      let rs := regionsOf descs
      need (tierRegionsOk s c k rs)
      let us := rs.map (fun r => r.use .none)
      let fits := match k, rs with
        | .pin, r :: _ =>
          if (c.seg r.seg).type = 0 then pinFits s n true (homePages s (c.seg r.seg) r)
          else pinFits s n false ((r.use .none).directPages c.segs)
        | _, _ => true
      laterSteps s n k ring segGen us 0 false false fits ((rs.headD (Region9.parse [])).seg)
      return { descs, uses := us }
    | .attest | .cert => do
      let r := (regionsOf descs).headD (Region9.parse [])
      need (secRegionOk s c k r)
      laterSteps s n k ring segGen [r.use .none] 0 false false true 0
      return { descs, uses := [r.use .none] }
    | .reset => do
      let sc := fieldOf pkt 0x20 2
      laterSteps s n k ring segGen [] 0 false (!s.scopeUp (sc % 8) (sc / 8)) true 0
      return {}
    | .timeSource => do
      laterSteps s n k ring segGen [] 0 false (fieldOf pkt 0x20 1 == 1 && !bit (scopeFeat s c) 9) true 0
      return {}
    | .barrier => do
      let gang := c.desc.kind == 4
      laterSteps s n k ring segGen [] 0 false (gang && (s.gangMembers c.desc.index).isEmpty) true 0
      return {}
    | .selftest | .pwrIdle => do
      laterSteps s n k ring segGen [] 0 false (!s.scopeUp c.desc.kind c.desc.index) true 0
      return {}
    | _ => do
      laterSteps s n k ring segGen [] 0 false false true 0
      return {}

end Sys2Proof.Machine
end

