-- ==== Sys2Proof/Machine/Transport.lean ====
section
/-! DEFINITION. The command transport (chapter 02) and segment synchronisation (03 R98 to R107): contexts, doorbells,
fetching, dispatch, waiting and completion. -/

namespace Sys2Proof.Machine

/-! ### Contexts (02 R28 to R32) -/

/-- SYS_CTX_STAT after a SYS_CTX_CMD write. -/
def ctxStatOf (ctx op result : Nat) (busy : Bool) : Nat := ctx + op * 2 ^ 16 + result * 2 ^ 20 + flagAt busy 31

/-- Write SYS_CTX_STAT. -/
def setCtxStat (ctx op result : Nat) (busy : Bool) (s : State) : State := { s with ctxStat := ctxStatOf ctx op result busy }

/-- SYS_CTX_CMD does nothing: the operation runs already, or the start has not reached READY or the vestibule (02 R28;
15 R471). -/
def ctxCmdIgnored (s : State) : Bool := bit s.ctxStat 31 || !(s.start.phase == .ready || s.start.phase == .vestibule)

/-- The fields of a context descriptor (02 R31; 03 R98; 07 R248). -/
def CtxDesc.parse (b : List Byte) : CtxDesc :=
  { ver := fieldOf b 0 2, kind := fieldOf b 2 2 % 8, index := fieldOf b 2 2 / 8, cqLog2 := fieldOf b 4 1, cqBase := fieldOf b 8 8
    waitMs := fieldOf b 0x10 4, msiAddr := fieldOf b 0x18 8, msiData := fieldOf b 0x20 4, evtData := fieldOf b 0x24 4
    segHost := fieldOf b 0x40 8, segMirror := fieldOf b 0x48 8, segFault := fieldOf b 0x50 8, segGen0 := fieldOf b 0x58 4
    segRing := fieldOf b 0x5C 1, preemptEvt := bit (fieldOf b 0x80 1) 0 }

/-- Ring `r` of a descriptor, empty. -/
def ringOf (b : List Byte) (r : Nat) : Ring :=
  { en := bit (fieldOf b (0x109 + 32 * r) 1) 0, base := fieldOf b (0x100 + 32 * r) 8, log2 := fieldOf b (0x108 + 32 * r) 1 }

/-- Reserved bytes and bits of a descriptor are zero (02 R31, R32). -/
def descReservedOk (b : List Byte) : Bool :=
  let z (o n : Nat) : Bool := fieldOf b o n == 0
  z 0x005 3 && z 0x014 4 && z 0x028 24 && z 0x05D 35 && z 0x081 127 && z 0x300 256 && decide (fieldOf b 0x80 1 ≤ 1) &&
  (upTo 16).all (fun r => decide (fieldOf b (0x109 + 32 * r) 1 ≤ 1) && z (0x10A + 32 * r) 22)

/-- `n` bytes that the device can read and write for a context: backed, and a direct page among them claimed, or to hold the context's
mirror (02 R32). -/
def State.usableBy (s : State) (d : CtxDesc) (a n : Nat) : Bool :=
  s.backed a n && (match regionOf a with
    | .direct o => (upTo ((o + n - 1) / 65536 - o / 65536 + 1)).all (fun i =>
        (s.directPage (o / 65536 + i)).any (fun g => !g.releasing) || o / 65536 + i == directPageOf d.segMirror)
    | _ => true)

/-- The fault-record area lies in home memory, a claimed direct page or the mirror page (02 R32). -/
def faultAreaOk (s : State) (d : CtxDesc) : Bool :=
  match regionOf d.segFault with
  | .home _ => s.backed d.segFault 512
  | .direct _ => directPageOf d.segFault == directPageOf d.segMirror || s.usableBy d d.segFault 512
  | _ => false

/-- The fields of R32 at its place 5: everything but version, scope in service and the mirror claim. -/
def descOk (s : State) (b : List Byte) : Bool :=
  let d := CtxDesc.parse b
  let ringOk (r : Ring) : Bool :=
    !r.en || (decide (6 ≤ r.log2) && decide (r.log2 ≤ 16) && r.base % 4096 == 0 && s.usableBy d r.base (64 * 2 ^ r.log2))
  let mirror : Bool := match regionOf d.segMirror with
    | .direct _ => true
    | _ => false
  descReservedOk b && scopeOk d.kind d.index && decide (9 ≤ d.cqLog2) && decide (d.cqLog2 ≤ 16) && d.cqBase % 4096 == 0 &&
  s.usableBy d d.cqBase (32 * 2 ^ d.cqLog2) && decide (d.waitMs ≤ 60000) && d.segHost % 512 == 0 && d.segMirror % 512 == 0 &&
  d.segFault % 512 == 0 && mirror && faultAreaOk s d && decide (d.segRing < 16) && (ringOf b d.segRing).en &&
  (upTo 16).all (fun r => ringOk (ringOf b r))

/-- Claim or join the mirror page of a context (03 R100). A page that a context claimed under TIER_PIN counts as claimed until its
release ends (log 95). -/
def claimMirror (n : Nat) (d : CtxDesc) (s : State) : Option State :=
  let p := directPageOf d.segMirror
  match s.directPage p with
  | none => s.claimFrame p (.mirror [n])
  | some g => match g.claim with
    | .mirror us => some (s.setDirect p (some { g with claim := .mirror (insertNat n us) }))
    | .ctx _ => none

/-- RESULT of an ENABLE that stops before the mirror claim, in the order of 02 R32; none where it goes on. -/
def enableResult (s : State) (n : Nat) : Option Nat :=
  let c := s.ctx n
  if c.phase != .disabled then some 4
  else if c.inflight ≠ 0 then some 1
  else if !bit s.ctxTable 0 then some 3
  else match s.readMem (bits s.ctxTable 55 20 * 2 ^ 20 + 1024 * n) 1024 with
    | .error _ => some 3
    | .ok b =>
      let d := CtxDesc.parse b
      if d.ver / 256 ≠ 1 ∨ d.ver % 256 ≠ 0 then some 2
      else if !descOk s b then some 3
      else if !s.scopeUp d.kind d.index then some 5
      else none

/-- A context as ENABLE leaves it (02 R29; 03 R99; 11 R365). -/
def enabledCtx (b : List Byte) (c : Ctx) : Ctx :=
  let d := CtxDesc.parse b
  { phase := .enabled, desc := d, rings := (upTo 16).map (ringOf b), gen := BitVec.ofNat 32 d.segGen0, quota := 0,
    entries := c.entries, held := c.held }

/-- Stewards of the tiles in service. -/
def State.stewards (s : State) : List Nat :=
  ((upTo 8).filter (fun t => (s.tile t).inService)).flatMap (fun t => (upTo tileStewards).map (fun i => tileStewards * t + i))

/-- A steward serves a context: the spec does not say which, so a free value chooses among those of the tiles in service; with none, it is
the chief steward (01 R22, R23; log 19). -/
def assignSteward (n : Nat) (s : State) : State :=
  let (v, s) := s.draw
  s.updCtx n (fun c => { c with steward := s.stewards[v % s.stewards.length]? })

/-- ENABLE (02 R29, R32). -/
def execEnable (n : Nat) (s : State) : Host.Outcome State Fault Refusal :=
  if ctxCmdIgnored s then .next s
  else if s.start.phase == .vestibule then .next (setCtxStat n 1 5 false s)
  else match enableResult s n with
    | some r => .next (setCtxStat n 1 r false s)
    | none =>
      let b := s.peek (bits s.ctxTable 55 20 * 2 ^ 20 + 1024 * n) 1024
      match claimMirror n (CtxDesc.parse b) s with
      | none => .next (setCtxStat n 1 3 false s)
      | some s =>
        -- records of rejected packets that an earlier enablement left waiting take the room of the new ring (log 96)
        .next (setCtxStat n 1 0 false (drainHeld n (s.ctx n).held.length (assignSteward n (s.updCtx n (enabledCtx b)))))

/-- DISABLE (02 R30): fetching stops, and BUSY holds until the last completion record is written. -/
def execDisable (n : Nat) (s : State) : Host.Outcome State Fault Refusal :=
  if ctxCmdIgnored s then .next s
  else if (s.ctx n).phase != .enabled then .next (setCtxStat n 2 4 false s)
  else .next (settleDisable n (setCtxStat n 2 0 true (s.updCtx n (fun c => { c with phase := .disabling }))))

/-- TERMINATE (02 R30). -/
def execTerminate (n : Nat) (s : State) : Host.Outcome State Fault Refusal :=
  if ctxCmdIgnored s then .next s
  else if (s.ctx n).phase == .disabled then .next (setCtxStat n 3 4 false s)
  else .next (terminateCtx n (setCtxStat n 3 0 false s))

/-! ### Doorbells (02 R43 to R45) -/

/-- A ring of a context. -/
def Ctx.ring (c : Ctx) (r : Nat) : Ring := c.rings.getD r {}

/-- Change a ring of a context. -/
def updRing (n r : Nat) (f : Ring → Ring) (s : State) : State :=
  s.updCtx n (fun c => { c with rings := setAt c.rings r (f (c.ring r)) })

/-- A doorbell write that takes effect records the tail and resumes a ring that AHEAD stopped (02 R44, R48). -/
def Ring.bell (tail : BitVec 32) (r : Ring) : Ring :=
  { r with tail, fetch := match r.fetch with
    | .ahead => .ready
    | f => f }

/-- A write to DB_TAIL (02 R43, R44). -/
def execDoorbell (n r width : Nat) (value : Word) (s : State) : Host.Outcome State Fault Refusal :=
  let c := s.ctx n
  let g := c.ring r
  let tail := value.setWidth 32
  if width < 4 ∨ c.phase != .enabled ∨ !g.en then .next s
  else if (tail - g.head).toNat > 2 ^ g.log2 then .next (raiseEvent n (evTailRange r) s)
  else .next (updRing n r (Ring.bell tail) s)

/-- Held records that a move of CQ_HEAD lets out: none where the head stays where it is (02 R67, R510). -/
def Ctx.freedBy (c : Ctx) (v : BitVec 32) : Nat := if v = c.cqHead then 0 else c.held.length

/-- A write to DB_CQ_HEAD (02 R45, R67). -/
def execDbCqHeadWrite (n : Nat) (value : Word) (s : State) : Host.Outcome State Fault Refusal :=
  let c := s.ctx n
  let v := value.setWidth 32
  if (v - c.cqHead).toNat ≤ (c.cqTail - c.cqHead).toNat then
    .next (drainHeld n (c.freedBy v) (s.updCtx n (fun c => { c with cqHead := v })))
  else .next (raiseEvent n evCqRange s)

/-- A write to DB_CQ_ARM: one message at once where the condition holds already (02 R39). -/
def execDbCqArmWrite (n : Nat) (value : Word) (s : State) : Host.Outcome State Fault Refusal :=
  let s := s.updCtx n (fun c => { c with cqArm := value.setWidth 32, armed := true })
  .next (completionMsg n false s)

/-! ### Fetching (02 R46 to R50) -/

/-- The window limits (02 R49). -/
def ctxWindow : Nat := 512
def packageWindow : Nat := 4096

/-- Every other member of the context's gang has a free window slot (02 R83). -/
def membersHaveRoom (s : State) (n : Nat) : Bool :=
  let d := (s.ctx n).desc
  d.kind != 4 || (s.gangMembers d.index).all (fun m => s.isSelf m || (s.peer m).room)

/-- The context, the package and the members of its gang have room for a command (02 R49, R83). -/
def hasRoom (s : State) (n : Nat) : Bool :=
  decide ((s.ctx n).inflight < ctxWindow) && decide (s.window < packageWindow) && membersHaveRoom s n

/-- A ring that the fetcher may serve. -/
def Ring.pending (r : Ring) : Bool := r.en && r.fetch == .ready && r.head != r.tail

/-- The next ring of a context in its turn (02 R46). -/
def Ctx.turn (c : Ctx) : Option Nat :=
  ((upTo 16).map (fun i => (c.nextRing + i) % 16)).find? (fun r => (c.ring r).pending)

/-- A context that the fetcher may serve (02 R46; 03 R102). -/
def Ctx.servable (c : Ctx) : Bool := c.phase == .enabled && !c.syncing && decide (c.inflight < ctxWindow) && c.turn.isSome

/-- Two scopes share a core. -/
def sharesCores (c d : CtxDesc) : Bool :=
  match c.kind, d.kind with
  | 1, 1 => c.index == d.index
  | 1, 2 => c.index / 64 == d.index
  | 2, 1 => c.index == d.index / 64
  | 2, 2 => c.index == d.index
  | _, _ => true

/-- An exclusive self-test that drains its scope stops acceptance in every context of the scope (15 R477). -/
def State.testStops (s : State) (n : Nat) : Bool :=
  match s.selftest with
  | some x => sharesCores (s.ctx n).desc (s.ctx x.cmd.ctx).desc
  | none => false

/-- The next context and ring in their turn (02 R46). -/
def State.turn (s : State) : Option (Nat × Nat) :=
  let live := (s.ctxs.filter (fun e => e.2.servable && !s.testStops e.1)).map (fun e => e.1)
  match (live.filter (fun n => decide (s.nextCtx ≤ n))) ++ live with
  | [] => none
  | n :: _ => (s.ctx n).turn.map (fun r => (n, r))

/-- An entry for a packet. -/
def entryOf (s : State) (n r : Nat) (pkt : List Byte) (a : Accepted) : Entry :=
  let c := s.ctx n
  let rel := !bit (fieldOf pkt 0x0A 2) 4 || decide (fieldOf pkt 0x18 8 ≤ s.now)
  { ring := r, seq := fieldOf pkt 4 4, pkt, descs := a.descs, image := a.image, shards := a.shards, segs := c.segs,
    accepted := s.now, order := s.accepted, released := rel, direct := (a.uses.flatMap (Use.directPages c.segs)).eraseDups,
    members := if c.desc.kind = 4 then s.gangMembers c.desc.index else [] }

/-- Count the holds of a command on its direct pages (09 R295). -/
def takeHolds (ps : List Nat) (s : State) : State :=
  ps.foldl (fun s p => match s.directPage p with
    | some d => s.setDirect p (some { d with holds := d.holds + 1 })
    | none => s) s

/-- The packet leaves its ring. -/
def consume (n r : Nat) (s : State) : State := updRing n r (fun g => { g with head := g.head + 1, fetch := .ready }) s

/-- Add an entry to its context. -/
def addEntry (n : Nat) (e : Entry) (s : State) : State :=
  { s.updCtx n (fun c => { c with entries := c.entries ++ [e] }) with accepted := s.accepted + 1 }

/-- Accept a valid packet, `tries` re-reads of `what` having been done (02 R46 to R50; 03 R102, R109). A command that fails acceptance
takes no window slot: HEAD passes its packet, and where the completion ring has no room its record waits with the held ones, not
counted in DB_INFLIGHT (log 96). -/
def acceptPacket (n r : Nat) (pkt : List Byte) (kept : List (List Byte)) (maps : Table (List Nat)) (what : Reread)
    (tries : Nat) (s : State) : State :=
  let found := accept s n r pkt kept maps (fun w => decide (w = what) && decide (8 ≤ tries))
  let s := noteAccept s n pkt kept
  match found with
  | .error (.reread w kept maps) =>
    updRing n r (fun g => { g with fetch := .reread w (if w = what then tries else 0) pkt kept maps }) s
  | .error (.fail st d fault) =>
    let s := consume n r s
    let e := { entryOf s n r pkt {} with windowed := false, phase := .finished ⟨st, d, 0, 0⟩, direct := [] }
    let s := match fault with
      | some (seg, kind, a) => faultRecord n r e.seq seg kind a s
      | none => s
    finishEntry ⟨n, r, e.seq⟩ (addEntry n e s)
  | .ok a =>
    if !hasRoom s n then updRing n r (fun g => { g with fetch := .ready }) s
    else
      let e := entryOf s n r pkt a
      -- TIER_PIN and TIER_UNPIN claim and release pages; every other command holds the direct pages of its operands
      let e := if e.opcode = 0x1C03 ∨ e.opcode = 0x1C04 then { e with direct := [] } else e
      let s := takeHolds e.direct (consume n r s)
      let s := addEntry n e s
      let s := if e.opcode = 0x0401 then s.updCtx n (fun c => { c with syncing := true }) else s
      refreshWaits n s

/-- A slot holds the packet of head count `h` (02 R47). -/
def slotValid (g : Ring) (pkt : List Byte) : Bool :=
  bit (fieldOf pkt 0x0A 2) 0 == decide (g.head.toNat / 2 ^ g.log2 % 2 = 0) && fieldOf pkt 4 4 == g.head.toNat &&
    crc32c (pkt.take 60) == fieldOf pkt 0x3C 4

/-- The slot of the next packet. -/
def slotAddr (g : Ring) : Nat := g.base + 64 * (g.head.toNat % 2 ^ g.log2)

/-- The event AHEAD (02 R48). -/
def doorbellAhead (n r : Nat) (s : State) : State :=
  let h := ((s.ctx n).ring r).head.toNat
  let s := updRing n r (fun g => { g with fetch := .ahead }) s
  fltPost 7 1 r n (slotAddr ((s.ctx n).ring r)) h 0 (raiseEvent n (evAhead r) s)

/-- Read the slot of the next packet, `tries` re-reads having been done (02 R47, R48). -/
def serveSlot (n r tries : Nat) (s : State) : State :=
  let g := (s.ctx n).ring r
  let invalid (s : State) : State :=
    if tries < 8 then updRing n r (fun g => { g with fetch := .slot tries }) s else doorbellAhead n r s
  let found := s.readMem (slotAddr g) 64
  let s := s.noteRead .steward (slotAddr g) 64
  match found with
  | .error .uncorrectable => invalid s
  | .error e => fltPost 7 2 r n (slotAddr g) g.head.toNat e.kind (terminateCtx n s)
  | .ok pkt => if slotValid g pkt then acceptPacket n r pkt [] [] .desc 0 s else invalid s

/-- PACKET_FETCH (02 R46 to R49). -/
def execPacketFetch (s : State) : Host.Outcome State Fault Refusal :=
  if packageWindow ≤ s.window then .next s
  else match s.turn with
    | none => .next s
    | some (n, r) =>
      let s := { s with nextCtx := n + 1 }
      .next (serveSlot n r 0 (s.updCtx n (fun c => { c with nextRing := (r + 1) % 16 })))

/-- A re-read may go on: the context is being served and the windows have room. -/
def mayReread (s : State) (n : Nat) : Bool :=
  (s.ctx n).phase == .enabled && !(s.ctx n).syncing && !s.testStops n && hasRoom s n

/-- SLOT_REREAD (02 R48). -/
def execSlotReread (n r : Nat) (s : State) : Host.Outcome State Fault Refusal :=
  match ((s.ctx n).ring r).fetch with
  | .slot t => if mayReread s n then .next (serveSlot n r (t + 1) s) else .next s
  | _ => .next s

/-- A re-read of one kind of data of a packet already read (02 R36; 04 R132). -/
def rereadData (n r : Nat) (kind : Reread) (s : State) : Host.Outcome State Fault Refusal :=
  match ((s.ctx n).ring r).fetch with
  | .reread w t pkt kept maps =>
    if w = kind ∧ mayReread s n = true then .next (acceptPacket n r pkt kept maps w (t + 1) s) else .next s
  | _ => .next s

/-- DESC_BLOCK_REREAD (02 R36). -/
def execDescBlockReread (n r : Nat) (s : State) : Host.Outcome State Fault Refusal := rereadData n r .desc s

/-- PROG_IMAGE_REREAD (04 R132). -/
def execProgImageReread (n r : Nat) (s : State) : Host.Outcome State Fault Refusal := rereadData n r .image s

/-- SHARD_MAP_REREAD (04 R132; 08 R255). -/
def execShardMapReread (n r : Nat) (s : State) : Host.Outcome State Fault Refusal := rereadData n r .shardMap s

/-! ### Waiting and dispatch (02 R52, R53, R58, R60; 06 R218; 07 R243 to R246) -/

/-- RELEASE_TIME: station time reaches the RELEASE of an accepted command (02 R60). -/
def execReleaseTime (id : CmdId) (s : State) : Host.Outcome State Fault Refusal :=
  match s.entry? id with
  | some e =>
    if e.phase == .waiting && !e.released then
      .next (refreshWaits id.ctx ((advanceTo e.release s).updEntry id (fun e => { e with released := true })))
    else .next s
  | none => .next s

/-- The wait limit of a context in ns. -/
def waitLimitNs (c : Ctx) : Nat := c.desc.waitMs * 1000000

/-- TOKEN_WAIT_TIMEOUT: the condition of a token wait has not held within CTX_WAIT_LIMIT_MS of acceptance (02 R58). -/
def execTokenWaitTimeout (id : CmdId) (s : State) : Host.Outcome State Fault Refusal :=
  let c := s.ctx id.ctx
  match s.entry? id with
  | some e =>
    if e.phase == .waiting && e.waitEn && e.waitDone.isNone && decide (c.desc.waitMs ≠ 0) then
      let s := advanceTo (e.accepted + waitLimitNs c) s
      .next (raiseEvent id.ctx evWaitLimit (finishWith id (.of sTimeout) s))
    else .next s
  | none => .next s

/-- A ready command `f` goes before the ready command `e` (02 R52): 1 ms of readiness orders by age, else PRIO does. -/
def goesBefore (now : Nat) (f e : Entry) : Bool :=
  match f.readyAt, e.readyAt with
  | some a, some b =>
    if a + 1000000 ≤ now ∧ a < b then true
    else if b + 1000000 ≤ now ∧ b < a then false
    else decide (e.prio < f.prio)
  | _, _ => false

/-- The units that a command runs on: the cores for tile work, and for collectives, which run on the vector units; for any other its
family's engine or steward (02 R52; 00 R9). -/
def Entry.unitClass (e : Entry) : Nat :=
  if e.isTileWork || e.isRed then 0 else 1 + e.opcode / 1024

/-- Another ready command competes for the same units and goes before this one (02 R52). -/
def outranked (s : State) (n : Nat) (e : Entry) : Bool :=
  s.ctxs.any (fun c => (e.unitClass != 0 || sharesCores c.2.desc (s.ctx n).desc) &&
    c.2.entries.any (fun f => f.unitClass == e.unitClass && f.phase == .waiting && goesBefore s.now f e))

/-- A reduction of the same tensor of the context is running, or has not completed (11 R368): one whose record waits for room counts as
completed. -/
def tensorBusy (c : Ctx) (e : Entry) : Bool :=
  e.reduces && c.entries.any (fun f =>
    f.reduces && f.redTensor == e.redTensor && (f.phase == .running || (f.isFinished && !c.held.contains (f.ring, f.seq))))

/-- COMMAND_DISPATCH (02 R52, R53): a gang reduction with a release time is LATE 64 ns after it (11 R376). -/
def execCommandDispatch (id : CmdId) (t c : Nat) (s : State) : Host.Outcome State Fault Refusal :=
  match s.entry? id with
  | some e =>
    let x := s.ctx id.ctx
    if e.phase == .waiting && e.readyAt.isSome && !outranked s id.ctx e && !tensorBusy x e then
      let red := decide (0x1801 ≤ e.opcode) && decide (e.opcode ≤ 0x1805) && x.desc.kind == 4
      let late := e.late || (red && e.relEn && decide (e.release + 64 ≤ s.now))
      .next (preemptFor id (t, c) (s.updEntry id (fun e => { e with phase := .running, late, startedAt := s.now })))
    else .next s
  | none => .next s

/-- COMMAND_FINISH (02 R66, R67). -/
def execCommandFinish (id : CmdId) (s : State) : Host.Outcome State Fault Refusal := .next (finishEntry id s)

/-! ### SYS_NOP and SYS_TOKEN_SET -/

/-- SYS_NOP executes nothing (02 R39). -/
def execSysNop (id : CmdId) (s : State) : Host.Outcome State Fault Refusal := runCmd id 0x0000 s (fun _ s => (s, .of sOk))

/-- A command accepted before `e` that is still to signal the token (02 R57, R59). -/
def stillSignals (c : Ctx) (e : Entry) (token : Nat) : Bool :=
  c.entries.any (fun f => decide (f.order < e.order) && f.sigEn && f.sigIdx == token &&
    (match f.phase with
     | .finished r => r.status != sDiscarded
     | _ => true))

/-- SYS_TOKEN_SET (02 R59). -/
def execSysTokenSet (id : CmdId) (s : State) : Host.Outcome State Fault Refusal :=
  match s.entry? id with
  | some e =>
    let token := fieldOf e.pkt 0x20 2
    if stillSignals (s.ctx id.ctx) e token then .next s
    else runCmd id 0x0002 s (fun e s =>
      (refreshWaits id.ctx (s.updCtx id.ctx (fun c => { c with
        tokens := Table.put {} c.tokens token { count := BitVec.ofNat 32 (fieldOf e.pkt 0x24 4), poison := false } })), .of sOk))
  | none => .next s

/-! ### SEG_SYNC (03 R101 to R104) -/

/-- Entry `i` of a segment table. -/
def segOf (b : List Byte) (i : Nat) : Seg :=
  ⟨fieldOf b (32 * i) 8, fieldOf b (32 * i + 8) 8, fieldOf b (32 * i + 16) 8, fieldOf b (32 * i + 24) 8⟩

/-- A valid entry is well formed (03 R96; 09 R296). One with the reserved TYPE 3 is not (log 97). -/
def Seg.wf (s : State) (g : Seg) : Bool :=
  let n := g.limit - g.base
  let zero := bits g.w0 20 12 == 0 && bits g.w0 63 56 == 0 && bits g.w1 20 0 == 0 && bits g.w1 63 56 == 0 && bits g.w2 63 2 == 0 && g.w3 == 0
  zero && decide (g.base < g.limit) && g.hint != 3 &&
  (match g.type with
   | 0 => g.hostPort == 0 && decide (g.policy ≤ 3) &&
     (match regionOf g.base with
      | .remote p off => (match regionOf (g.limit - 1) with
          | .remote q _ => p == q && decide (off + n ≤ 0x6000000000)
          | _ => false)
      | .home _ => s.backed g.base n
      | _ => false)
   | 1 => g.hostPort == 0 && g.policy == 0 && (match regionOf g.base with | .direct _ => s.backed g.base n | _ => false)
   | 2 => g.policy == 0 && !g.permA && (match regionOf g.base with | .aperture p _ => p == g.hostPort && s.backed g.base n | _ => false)
   | _ => false)

/-- The checks of SEG_SYNC on the two tables, in order (03 R103): the entries to install. -/
def checkTables (s : State) (c : Ctx) (addOnly : Bool) : Except CmdResult (List Seg × Nat) :=
  match s.readMem c.desc.segHost 512, s.readMem c.desc.segMirror 512 with
  | .ok h, .ok m =>
    if h ≠ m then .error (.of sBadPacket)
    else
      let segs := (upTo 16).map (segOf m)
      match segs.findIdx? (fun g => g.valid && !g.wf s) with
      | some i => .error ⟨sSegBound, i, 0, 0⟩
      | none =>
        if addOnly && (c.segs.zip segs).any (fun p => p.1.valid && p.1 != p.2) then .error (.of sBadPacket)
        else .ok (segs, crc32c m)
  | _, _ => .error (.of sBadPacket)

/-- The two tables as a SEG_SYNC reads them are counted by the memory that holds them; its record waits for their lines (log 60). -/
def noteTables (id : CmdId) (c : Ctx) (s : State) : State :=
  (s.noteRead (.command id 0) c.desc.segHost 512).noteRead (.command id 0) c.desc.segMirror 512

/-- SEG_SYNC (03 R102 to R104): without ADD_ONLY it waits until every other in-flight command has completed. -/
def execSegSync (id : CmdId) (s : State) : Host.Outcome State Fault Refusal :=
  match s.entry? id with
  | some e =>
    let c := s.ctx id.ctx
    let addOnly := bit e.flags 0
    let others := c.entries.filter (fun f => f.order != e.order && !(f.isFinished && c.held.contains (f.ring, f.seq)))
    if !addOnly && !others.isEmpty then .next s
    else runCmd id 0x0401 s (fun _ s =>
      match checkTables s c addOnly with
      | .error r => (noteTables id c s, r)
      | .ok (segs, crc) =>
        ((noteTables id c s).updCtx id.ctx (fun c => { c with
          segs, mirrorCrc := some crc, gen := BitVec.ofNat 32 (fieldOf e.pkt 0x20 4), replaced := some (c.segs, c.mirrorCrc, c.gen) }), .of sOk))
  | none => .next s

/-- Re-establish a context after a steward restart (03 R105): its tables are read again, and it is terminated when the
mirror is not the one recorded. A mirror that cannot be read is not the one recorded (log 98). -/
def reestablish (s : State) (n : Nat) : State :=
  let c := s.ctx n
  match c.phase, c.mirrorCrc with
  | .disabled, _ => s
  | _, none => s
  | _, some crc =>
    let same := match s.readMem c.desc.segMirror 512 with
      | .ok m => crc32c m == crc
      | .error _ => false
    if same then s else fltPost 7 3 noUnit n c.desc.segMirror 0 0 (terminateCtx n s)

/-- STEWARD_RESTART (03 R105). -/
def execStewardRestart (ns : List Nat) (s : State) : Host.Outcome State Fault Refusal := .next (ns.foldl reestablish s)

end Sys2Proof.Machine
end

