-- ==== Sys2Proof/Machine/Sequencer.lean ====
section
/-! DEFINITION. Runs on matrix cores: starting, issuing words, program tokens, completing ops and ending (04 R132 to R143;
06 R218 to R221; 07 R226 to R228, R243 to R247). -/

namespace Sys2Proof.Machine

/-! ### Failing (04 R136) -/

/-- Set a program token. -/
def Inst.setToken (i : Inst) (n v : Nat) : Inst := { i with tokens := setAt i.tokens n v }

/-- Change the oldest op of an engine. -/
def updOldest (eng : Engine) (f : OpRec → OpRec) : List OpRec → List OpRec
  | [] => []
  | o :: t => if o.eng == eng then f o :: t else o :: updOldest eng f t

/-- End the held ops of every run of a command. -/
def endHeldAll (id : CmdId) (words : List (List Byte)) (s : State) : State :=
  let f (i : Inst) : Inst := if i.of id then endHeld words i else i
  s.busyCores.foldl (fun s p => s.updCore p.1 p.2 (fun k => { k with run := k.run.map f, held := k.held.map f })) s

/-- A run of a command fails (04 R136). -/
def failCommand (id : CmdId) (inst status detail : Nat) (s : State) : State :=
  let words := match s.entry? id with
    | some e => e.image.words
    | none => []
  endHeldAll id words (failRun id inst status detail s)

/-! ### Starting and ending a run (04 R135, R137, R153; 07 R226, R228, R245, R246) -/

/-- A core may take a new run of a command of the given PRIO (07 R246). -/
def Core.takes (k : Core) (now prio : Nat) : Bool :=
  k.inService && k.run.isNone && k.state == .idle &&
    (k.held.isNone || (decide (6 ≤ prio) && decide (now < k.heldSince + 1000000)))

/-- Another ready command competes for the core and goes before `e` (02 R52): one not dispatched yet, or one with runs still to
start, that the core would take. -/
def coreRival (s : State) (t c : Nat) (e : Entry) : Bool :=
  s.ctxs.any (fun x => (s.scopeCores x.2.desc.kind x.2.desc.index).contains (t, c) &&
    x.2.entries.any (fun f => f.isTileWork && f.failure.isNone && (s.core t c).takes s.now f.prio && goesBefore s.now f e &&
      (f.phase == .waiting || (f.phase == .running && decide (f.started.length < f.instances)))))

/-- INSTANCE_START: every line of the local store is fresh, tokens are zero and both weight sets hold +0 (07 R226). -/
def execInstanceStart (id : CmdId) (idx t c : Nat) (s : State) : Host.Outcome State Fault Refusal :=
  match s.entry? id with
  | some e =>
    let d := (s.ctx id.ctx).desc
    let k := s.core t c
    if e.phase == .running && e.isTileWork && e.failure.isNone && decide (idx < e.instances) && !e.started.contains idx &&
        (s.scopeCores d.kind d.index).contains (t, c) && k.takes s.now e.prio && !coreRival s t c e then
      let i : Inst := { cmd := id, index := idx, prio := e.prio }
      let s := s.setCore t c { k with run := some i, state := .running, runAhead := [] }
      .next (preemptAll ((s.updEntry id (fun e => { e with started := idx :: e.started })).settleCore t c))
    else .next s
  | none => .next s

/-- The result of a command whose runs have ended (04 R136, R137; 05 R192). -/
def runResult (e : Entry) (countA countB : Nat) : CmdResult :=
  match e.failure with
  | some f => ⟨f.status, f.detail, countA, countB⟩
  | none => ⟨if e.sat then sAnchorSat else sOk, 0, countA, countB⟩

/-- The run on a core has nothing more to do: its words and ops are done, or its command failed and its ops are done. -/
def runOver (e : Entry) (i : Inst) : Bool := i.ops.isEmpty && (decide (e.image.words.length ≤ i.pc) || e.failure.isSome)

/-- The run on a core is over: the core drops a held partial and is free; a single tile-op command finishes (04 R153; 06 R207; 07 R228,
R246; 08 R268). -/
def endRun (t c : Nat) (k : Core) (i : Inst) (e : Entry) (s : State) : Host.Outcome State Fault Refusal :=
  if k.state == .running && runOver e i then
    let whole := decide (e.image.words.length ≤ i.pc) && !i.cut
    let s := (s.updEntry i.cmd (fun e => { e with ended := e.ended + 1, complete := e.complete + (if whole then 1 else 0) })).freeCore t c
    if e.isProg then .next s
    else
      let ga := decide (0x1401 ≤ e.opcode) && decide (e.opcode ≤ 0x1404)
      .next (finishWith i.cmd (runResult e (if ga then e.outRows else 0) (if ga then e.zeroRows else 0)) s)
  else .next s

/-- PROG_RUN completes: every run has ended, or it failed and every run that started has ended (04 R136, R137). -/
def execProgRun (id : CmdId) (s : State) : Host.Outcome State Fault Refusal :=
  match s.entry? id with
  | some e =>
    let ended := if e.failure.isSome then e.started.length == e.ended else e.ended == e.instances
    if ended then runCmd id 0x2001 s (fun e s => (s, runResult e e.complete e.zeroRows)) else .next s
  | none => .next s

/-! ### Issuing (04 R138 to R140; 07 R227) -/

/-- The core's run, its command and the word it is to issue. -/
structure Issue where
  k : Core
  i : Inst
  e : Entry
  w : List Byte

/-- The run at a core whose next word is an op `op` and whose command goes on. -/
def State.atWord (s : State) (t c op : Nat) : Option Issue :=
  let k := s.core t c
  match k.run with
  | none => none
  | some i =>
    match s.entry? i.cmd with
    | none => none
    | some e =>
      match e.image.words[i.pc]? with
      | none => none
      | some w =>
        if k.state == .running && e.phase == .running && e.failure.isNone && wordOp w == op then some ⟨k, i, e, w⟩ else none

/-- The token of the word's wait has been taken, or it waits on none (04 R140, R142). -/
def Issue.tokenOk (x : Issue) : Bool := !wordWaitEn x.w || wordStep x.w || x.i.taken

/-- Ops of an engine in flight. -/
def Inst.queued (i : Inst) (eng : Engine) : Nat := (i.ops.filter (fun o => o.eng == eng)).length

/-- A word may issue to an engine: its token is taken and the engine's queue has room (06 R201; 07 R227). -/
def Issue.engineOk (x : Issue) (eng : Engine) : Bool := x.tokenOk && decide (x.i.queued eng < 8)

/-- The counters of the open loops, outermost first. -/
def Inst.counters (i : Inst) : List Nat := i.loops.map (fun l => l.count)

/-- The run after its word. -/
def Inst.advance (i : Inst) (pc : Nat) : Inst := { i with pc, taken := false, holdSince := none }

/-- A token is signalled, and its count tells what is over. -/
def Inst.signal (i : Inst) (n : Nat) (k : Known) : Inst :=
  { i.setToken n (i.token n + 1) with told := setAt i.told n (i.told.getD n [] ++ [k]) }

/-- What the signal of an op tells: its own completion, or of a TILE_STEP op its tiles so far (04 R141, R142). -/
def OpRec.tells (o : OpRec) (w : List Byte) : Known := o.known.add o.eng (if wordStep w then (o.num - 1, o.tile) else (o.num, 0))

/-- The signal that has been held longest by token `n` is made (04 R140). -/
def Inst.releaseSignal (words : List (List Byte)) (n : Nat) (i : Inst) : Inst :=
  let w (o : OpRec) : List Byte := words.getD o.word []
  let waits := i.ops.filter (fun o => o.sigSince.isSome && wordSig (w o) == n)
  match waits.find? (fun o => waits.all (fun p => decide (o.sigSince.getD 0 ≤ p.sigSince.getD 0))) with
  | none => i
  | some o =>
    let i := i.signal n (o.tells (w o))
    { i with ops := mapIf (fun p => p.eng == o.eng && p.num == o.num) (fun p => { p with sigSince := none, signalled := !wordStep (w p) }) i.ops }

/-- A count of a token is taken, with what it tells of ops that are over: the oldest count goes first. A signal that the full token held
is made (04 R140, R141). -/
def Inst.takeToken (i : Inst) (words : List (List Byte)) (n : Nat) : Inst × Known :=
  let q := i.told.getD n []
  (({ i.setToken n (i.token n - 1) with told := setAt i.told n (q.drop 1) } : Inst).releaseSignal words n, q.headD [])

/-- What an engine's op comes after: what it was issued after, and what the engine's earlier ops took counts after (04 R139, R141). -/
def Inst.knownTo (i : Inst) (o : OpRec) : Known := o.known.join (i.engKnown.getD (engineNum o.eng) [])

/-- An op of an engine takes a count that tells `q`: it and the later ops of its engine come after that (04 R139, R141). -/
def Inst.learn (i : Inst) (eng : Engine) (q : Known) : Inst :=
  let n := engineNum eng
  { i with engKnown := setAt i.engKnown n (Known.join (i.engKnown.getD n []) q) }

/-- Every op issued so far is over, and nothing of them can race with later ones (04 R155). -/
def Inst.drained (i : Inst) : Inst := { i with known := i.issued.map (fun n => (n, 0)), past := [] }

/-- PROG_TOKEN_WAIT_SATISFIED: the held word's token is non-zero and is decremented (04 R140). -/
def execProgTokenWaitSatisfied (t c : Nat) (s : State) : Host.Outcome State Fault Refusal :=
  let k := s.core t c
  match k.run with
  | none => .next s
  | some i =>
    match s.entry? i.cmd with
    | none => .next s
    | some e =>
      match e.image.words[i.pc]? with
      | none => .next s
      | some w =>
        let n := wordWait w
        if k.state == .running && e.phase == .running && e.failure.isNone && wordWaitEn w && !wordStep w && !i.taken &&
            decide (0 < i.token n) then
          let (i, q) := i.takeToken e.image.words n
          .next ((s.setCore t c { k with run := some { i with taken := true, holdSince := none, known := i.known.join q } }).settleCore t c)
        else .next s

/-- The sequencer's own words: they issue when their token is taken and their signal has room, and signal at once. -/
def progWord (op t c : Nat) (s : State) (ok : Issue → Bool) (f : Inst → List Byte → Nat × List Loop) :
    Host.Outcome State Fault Refusal :=
  match s.atWord t c op with
  | none => .next s
  | some x =>
    let full := wordSigEn x.w && decide (65535 ≤ x.i.token (wordSig x.w))
    if x.tokenOk && !full && ok x then
      let (pc, loops) := f x.i x.w
      let i := if op = 0x2004 then x.i.drained else x.i
      let i := if wordSigEn x.w then i.signal (wordSig x.w) i.known else i
      .next ((s.setCore t c { x.k with run := some ({ i with loops }.advance pc) }).settleCore t c)
    else .next s

/-- PROG_NOP (07 R227). -/
def execProgNop (t c : Nat) (s : State) : Host.Outcome State Fault Refusal :=
  progWord 0x2000 t c s (fun _ => true) (fun i _ => (i.pc + 1, i.loops))

/-- PROG_LOOP opens a loop (04 R143). -/
def execProgLoop (t c : Nat) (s : State) : Host.Outcome State Fault Refusal :=
  progWord 0x2002 t c s (fun _ => true) (fun i w => (i.pc + 1, i.loops ++ [⟨i.pc, wordImm w + 1, 0⟩]))

/-- PROG_ENDLOOP repeats or closes the innermost loop (04 R143). -/
def execProgEndloop (t c : Nat) (s : State) : Host.Outcome State Fault Refusal :=
  progWord 0x2003 t c s (fun _ => true) (fun i _ =>
    match i.loops.getLast? with
    | none => (i.pc + 1, i.loops)
    | some l =>
      if l.count + 1 < l.trips then (l.word + 1, i.loops.dropLast ++ [{ l with count := l.count + 1 }])
      else (i.pc + 1, i.loops.dropLast))

/-- PROG_DRAIN passes once every earlier op has completed (04 R155). -/
def execProgDrain (t c : Nat) (s : State) : Host.Outcome State Fault Refusal :=
  progWord 0x2004 t c s (fun x => x.i.ops.isEmpty) (fun i _ => (i.pc + 1, i.loops))

/-! ### Running an op -/

/-- The word at a core's place as an op of an engine, numbered, with what it comes after. -/
def Issue.op (x : Issue) (eng : Engine) : OpRec :=
  { word := x.i.pc, eng, loops := x.i.counters, num := x.i.issued.getD (engineNum eng) 0 + 1, known := x.i.known }

/-- An op of a run fails: its fault record, and the failure of its command (03 R113; 04 R136). -/
def OpFail.report (i : Inst) (f : OpFail) (s : State) : State :=
  let s := if f.kind = 0 then s else faultRecord i.cmd.ctx i.cmd.ring i.cmd.seq f.seg f.kind f.addr s
  failCommand i.cmd i.index f.status f.detail s

/-- The core and the command take up what an op did: its counters, its saturation, its failure and fault record. A core with
3 uncorrectable local-store lines in 24 hours is withdrawn (15 R478). -/
def Exec.close (x : Exec) : State :=
  let s := x.s.setCore x.t x.c { x.k with run := some x.i }
  let s := s.updEntry x.i.cmd (fun e => { e with sat := e.sat || x.sat, zeroRows := e.zeroRows + x.zero, outRows := e.outRows + x.out })
  let day := x.k.ueTimes.filter (fun n => decide (s.now < n + 86400000000000))
  let s := if x.k.ueTimes.length > 0 ∧ day.length ≥ 3 then withdrawCore x.t x.c 2 s else s
  match x.err with
  | none => s
  | some f => f.report x.i s

/-- What an op over rows needs: its rows, the local-store ranges of a group of rows, and the work on them. -/
structure RowOp where
  rows : Exec → Nat
  plan : Exec → Nat → Nat → List (Nat × Nat) × List (Nat × Nat)
  body : Exec → Nat → Nat → Exec

/-- The work on rows `r0` to `r0 + n − 1`, with what unordered ops and a held partial do to it (04 R141; 06 R206). -/
def RowOp.run (r : RowOp) (eng : Engine) (x : Exec) (r0 n : Nat) : Exec :=
  let (rd, wr) := r.plan x r0 n
  let x := x.raceBefore eng rd
  let x := if eng == .mx then x else x.touchSash rd wr
  let x := r.body x r0 n
  x.raceAfter eng rd wr

/-- Tiles of 128 rows (04 R142). -/
def tilesOf (rows : Nat) : Nat := (rows + 127) / 128

/-- An op of an engine: what it still waits for when its turn comes, its local-store ranges, and its work at its start or when it goes
on after a stop. -/
structure OpImpl where
  eng   : Engine
  /-- The op may start while earlier started ops still work (06 R200: a weight load). -/
  early : Bool := false
  ok    : Core → List Byte → OpRec → Bool := fun _ _ _ => true
  plan  : Exec → List (Nat × Nat) × List (Nat × Nat)
  start : Exec → OpRec → Exec × OpRec

/-- The implementation of an op over rows: a TILE_STEP op does its work tile by tile at TILE_STEP_WAIT (04 R142). -/
def RowOp.impl (r : RowOp) (eng : Engine) (ok : Core → List Byte → OpRec → Bool) : OpImpl :=
  { eng, ok
    plan := fun x => r.plan x 0 (r.rows x)
    start := fun x o =>
      let rows := r.rows x
      if wordStep x.w then (x, { o with tiles := tilesOf rows })
      else
        let b := { x.before with row0 := o.row }
        let y := r.run eng x o.row (rows - o.row)
        (y, { o with rows, row := if y.err.isSome then o.row else rows, before := b, reads := [], writes := [] }) }

/-- Start an op whose turn has come, or go on with one that a stop or a swap left at a row. -/
def OpImpl.begin (m : OpImpl) (x : Exec) (o : OpRec) : Exec × OpRec :=
  let (x, o) := m.start x o
  (x, { o with started := true, mem := o.mem ++ x.mem, lastUse := o.lastUse ++ x.lastUse, failed := x.err.isSome })

/-- An op that has started has rows left that wait on no tile (06 R200, R221; 07 R245). -/
def OpRec.goesOn (o : OpRec) : Bool := o.started && !o.failed && decide (o.row < o.rows)

/-- The op of an engine to start next, or to go on with. -/
def Inst.due (i : Inst) (eng : Engine) (early : Bool) : Option OpRec :=
  match i.ops.find? (fun o => o.eng == eng && o.goesOn) with
  | some o => if early then i.unstarted eng else some o
  | none => if early || i.settled eng then i.unstarted eng else none

/-- An op of this kind may start or go on. -/
def OpImpl.ready (m : OpImpl) (op : Nat) (k : Core) (i : Inst) (words : List (List Byte)) : Option OpRec :=
  match i.due m.eng m.early with
  | some o =>
    let w := words.getD o.word []
    if wordOp w == op && m.ok k w o then some o else none
  | none => none

/-- Replace the op of an engine that has the number of `n`. -/
def updOp (n : OpRec) (l : List OpRec) : List OpRec := mapIf (fun o => o.eng == n.eng && o.num == n.num) (fun _ => n) l

/-- Start the op `o` of the run on a core, or go on with it. -/
def startOp (m : OpImpl) (t c : Nat) (k : Core) (i : Inst) (e : Entry) (o : OpRec) (s : State) : State :=
  let o := { o with known := i.knownTo o }
  let (x, o) := m.begin (Exec.of s k i t c e o) o
  { x with i := { x.i with ops := updOp o x.i.ops } }.close

/-- Issue the word at the run's place to its engine's queue. -/
def pushOp (m : OpImpl) (t c : Nat) (y : Issue) (s : State) : State :=
  let o := y.op m.eng
  let (rd, wr) := m.plan (Exec.of s y.k y.i t c y.e o)
  let i := { y.i with ops := y.i.ops ++ [{ o with reads := rd, writes := wr }], issued := setAt y.i.issued (engineNum m.eng) o.num }
  s.setCore t c { y.k with run := some (i.advance (o.word + 1)) }

/-- What would leave more writes in a queue than it holds waits in its requester (10 R330; log 113). -/
def State.orWait (s t : State) : State := if t.overfull then s else t

/-- Start the engine's next op if it is an `op` whose turn has come, and its writes find room. -/
def tryStart (op : Nat) (m : OpImpl) (t c : Nat) (s : State) : State :=
  let k := s.core t c
  match k.run with
  | none => s
  | some i =>
    match s.entry? i.cmd with
    | none => s
    | some e =>
      match m.ready op k i e.image.words with
      | some o => if k.state == .running && e.phase == .running then s.orWait (startOp m t c k i e o s) else s
      | none => s

/-- An engine op: where an issued op waits to start and its turn has come, it starts; otherwise the word at the run's
place issues, and starts at once if it can (04 R139; 07 R227). -/
def issueOrStart (op : Nat) (m : OpImpl) (t c : Nat) (s : State) : Host.Outcome State Fault Refusal :=
  let k := s.core t c
  let due : Bool := match k.run with
    | none => false
    | some i => (m.ready op k i (s.wordsOf i)).isSome
  if due then .next ((tryStart op m t c s).settleCore t c)
  else match s.atWord t c op with
    | none => .next s
    | some y => if y.engineOk m.eng then .next ((tryStart op m t c (pushOp m t c y s)).settleCore t c) else .next s

/-! ### Completing ops (04 R139, R140; 09 R298) -/

/-- Reads that an op still has in a controller's queue (10 R329). -/
def State.readsOf (s : State) (i : Inst) (word : Nat) : Bool :=
  let mine (r : PcRead) : Bool := match r.who with
    | .op _ _ cmd inst w _ => cmd == i.cmd && inst == i.index && w == word
    | _ => false
  s.hbm.any (fun k => k.2.pcs.any (fun p => p.2.reads.any mine))

/-- An op has nothing left to do but its signal. -/
def opDone (s : State) (i : Inst) (o : OpRec) : Bool :=
  o.dataDone && !s.readsOf i o.word

/-- The op leaves its engine. -/
def endOp (t c : Nat) (eng : Engine) (k : Core) (i : Inst) (o : OpRec) (s : State) : State :=
  let i := { i with ops := dropOldest eng i.ops, cut := i.cut || o.failed }
  -- run-ahead rows that the op has not taken are dropped; those of the next op keep their place (08 R276)
  let n : Nat := (o.ga.map (fun g => g.poss.length)).getD 0
  let ahead : List AheadRow := if eng != .ga then k.runAhead else if o.failed then [] else
    (k.runAhead.filter (fun (r : AheadRow) => decide (n ≤ r.pos))).map (fun r => { r with pos := r.pos - n })
  let k := { k with runAhead := ahead }
  (o.lastUse.foldl State.releasePage (s.setCore t c { k with run := some i })).settleCore t c

/-- TILE_OP_COMPLETE: the oldest op of an engine completes and signals; a signal to a token at 65,535 is held (04 R140). -/
def execTileOpComplete (t c : Nat) (eng : Engine) (s : State) : Host.Outcome State Fault Refusal :=
  let k := s.core t c
  match k.run with
  | none => .next s
  | some i =>
    match s.entry? i.cmd, i.oldest eng with
    | some e, some o =>
      let w := e.image.words.getD o.word []
      if opDone s i o && k.state == .running && (o.failed || !(wordStep w && (o.sigDue || o.sigSince.isSome))) then
        if o.failed || !wordSigEn w || wordStep w || o.signalled then .next (endOp t c eng k i o s)
        else
          let n := wordSig w
          if i.token n < 65535 then .next (endOp t c eng k (i.signal n (o.tells w)) o s)
          else
            let i := { i with ops := updOldest eng (fun o => { o with sigSince := some (o.sigSince.getD s.now) }) i.ops }
            .next ((s.setCore t c { k with run := some i }).settleCore t c)
      else .next s
    | _, _ => .next s

/-! ### Holds that last too long (04 R140) -/

/-- When the oldest hold of a run began: the next word at a token, a per-tile wait, or a signal at a full token. -/
def Inst.holdStart (i : Inst) : Option Nat :=
  (i.holdSince.toList ++ i.ops.flatMap (fun o => o.waitSince.toList ++ o.sigSince.toList)).min?

/-- PROG_TOKEN_HOLD_TIMEOUT (04 R140). -/
def execProgTokenHoldTimeout (t c : Nat) (s : State) : Host.Outcome State Fault Refusal :=
  match (s.core t c).run with
  | none => .next s
  | some i =>
    match s.entry? i.cmd with
    | none => .next s
    | some _ =>
      let x := s.ctx i.cmd.ctx
      match i.holdStart with
      | some n =>
        if x.desc.waitMs = 0 then .next s
        else
          let s := advanceTo (n + waitLimitNs x) s
          .next (raiseEvent i.cmd.ctx evWaitLimit (failCommand i.cmd i.index sTimeout 0 s))
      | none => .next s

end Sys2Proof.Machine
end

