-- ==== Sys2Proof/Machine/Mov.lean ====
section
/-! DEFINITION. The copy engines' ops (04 R150, R155; 05 R186). -/

namespace Sys2Proof.Machine

/-- Some code of an attar line is SAT+ or SAT− (05 R191). -/
def satCodes (cs : List Nat) : Bool := cs.any (fun c => (Attar.ofCode c).isSat)

/-- The code of an element copied between operands of one format: no payload of a not-a-number is copied (05 R164; log 12). -/
def copyCode (f : Fmt) (c : Nat) : Nat := if f.isNumber && decodeElem f c == .nan then nanCode f else c

/-- A line of codes with its scales, copied between operands of one format: a block of an MX format that holds no finite number
somewhere has the scale 0xFF and codes of 0 (05 R182), and bytes of a scale row beyond the line's blocks are 0 (04 R152). -/
def copyLine (d : Od) (cs scales : List Nat) : List Nat × List Nat :=
  let f := d.fmt
  if f.isMx then
    let bs := (chunksOf (cs.length + 1) 32 cs).zipIdx.map (fun b =>
      let sc := scales.getD b.2 0x7F
      if b.1.any (fun c => !(mxValue (decodeElem f.elem c) sc).isFinite) then (0xFF, b.1.map (fun _ => 0)) else (sc, b.1))
    (bs.flatMap (fun b => b.2), bs.map (fun b => b.1))
  else (cs.map (copyCode f), [])

/-- Copy line `k` of A into line `k` of C. Equal formats copy codes and scales (log 12); otherwise each exact value is
rounded once (05 R186). -/
def movLine (a c : Opnd) (mode : Mode) (x : Exec) (k : Nat) : Exec :=
  let (x, cs) := x.rdLine a k
  let (x, sc) := x.rdScales a k
  if x.err.isSome then x
  else
    let x := { x with sat := x.sat || (a.od.isAttar && satCodes cs) }
    if a.od.code = c.od.code then
      let r := copyLine a.od cs sc
      x.wrLine c k r.1 r.2
    else x.wrVals c mode k (valuesOf a.od.fmt a.od.anchor cs sc)

/-- A copy over the lines of A. -/
def movRow : RowOp :=
  { rows := fun x => (x.opnd 0).od.lines
    plan := fun x r0 n => ((x.opnd 0).ranges r0 n, (x.opnd 2).ranges r0 n)
    body := fun x r0 n => (List.range' r0 n).foldl (movLine (x.opnd 0) (x.opnd 2) (modeOf (wordFlags x.w) 0)) x }

/-- A copy op of the copy engines. -/
def movImpl : OpImpl := movRow.impl .mov (fun _ _ _ => true)

/-- Zero line `k` of C, its scales included. -/
def zeroLine (c : Opnd) (x : Exec) (k : Nat) : Exec :=
  x.wrLine c k (List.replicate c.od.e0 0) []

/-- MOV_ZERO over the lines of C. -/
def zeroRow : RowOp :=
  { rows := fun x => (x.opnd 2).od.lines
    plan := fun x r0 n => ([], (x.opnd 2).ranges r0 n)
    body := fun x r0 n => (List.range' r0 n).foldl (zeroLine (x.opnd 2)) x }

/-- MOV_LOAD: memory to local store. -/
def execMovLoad (t c : Nat) (s : State) : Host.Outcome State Fault Refusal := issueOrStart 0x0801 movImpl t c s

/-- MOV_STORE: local store to memory. -/
def execMovStore (t c : Nat) (s : State) : Host.Outcome State Fault Refusal := issueOrStart 0x0802 movImpl t c s

/-- MOV_COPY: memory to memory. -/
def execMovCopy (t c : Nat) (s : State) : Host.Outcome State Fault Refusal := issueOrStart 0x0803 movImpl t c s

/-- MOV_LS: local store to local store. -/
def execMovLs (t c : Nat) (s : State) : Host.Outcome State Fault Refusal := issueOrStart 0x0804 movImpl t c s

/-- MOV_ZERO. -/
def execMovZero (t c : Nat) (s : State) : Host.Outcome State Fault Refusal :=
  issueOrStart 0x0805 (zeroRow.impl .mov (fun _ _ _ => true)) t c s

end Sys2Proof.Machine
end

