-- ==== Sys2Proof/Machine/Ga.lean ====
section
/-! DEFINITION. The gather engine's ops, row arrivals, run-ahead, remote gathers and accumulates (chapter 08). -/

namespace Sys2Proof.Machine

/-! ### Tables and indices (08 R252 to R261, R269, R270) -/

/-- A table with where it stands: its descriptor, its descriptor index and its effective offset. -/
structure TbAt where
  t    : Tb
  desc : Nat
  off  : Int

/-- The table in an operand slot. -/
def Exec.table (x : Exec) (slot : Nat) : TbAt :=
  let d := wordDesc x.w slot
  let t := Tb.parse (x.descOf d)
  ⟨t, d, (t.off : Int) + x.mapOf slot⟩

/-- Offset of a row in its segment (08 R253, R254). -/
def TbAt.rowOff (t : TbAt) (idx : Nat) : Nat :=
  let l := if t.t.shards = 0 then idx else idx % 2 ^ t.t.shardLog2
  (t.off + (l * t.t.stride : Nat)).toNat

/-- Address of a row (08 R256): bits [55:40] of the segment's BASE are ignored for a sharded table. -/
def Exec.rowAddr (x : Exec) (t : TbAt) (idx : Nat) : Nat :=
  let base := (x.e.seg (whereSeg t.t.where_)).base
  if t.t.shards = 0 then base + t.rowOff idx
  else
    let pkg := (Table.get [] x.e.shards t.desc).getD (idx / 2 ^ t.t.shardLog2) 0
    let a := base % 2 ^ 40 + t.rowOff idx
    if x.s.isSelf pkg then a else 2 ^ 55 + pkg * 2 ^ 40 + a

/-- The INDEX operand B. -/
def Exec.index (x : Exec) : Ix := Ix.parse (x.descOf (wordDesc x.w 1))

/-- The arrays of an INDEX operand: first byte, in the local store or its segment, and count. -/
def Exec.indexArrays (x : Exec) : List (Nat × Nat) :=
  let d := x.index
  [(((d.off : Int) + x.mapOf 1).toNat, d.count * d.size)] ++ (if d.weights then [(d.wOff, 4 * d.count)] else [])
    ++ (if d.bags ≠ 0 ∧ d.bagLen = 0 then [(d.bOff, 4 * (d.bags + 1))] else [])

/-- Local-store ranges of an op's index arrays. -/
def Exec.indexRanges (x : Exec) : List (Nat × Nat) := if whereLs x.index.where_ then x.indexArrays else []

/-- Memory ranges of an op's index arrays. -/
def Exec.indexMem (x : Exec) : List (Nat × Nat) :=
  let w := x.index.where_
  if whereLs w then [] else x.indexArrays.map (fun r => (x.s.localAddr ((x.e.seg (whereSeg w)).base + r.1), r.2))

/-- Memory ranges of the rows that a gather or bag reads. -/
def Exec.rowRanges (x : Exec) (t : Tb) (g : GaOp) : List (Nat × Nat) :=
  g.poss.filterMap (fun p => p.addr.map (fun a => (x.s.localAddr a, t.rowBytes)))

/-- Fields of `n` bytes each. -/
def fieldsOf (bs : List Byte) (n count : Nat) : List Nat := (upTo count).map (fun j => fieldOf bs (n * j) n)

/-- The first bag from `k0` on that breaks R261. -/
def badBag (o : List Nat) (bags count k0 : Nat) : Option Nat :=
  ((upTo bags).drop k0).find? (fun k => (k == 0 && o.getD 0 0 != 0) || decide (o.getD (k + 1) 0 < o.getD k 0) ||
    (k + 1 == bags && o.getD bags 0 != count))

/-- Fail with a violation of an index (08 R261, R269): FR_KIND 2 against the table's segment. -/
def Exec.failIndex (x : Exec) (t : TbAt) (addr : Nat) : Exec := x.fail ⟨sIndexRange, 0, whereSeg t.t.where_, 2, addr⟩

/-- The bags of the positions of bag `k0` on, from the bag-offset array where there is one (08 R259, R261). -/
def Exec.bagsOf (x : Exec) (t : TbAt) (d : Ix) (k0 : Nat) : Exec × List Nat :=
  if d.bags = 0 then (x, (upTo d.count).drop k0)
  else if d.bagLen ≠ 0 then (x, ((upTo d.count).map (fun j => j / d.bagLen)).drop (k0 * d.bagLen))
  else
    let n := d.bags + 1 - k0
    let (x, bs) := x.rd d.where_ (d.bOff + 4 * k0) (4 * n)
    if x.err.isSome then (x, [])
    else
      let o := List.replicate k0 0 ++ fieldsOf bs 4 n
      match badBag o d.bags d.count k0 with
      | some k => (x.failIndex t (2 ^ 63 + k), [])
      | none => (x, ((upTo d.bags).drop k0).flatMap (fun k => List.replicate (o.getD (k + 1) 0 - o.getD k 0) k))

/-- The first position of bag `k0`: an op that goes on after a stop reads that bag's indices from its start (08 R281). -/
def Exec.firstPos (x : Exec) (d : Ix) (k0 : Nat) : Exec × Nat :=
  if k0 = 0 ∨ d.bags = 0 then (x, k0)
  else if d.bagLen ≠ 0 then (x, k0 * d.bagLen)
  else
    let (x, bs) := x.rd d.where_ (d.bOff + 4 * k0) 4
    (x, fieldOf bs 0 4)

/-- A position that an op which goes on after a stop does not read again. -/
def GaPos.passed : GaPos := { index := 0, addr := none, arrived := true }

/-- Read the index stream from position `j0` and form the positions of an op, those of bag `k0` on; the ones before are passed. Every
index read is checked before a row is requested (08 R281; log 14). -/
def Exec.positions (x : Exec) (t : TbAt) (k0 j0 : Nat) : Exec × List GaPos :=
  let d := x.index
  let n := d.count - j0
  let (x, bs) := x.rd d.where_ ((d.off : Int) + x.mapOf 1 + (j0 * d.size : Nat)) (n * d.size)
  let idx := fieldsOf bs d.size n
  let (x, wb) : Exec × List Byte := if d.weights then x.rd d.where_ (d.wOff + 4 * j0) (4 * n) else (x, [])
  let ws := if d.weights then fieldsOf wb 4 n else []
  let (x, bags) := x.bagsOf t d k0
  if x.err.isSome then (x, [])
  else
    let out := idx.filter (fun v => decide (t.t.rows ≤ v))
    match t.t.fail, out with
    | true, v :: _ => (x.failIndex t v, [])
    | _, _ =>
      let pos (e : (Nat × Nat) × Nat) : GaPos :=
        let v := e.1.1
        let zero := decide (t.t.rows ≤ v)
        { index := v, addr := if zero then none else some (x.rowAddr t v), weight := ws.getD e.2 0x3F800000, out := e.1.2, arrived := zero }
      ({ x with zero := x.zero + out.length },
       List.replicate j0 GaPos.passed ++ ((idx.zip (if k0 = 0 then bags.drop j0 else bags)).zipIdx).map pos)

/-! ### Values of rows and outputs (08 R252, R263 to R265) -/

/-- The element codes of a row; a zero row has +0 everywhere. -/
def Tb.codes (t : Tb) (p : GaPos) : List Nat :=
  if p.addr.isNone then List.replicate t.dims 0 else unpack t.fmt.bits t.dims (sliceBytes p.data 0 t.elemBytes)

/-- The element values of a row (08 R252). -/
def Tb.values (t : Tb) (p : GaPos) : List Num :=
  let vs := (t.codes p).map (decodeElem t.fmt)
  if t.rowScale && p.addr.isSome then
    let sc := fp32 (fieldOf p.data t.elemBytes 4)
    vs.map (fun v => Num.mul v sc)
  else vs

/-- Write terms entered into an ATTAR line. -/
def Exec.wrAttars (x : Exec) (c : Opnd) (k : Nat) (ts : List Attar) : Exec :=
  { x with sat := x.sat || ts.any Attar.isSat }.wrLine c k (ts.map Attar.toCode) []

/-- GA_GATHER's output row (08 R263). -/
def Exec.gatherOut (x : Exec) (t : Tb) (c : Opnd) (k : Nat) (p : GaPos) : Exec :=
  if c.od.code = t.code ∧ t.rowScale = false then x.wrLine c k (t.codes p) []
  else if c.od.isAttar then x.wrAttars c k ((t.values p).map (enter c.od.anchor))
  else x.wrVals c .rne k (t.values p)

/-- Add a row of terms into a row of pool accumulators, noting saturation (05 R191). -/
def poolAdd (r : List Attar × Bool) (ts : List Attar) : List Attar × Bool :=
  ((r.1.zip ts).map (fun p => Attar.add p.1 p.2), r.2 || (r.1.zip ts).any (fun p => p.2.isSat || Attar.addSaturates p.1 p.2))

/-- GA_BAG's output row from the rows of its bag, in the mode of TOP_IMM (08 R264). -/
def Exec.bagOut (x : Exec) (t : Tb) (ix : Ix) (c : Opnd) (k : Nat) (ps : List GaPos) : Exec :=
  let mode := wordImm x.w
  let a := if c.od.isAttar then c.od.anchor else ix.anchor
  if mode = 2 then
    let rows := ps.map t.values
    let vs := match rows with
      | [] => List.replicate t.dims Num.zero
      | r :: rs => rs.foldl (fun m q => (m.zip q).map (fun p => Num.max p.1 p.2)) r
    x.wrVals c .rne k vs
  else
    let term (p : GaPos) : List Attar :=
      let vs := t.values p
      (if mode = 3 then vs.map (fun v => Num.mul v (fp32 p.weight)) else vs).map (enter a)
    let (sum, sat) := (ps.map term).foldl poolAdd (List.replicate t.dims (.num 0), false)
    let x := { x with sat := x.sat || sat }
    if c.od.isAttar then x.wrAttars c k sum
    else if mode = 1 ∧ ps.length ≠ 0 then x.wrLine c k (sum.map (Attar.roundDiv c.od.fmt .rne 0 a ps.length)) []
    else x.wrVals c .rne k (sum.map (Attar.value a))

/-- Bytes that a written operand shares with operands which the op reads hold free values (04 R141; 08 R262; log 110). -/
def Exec.freeShared (x : Exec) (lsReads lsWrites memReads memWrites : List (Nat × Nat)) : Exec :=
  if x.err.isSome then x else (x.scramble (overlaps lsWrites lsReads)).scrambleMem (overlaps memWrites memReads)

/-- Write output `k` if every row it depends on has arrived and it is not written. -/
def Exec.tryOut (x : Exec) (g : GaOp) (k : Nat) : Exec × GaOp :=
  let ps := g.poss.filter (fun p => p.out == k)
  if x.err.isSome || g.written.contains k || !ps.all (fun p => p.arrived) then (x, g)
  else
    let t := (x.table 0).t
    let c := x.opnd 2
    let wr := c.ranges k 1
    let x := x.touchSash [] wr
    let x := if wordOp x.w = 0x1401 then x.gatherOut t c k (ps.headD { index := 0, addr := none }) else x.bagOut t x.index c k ps
    let x := x.freeShared x.indexRanges wr (x.indexMem ++ x.rowRanges t g) (x.memRanges c k 1)
    if x.err.isSome then (x, g)
    else ({ x with out := x.out + 1 }.raceAfter .ga [] wr, { g with written := k :: g.written })

/-! ### Starting the four ops (08 R262 to R268) -/

/-- Local-store ranges of a gather: its index arrays are read, its output rows written. -/
def gatherPlan (x : Exec) : List (Nat × Nat) × List (Nat × Nat) :=
  let c := x.opnd 2
  (x.indexRanges, c.ranges 0 c.od.lines)

/-- Bags in flight at most (08 R271). -/
def bagLimit (dims : Nat) : Nat := min 256 (262144 / (16 * dims))

/-- A position may hold a row slot: fewer than 256 earlier positions wait for their rows, and its bag is among the bags in
flight (08 R271). -/
def GaOp.slotted (g : GaOp) (dims : Nat) (pool : Bool) (pos : Nat) : Bool :=
  let before := (g.poss.take pos).filter (fun p => !p.arrived)
  let bag := (g.poss.getD pos { index := 0, addr := none }).out
  decide (before.length < 256) &&
    (!pool || decide (((upTo bag).filter (fun b => !g.written.contains b)).length < bagLimit dims))

/-- The positions from this one on hold no slot. -/
def GaOp.slotEnd (g : GaOp) (dims : Nat) (pool : Bool) : Nat :=
  ((upTo g.poss.length).find? (fun p => !g.slotted dims pool p)).getD g.poss.length

/-- The op is a bag. -/
def Exec.isBag (x : Exec) : Bool := wordOp x.w == 0x1402

/-- A row in the run-ahead buffer, its last line arrived, that still shows what memory holds: a write since has made the directory drop
it (08 R274, R276). -/
def Exec.aheadHit (x : Exec) (addr n : Nat) : Option AheadRow :=
  if x.s.linesPending (.ahead x.t x.c) addr n then none
  else match x.k.runAhead.find? (fun r => r.addr == addr) with
  | some r => match x.s.readMem addr n with
    | .ok bs => if r.data = bs then some r else none
    | .error _ => none
  | none => none

/-- The row of a position takes its slot: its lines are requested, or it comes from the run-ahead buffer (08 R271 to R274). -/
def Exec.askRow (x : Exec) (t : Tb) (p : GaPos) (addr : Nat) : Exec × GaPos :=
  let seg := whereSeg t.where_
  let n := t.rowBytes
  match x.aheadHit addr n with
  | some r =>
    let g := x.e.seg seg
    let hint := hintOf t.where_ g
    let lu := x.s.lastUsePages g hint addr n
    ({ x with k := { x.k with runAhead := x.k.runAhead.erase r }, s := x.s.demandTier x.i.cmd.ctx g hint addr n, lastUse := x.lastUse ++ lu },
     { p with asked := true, data := r.data })
  | none =>
    let (x, _) := x.rdRow t.where_ seg addr n
    ({ x with s := if x.err.isSome then x.s else x.s.request (tileUnit x.t x.c) true addr 16 [] }, { p with asked := true, askedAt := x.s.now })

/-- Every position that holds a slot has its row requested, in rising order, up to an error (08 R271). -/
def Exec.askRows (x : Exec) (g : GaOp) : Exec × GaOp :=
  let t := (x.table 0).t
  (upTo g.poss.length).foldl (fun (q : Exec × GaOp) pos =>
    match q.2.poss[pos]? with
    | none => q
    | some p =>
      match p.addr with
      | none => q
      | some a =>
        if p.asked || q.1.err.isSome || !q.2.slotted t.dims q.1.isBag pos then q
        else
          let (x, p) := q.1.askRow t p a
          (x, { q.2 with poss := q.2.poss.set pos p })) (x, g)

/-- GA_GATHER and GA_BAG start, or start again at the output at which a stop left them: outputs that wait on no row are written at once,
and rows are requested (08 R263, R264, R281). -/
def gatherStart (x : Exec) (o : OpRec) : Exec × OpRec :=
  let x := (x.raceBefore .ga x.indexRanges).touchSash x.indexRanges []
  let (x, j0) := x.firstPos x.index o.row
  let (x, ps) := x.positions (x.table 0) o.row j0
  let outs := if wordOp x.w = 0x1401 then x.index.count else x.index.bags
  let x := x.raceAfter .ga x.indexRanges []
  let (x, g) := (upTo outs).foldl (fun (q : Exec × GaOp) k => q.1.tryOut q.2 k) (x, { poss := ps, outs, written := upTo o.row })
  let (x, g) := if x.err.isSome then (x, g) else x.askRows g
  (x, { o with ga := some g, rows := outs, row := outs, reads := [] })

/-- A gather or bag op. -/
def gatherImpl : OpImpl := { eng := .ga, plan := gatherPlan, start := gatherStart }

/-- GA_GATHER. -/
def execGaGather (t c : Nat) (s : State) : Host.Outcome State Fault Refusal := issueOrStart 0x1401 gatherImpl t c s

/-- GA_BAG. -/
def execGaBag (t c : Nat) (s : State) : Host.Outcome State Fault Refusal := issueOrStart 0x1402 gatherImpl t c s

/-- Local-store ranges of a scatter: index arrays and source rows are read. -/
def scatterPlan (x : Exec) : List (Nat × Nat) × List (Nat × Nat) :=
  let a := x.opnd 0
  (x.indexRanges ++ a.ranges 0 a.od.lines, [])

/-- A contribution: its position, the table row's address and index, and the exact element values (08 R266). -/
structure Contribution where
  pos   : Nat
  index : Nat
  addr  : Nat
  vals  : List Num

/-- Read the contributions of the positions in order, from position `n`; a SAT marker in an ATTAR source saturates (05 R191). -/
def Exec.contributions (x : Exec) (a : Opnd) (weighted : Bool) (n : Nat) : List GaPos → Exec × List Contribution
  | [] => (x, [])
  | p :: ps =>
    match p.addr with
    | none => x.contributions a weighted (n + 1) ps
    | some addr =>
      let (x, cs) := x.rdLine a p.out
      let vs := valuesOf a.od.fmt a.od.anchor cs []
      let vs := if weighted then vs.map (fun v => Num.mul v (fp32 p.weight)) else vs
      let x := { x with sat := x.sat || (a.od.isAttar && satCodes cs) }
      let (x, rest) := x.contributions a weighted (n + 1) ps
      (x, ⟨n, p.index, addr, vs⟩ :: rest)

/-- Memory ranges that a scatter reads: its indices and its source rows. -/
def Exec.scatterReads (x : Exec) : List (Nat × Nat) :=
  let a := x.opnd 0
  x.indexMem ++ x.memRanges a 0 a.od.lines

/-- One group of accumulates: one for each line that the row covers, lanes outside the row zero (08 R277, R279). Where an offset map puts
a row off its elements' alignment, each accumulate covers 64 bytes that hold whole elements (log 111). -/
def Exec.accGroup (x : Exec) (t : TbAt) (group addr : Nat) (fp : Bool) (attars : List Attar) (vals : List Num) : List Acc :=
  let w := t.t.where_
  let g := x.e.seg (whereSeg w)
  let per := if fp then 16 else 4
  let shift := addr % 64 / (64 / per)
  let base := addr - shift * (64 / per)
  let codes := List.replicate shift 0 ++ attars.map Attar.toCode
  let terms := List.replicate shift Num.zero ++ vals
  let lines := ((if fp then terms.length else codes.length) + per - 1) / per
  let reads := x.scatterReads
  (upTo lines).map (fun l =>
    { own := true, tile := x.t, core := x.c, cmd := x.i.cmd, word := x.word, inst := x.i.index, seg := whereSeg w
      hint := hintOf w g, addr := base + 64 * l, fp32 := fp, group, since := x.s.now, epoch := x.s.epochAt (base + 64 * l)
      granule := x.s.granuleAt (base + 64 * l)
      shared := overlaps [(x.s.localAddr addr, t.t.rowBytes)] reads |> overlaps [(x.s.localAddr (base + 64 * l), 64)]
      attars := if fp then [] else sliceList codes (4 * l) 4 0
      terms := if fp then sliceList terms (16 * l) 16 Num.zero else [] })
where
  /-- `n` entries from `o`, padded. -/
  sliceList {α : Type} (l : List α) (o n : Nat) (d : α) : List α :=
    let q := (l.drop o).take n
    q ++ List.replicate (n - q.length) d

/-- What is added into a table row as one group: the row's address and its terms, and what a stop before it saves: a position, and the
entries of its window already sent (08 R281). -/
structure Group where
  addr : Nat
  ts   : List Attar
  pos  : Nat
  sent : Nat := 0

/-- An open window of COMBINE: the position of its first contribution, its entries (index and group) in the order of first
appearance, and contributions taken (08 R280). -/
structure Window where
  first   : Nat := 0
  entries : List (Nat × Group) := []
  count   : Nat := 0

/-- The groups of a window in the order in which they are sent. -/
def Window.groups (w : Window) : List Group := w.entries.zipIdx.map (fun e => { e.1.2 with pos := w.first, sent := e.2 })

/-- Put a contribution into the window; entries that leave it are sent first. -/
def Window.push (w : Window) (pos index addr : Nat) (ts : List Attar) : List Group × Window × Bool :=
  let known := w.entries.any (fun e => e.1 == index)
  let full := w.count ≥ 256 || (!known && decide (64 ≤ w.entries.length))
  let out := if full then w.groups else []
  let w : Window := if full then {} else w
  let w := if w.count = 0 then { w with first := pos } else w
  match w.entries.find? (fun e => e.1 == index) with
  | some e =>
    let (sum, sat) := poolAdd (e.2.ts, false) ts
    (out, { w with entries := mapIf (fun f => f.1 == index) (fun f => (f.1, { f.2 with ts := sum })) w.entries, count := w.count + 1 }, sat)
  | none => (out, { w with entries := w.entries ++ [(index, ⟨addr, ts, pos, 0⟩)], count := w.count + 1 }, false)

/-- Combine repeated indices (08 R280): the groups sent in order, and whether a sum saturated. -/
def combineWindows (cs : List (Nat × Nat × Nat × List Attar)) : List Group × Bool :=
  let r := cs.foldl (fun (q : List Group × Window × Bool) c =>
    let (out, w, sat) := q.2.1.push c.1 c.2.1 c.2.2.1 c.2.2.2
    (q.1 ++ out, w, q.2.2 || sat)) ([], {}, false)
  (r.1 ++ r.2.1.groups, r.2.2)

/-- The line of terms that an accumulate carries (08 R277). -/
def Acc.data (a : Acc) : List Byte := if a.fp32 then a.terms.flatMap (fun v => bytesOfNat 4 (toFp32 v)) else a.attars.flatMap (bytesOfNat 16)

/-- An accumulate leaves its engine: over a link toward the owner of the line, 80 bytes, or to the controller that holds it, whose read
of the line is queued like any other (08 R277, R284; 10 R331). -/
def State.sendAcc (s : State) (a : Acc) : State :=
  ({ s with accs := s.accs ++ [a] }.request (tileUnit a.tile a.core) a.own a.addr 80 a.data).queueReads .adder a.addr 64

/-- The groups of a GA_SCATTER_ADD leave the engine, without the first `sent`, which it sent before a stop. Pages with hint LASTUSE are
released when the op completes (09 R298). -/
def Exec.sendGroups (x : Exec) (w : Nat) (o : OpRec) (groups : List (List Acc)) (sent : Nat) : Exec × OpRec :=
  let accs := (groups.drop sent).flatten
  let total := o.row + groups.length - sent
  let g := x.e.seg (whereSeg w)
  let lu := accs.flatMap (fun a => x.s.lastUsePages g (hintOf w g) a.addr 64)
  ({ x with s := accs.foldl State.sendAcc x.s, out := x.out + accs.length, lastUse := x.lastUse ++ lu },
   { o with accs := o.accs + accs.length, rows := total, row := total, reads := [] })

/-- Where a scatter that goes on after a stop reads on: its saved position, and the entries of that window already sent (08 R281). -/
def OpRec.resumeAt (o : OpRec) : Nat × Nat := if o.started then (o.pos % 2 ^ 32, o.pos / 2 ^ 32) else (0, 0)

/-- GA_SCATTER_ADD starts, or goes on after a stop: from the first contribution of the window in which it stopped, without the entries
already sent. Its accumulates leave the engine (08 R266, R277, R280, R281). -/
def scatterAddStart (x : Exec) (o : OpRec) : Exec × OpRec :=
  let t := x.table 2
  let a := x.opnd 0
  let ix := x.index
  let fp := bit (wordFlags x.w) 0
  let rd := (scatterPlan x).1
  let x := (x.raceBefore .ga rd).touchSash rd []
  let zeros := x.zero
  let (j0, sent) := o.resumeAt
  let (x, ps) := x.positions t 0 j0
  let x := if o.started then { x with zero := zeros } else x
  let (x, cs) := x.contributions a ix.weights 0 ps
  let x := x.raceAfter .ga rd []
  if x.err.isSome then (x, o)
  else
    let entered := cs.map (fun c => (c.pos, c.index, c.addr, c.vals.map (enter t.t.anchor)))
    let sat := !fp && entered.any (fun e => e.2.2.2.any Attar.isSat)
    let (gs, sat2) := if ix.combine then combineWindows entered
      else (entered.map (fun e => ⟨e.2.2.1, e.2.2.2, e.1, 0⟩), false)
    -- groups are numbered from the op's first one
    let g0 := o.row - sent
    let groups := if fp then cs.zipIdx.map (fun c => x.accGroup t (g0 + c.2) c.1.addr true [] c.1.vals)
      else gs.zipIdx.map (fun e => x.accGroup t (g0 + e.2) e.1.addr false e.1.ts [])
    let old := o.ga.getD {}
    let ga : GaOp := { groups := old.groups.take g0 ++ gs.map (fun g => (g.pos, g.sent)) ++ [(ps.length, 0)]
                       lines := old.lines.take g0 ++ groups.map List.length }
    let (x, o) := { x with sat := x.sat || sat || sat2 }.sendGroups t.t.where_ o groups sent
    (x, { o with ga := some ga })

/-- GA_SCATTER_ADD. -/
def execGaScatterAdd (t c : Nat) (s : State) : Host.Outcome State Fault Refusal :=
  issueOrStart 0x1403 { eng := .ga, plan := scatterPlan, start := scatterAddStart } t c s

/-- Write the pieces of a row, one a line; where the row was written before, either write may last (08 R267). -/
def Exec.scatterRow (x : Exec) (t : TbAt) (addr : Nat) (again : Bool) (bs : List Byte) : Exec :=
  (linesOf addr bs.length).foldl (fun (x : Exec) l =>
    let lo := max l addr
    let hi := min (l + 64) (addr + bs.length)
    let (v, s) := if again then x.s.draw else (1, x.s)
    let x := { x with s }
    if x.err.isSome || v % 2 = 0 then x
    else x.wrAt t.t.where_ (whereSeg t.t.where_) lo (sliceBytes bs (lo - addr) (hi - lo))) x

/-- GA_SCATTER starts, or goes on after a stop at its saved position: every row is written (08 R267, R281). -/
def scatterStart (x : Exec) (o : OpRec) : Exec × OpRec :=
  let t := x.table 2
  let a := x.opnd 0
  let rd := (scatterPlan x).1
  let x := (x.raceBefore .ga rd).touchSash rd []
  let zeros := x.zero
  let (x, ps) := x.positions t 0 o.resumeAt.1
  let x := if o.started then { x with zero := zeros } else x
  let (x, cs) := x.contributions a false 0 ps
  let x := x.raceAfter .ga rd []
  let old (c : Contribution) : List (Nat × List Byte) := [(c.addr, x.s.peek c.addr t.t.rowBytes)]
  let before : Before := if o.row ≠ 0 then o.before else { mem := cs.map old }
  let past := (o.ga.getD {}).wrote.take o.row
  let r := cs.foldl (fun (q : Exec × List Nat) c =>
    let (codes, _) := roundLine t.t.fmt .rne (fun _ => 0) 0 c.vals
    let x := q.1.scatterRow t c.addr (q.2.contains c.index) (pack t.t.fmt.bits codes)
    let x := x.freeShared [] [] x.scatterReads [(x.s.localAddr c.addr, t.t.rowBytes)]
    (if x.err.isSome then x else { x with out := x.out + 1 }, c.index :: q.2)) (x, past)
  let ga : GaOp := { groups := (o.ga.getD {}).groups.take o.row ++ cs.map (fun c => (c.pos, 0)) ++ [(ps.length, 0)]
                     wrote := past ++ cs.map (fun c => c.index) }
  let total := o.row + cs.length
  (r.1, { o with ga := some ga, rows := total, row := if r.1.err.isSome then o.row else total, before, reads := [] })

/-- GA_SCATTER. -/
def execGaScatter (t c : Nat) (s : State) : Host.Outcome State Fault Refusal :=
  issueOrStart 0x1404 { eng := .ga, plan := scatterPlan, start := scatterStart } t c s

/-! ### Rows arriving (08 R271 to R276) -/

/-- The gather op at work on a core. -/
def Inst.gathering (i : Inst) : Option OpRec := i.ops.find? (fun o => o.eng == .ga && o.started && !o.failed && !o.gaDone)

/-- Replace the gather op at work. -/
def updGathering (n : OpRec) : List OpRec → List OpRec
  | [] => []
  | o :: t => if o.eng == .ga && o.started && !o.failed && !o.gaDone then n :: t else o :: updGathering n t

/-- Take up what a gather op did. -/
def Exec.closeGather (x : Exec) (o : OpRec) (g : GaOp) : State :=
  let o := { o with ga := some g, failed := x.err.isSome, mem := o.mem ++ x.mem, lastUse := o.lastUse ++ x.lastUse }
  { x with i := { x.i with ops := updGathering o x.i.ops } }.close

/-- The bytes of a row that arrives: those of the run-ahead buffer, or what memory holds as they return. -/
def Exec.arrivedRow (x : Exec) (t : Tb) (p : GaPos) (addr : Nat) : Except AccErr (List Byte) :=
  if p.data.isEmpty then x.s.readMem addr t.rowBytes else .ok p.data

/-- ROW_ARRIVAL: the row of a position is there; its output row or bag is written once all its rows are (08 R273). -/
def execRowArrival (t c pos : Nat) (s : State) : Host.Outcome State Fault Refusal :=
  let k := s.core t c
  match k.run with
  | none => .next s
  | some i =>
    match s.entry? i.cmd, i.gathering with
    | some e, some o =>
      match o.ga with
      | none => .next s
      | some g =>
        let x := Exec.of s k i t c e o
        let tb := (x.table 0).t
        match g.poss[pos]? with
        | none => .next s
        | some p =>
          match p.addr with
          | none => .next s
          | some addr =>
            if !p.asked || p.arrived || k.state != .running || s.linesPending (x.reader (whereSeg tb.where_)) addr tb.rowBytes then .next s
            else match x.arrivedRow tb p addr with
              | .error er => .next ((x.failMem (whereSeg tb.where_) addr er).closeGather o g)
              | .ok data =>
                let x := { x with s := x.s.unkeep addr }
                let (x, g) := x.tryOut { g with poss := g.poss.set pos { p with arrived := true, data } } p.out
                let (x, g) := if x.err.isSome then (x, g) else x.askRows g
                if x.s.overfull then .next s else .next (x.closeGather o g)
    | _, _ => .next s

/-- Where in memory the index of a position of a queued op stands; none in the local store. -/
def Exec.aheadIndex (x : Exec) (pos : Nat) : Option Nat :=
  let d := x.index
  let a := (d.off : Int) + x.mapOf 1 + (pos * d.size : Nat)
  if whereLs d.where_ then none else some ((x.e.seg (whereSeg d.where_)).base + a.toNat)

/-- The table row that a position of a queued op would read, as a hint only (08 R270, R274, R275). -/
def Exec.aheadRow (x : Exec) (pos : Nat) : Option (Tb × Nat × Nat) :=
  let t := x.table 0
  let d := x.index
  let bs : Option (List Byte) :=
    if d.count ≤ pos then none
    else match x.aheadIndex pos with
      | none => some (x.i.ls.read ((d.off : Int) + x.mapOf 1 + (pos * d.size : Nat)).toNat d.size)
      | some a => match x.s.readMem a d.size with
        | .ok b => some b
        | .error _ => none
  match bs with
  | none => none
  | some b =>
    let v := natOfBytes b
    if t.t.rows ≤ v then none else some (t.t, t.rowOff v, x.rowAddr t v)

/-- The first op of the gather engine that has started and has not completed. -/
def Inst.gaCurrent (i : Inst) : Option OpRec := i.ops.find? (fun o => o.eng == .ga && o.started && !o.failed)

/-- What run-ahead position `pos` names: a table, a row's offset and address, the table's segment, and where in memory the index that it
reads for that stands (08 R274). -/
structure Ahead where
  t     : Tb
  off   : Nat
  addr  : Nat
  seg   : Seg
  index : Option (Nat × Nat)
  deriving DecidableEq, Repr

/-- The row that run-ahead position `pos` names: a position of the op at work, or one of the next queued op. -/
def aheadOf (s : State) (k : Core) (i : Inst) (e : Entry) (t c pos : Nat) : Option Ahead :=
  let at' (o : OpRec) : Exec := Exec.of s k i t c e o
  let gather (o : OpRec) : Bool :=
    let op := wordOp (e.image.words.getD o.word [])
    op == 0x1401 || op == 0x1402
  let next (n : Nat) : Option Ahead := match i.unstarted .ga with
    | some o =>
      let x := at' o
      if gather o then (x.aheadRow (pos - n)).map (fun r =>
        ⟨r.1, r.2.1, r.2.2, e.seg (whereSeg r.1.where_), (x.aheadIndex (pos - n)).map (fun a => (a, x.index.size))⟩) else none
    | none => none
  match i.gaCurrent with
  | none => none
  | some o =>
    let g := o.ga.getD {}
    if pos < g.poss.length then
      let x := at' o
      match (g.poss[pos]?).bind (fun p => p.addr.map (fun a => (p.index, a))) with
      | some (v, a) => some ⟨(x.table 0).t, (x.table 0).rowOff v, a, e.seg (whereSeg (x.table 0).t.where_), none⟩
      | none => none
    else next g.poss.length

/-- Line reads that run ahead: of home lines at their controllers, of another package's over a link (08 R272, R274, R275). -/
def State.readAhead (s : State) (t c a n : Nat) : State :=
  (s.queueReads (.ahead t c) a n).request (tileUnit t c) false a 16 []

/-- RUN_AHEAD_READ: a row up to 64 positions past the slots is read into the run-ahead buffer, its lines behind every demand read;
whatever stands in its way drops the read without record (08 R274 to R276). A scatter reads every index at its start, so the rows
are then those of the next op. -/
def execRunAheadRead (t c pos : Nat) (s : State) : Host.Outcome State Fault Refusal :=
  let k := s.core t c
  match k.run with
  | none => .next s
  | some i =>
    match s.entry? i.cmd, i.gaCurrent with
    | some e, some o =>
      let x := Exec.of s k i t c e o
      let last := (o.ga.getD {}).slotEnd (x.table 0).t.dims x.isBag
      match aheadOf s k i e t c pos with
      | none => .next s
      | some r =>
        let n := r.t.rowBytes
        let g := r.seg
        let inside := decide (r.off + n ≤ g.size)
        match s.readMem r.addr n with
        | .error _ => .next s
        | .ok data =>
          if k.state == .running && decide (last ≤ pos) && decide (pos < last + 64) && inside && g.type != 2 &&
              decide (k.runAhead.length < 64) && !k.runAhead.any (fun r => r.pos == pos) then
            let s := s.setCore t c { k with runAhead := k.runAhead ++ [⟨pos, r.addr, data⟩] }
            let s := match r.index with
              | some (a, m) => if s.linesPending (.ahead t c) a m then s else s.readAhead t c a m
              | none => s
            .next (s.readAhead t c r.addr n)
          else .next s
    | _, _ => .next s

/-! ### Requests of other packages (08 R272; 03 R87) -/

/-- An RS message takes the link of its request back, or where that takes nothing new the route (12 R391, R395). -/
def State.reply (s : State) (o : Origin) (size : Nat) (bytes : List Byte) : State :=
  if s.linkOpen o.link then s.emit o.link chanRs o.pkg size bytes else s.sendTo chanRs o.pkg size bytes

/-- A response or acknowledgement leaves toward a package: a header of 16 bytes and its data; an error response carries none
(08 R284; 12 R383). -/
def State.respond (s : State) (dst : Origin) (bytes : List Byte) : State := s.reply dst (16 + bytes.length) bytes

/-- An acknowledgement of 16 bytes leaves toward a package, with the saturation bit of an accumulate (08 R278; 12 R383). -/
def State.ackTo (s : State) (dst : Origin) (sat : Bool) : State := s.reply dst 16 (bytesOfNat 1 (natOfBool sat))

/-- What a request of another package for home bytes gives: refused outside backed home memory, and in error where a line is
uncorrectable. -/
def State.homeBytesAt (s : State) (addr len : Nat) : Option (List Byte) :=
  if addr < 0x6000000000 ∧ addr + len ≤ s.homeBytes ∧ s.poisoned addr len = false then some (s.mem.read addr len) else none

/-- A read that something outside waits for: it has its answer at once, or as the last of its lines is served (10 R328, R329). -/
def State.readFor (s : State) (who : Reader) (a n : Nat) (answer : State → State) : State :=
  let s := s.demandRead who a n
  if s.linesPending who a n then s else answer s

/-- A read of another package for home bytes is answered with them, once its lines are served, or in error (12 R387; 10 R328). -/
def State.serveRead (s : State) (src : Origin) (a n : Nat) : State :=
  match s.homeBytesAt a n with
  | some bs => s.readFor (.remote src s.freshTag a bs) a n (fun s => s.respond src bs)
  | none => (s.readFailed a n).respond src []

/-- A write of another package, to acknowledge, or of a host is applied, or waits in its requester where a write queue that cannot drain has no
room for it (10 R330; 12 R387, R410). -/
def landWrite (src : Option Origin) (a : Nat) (bs : List Byte) (s : State) : State :=
  let answer (ok : Bool) (s : State) : State := match src with
    | some o => if ok then s.ackTo o false else s.respond o []
    | none => s
  let ls := linesOf (s.localAddr a) bs.length
  if s.noRoom ls then
    match ls.find? (fun l => s.noRoom (ls.filter (fun k => k ≤ l))) with
    | some l => s.updPc (s.rowOfHome l).stack (s.rowOfHome l).pc (fun q => { q with heldWrites := q.heldWrites ++ [⟨a, bs, src⟩] })
    | none => s
  else match s.writeMem a bs with
    | .ok s => answer true ((s.noteWrites a bs.length).demandShared a bs.length)
    | .error _ => answer false s

/-- REMOTE_GATHER_REQUEST: the owner reads the lines of the row and returns them; a refusal or an error returns none. An
unassigned package drops the request (12 R393). -/
def execRemoteGatherRequest (src : Origin) (addr len : Nat) (s : State) : Host.Outcome State Fault Refusal :=
  if s.gang.addr.isNone then .next s
  else
    let a := addr % 2 ^ 40
    let lo := lineOf a
    let n := (linesOf a len).length * 64
    .next (s.serveRead src lo n)

/-! ### Accumulates (08 R277, R278, R282) -/

/-- The line after an accumulate, and whether an addition saturated (05 R175, R191; 08 R266). -/
def Acc.apply (a : Acc) (line : List Byte) : List Byte × Bool :=
  if a.fp32 then
    let old := fieldsOf line 4 16
    ((old.zip a.terms).flatMap (fun p => bytesOfNat 4 (toFp32 (Num.add (Sys2Proof.Machine.fp32 p.1) p.2))), false)
  else
    let old := (fieldsOf line 16 4).map Attar.ofCode
    let ps := old.zip (a.attars.map Attar.ofCode)
    (ps.flatMap (fun p => bytesOfNat 16 (Attar.add p.1 p.2).toCode), ps.any (fun p => Attar.addSaturates p.1 p.2))

/-- The acknowledgement reaches the op that sent the accumulate. -/
def Inst.ackAcc (a : Acc) (failed : Bool) (i : Inst) : Inst :=
  let go := i.cmd == a.cmd && i.index == a.inst
  if go then
    { i with ops := updFirst (fun o => o.eng == .ga && decide (0 < o.accs)) (fun o => { o with accs := o.accs - 1, failed := o.failed || failed }) i.ops }
  else i
where
  /-- Change the first op that satisfies a condition. -/
  updFirst (p : OpRec → Bool) (f : OpRec → OpRec) : List OpRec → List OpRec
    | [] => []
    | o :: t => if p o then f o :: t else o :: updFirst p f t

/-- An accumulate leaves flight: its op counts it, and its command takes the saturation or the failure. -/
def ackAccumulate (a : Acc) (sat : Bool) (err : Option AccErr) (s : State) : State :=
  if a.own then
    let s := s.updCore a.tile a.core (fun k => { k with run := k.run.map (Inst.ackAcc a err.isSome), held := k.held.map (Inst.ackAcc a err.isSome) })
    match s.entry? a.cmd with
    | none => s
    | some e =>
      if e.isFinished then s
      else match err with
        | none => s.updEntry a.cmd (fun e => { e with sat := e.sat || sat })
        | some er => failCommand a.cmd a.inst er.status er.detail (faultRecord a.cmd.ctx a.cmd.ring a.cmd.seq a.seg er.kind a.addr s)
  else if err.isSome then s.respond a.src [] else s.ackTo a.src sat

/-- The tier's and the controllers' part of an accumulate: a write of the line (10 R331), and heat; its read was queued as it was sent. -/
def State.noteAccumulate (a : Acc) (s : State) : State :=
  let s := s.noteWrites (s.localAddr a.addr) 64
  if a.own then
    match s.entry? a.cmd with
    | some e => s.demandTier a.cmd.ctx (e.seg a.seg) a.hint a.addr 64
    | none => s
  else s.demandShared a.addr 64

/-- The adder's read of the line still waits in its controller's queue (10 R331). -/
def State.accPending (s : State) (a : Acc) : Bool := s.linesPending .adder a.addr 64

/-- An accumulate that its page's placement, or the move of its granule, has left behind is forwarded to the current one, and counted (09
R317; 10 R338). -/
def State.forwardAcc (a : Acc) (s : State) : State :=
  let left {α : Type} [BEq α] (tag now : Option α) : Bool := tag.isSome && tag != now
  if left a.epoch (s.epochAt a.addr) || left a.granule (s.granuleAt a.addr) then { s with forwarded := satAdd 16 s.forwarded 1 } else s

end Sys2Proof.Machine
end

