-- ==== Sys2Proof/Machine/TimeBase.lean ====
section
/-! DEFINITION. Time classes and the choice of the gang time source (12 R401 to R404), shared by gangs, links and time. -/

namespace Sys2Proof.Machine

/-- The package's own reference is present: pins or PTM (12 R402). -/
def Time.refOk (t : Time) : Bool :=
  match t.source with
  | 0 => t.ppsOk && t.tenOk
  | 2 => t.ptmOk
  | _ => false

/-- The outermost gang level that this package has joined. -/
def State.outerLevel (s : State) : Option Nat :=
  [3, 2, 1].find? (fun l => (s.gang.levels.getD (l - 1) {}).formed)

/-- The members in service of the outermost gang. -/
def State.timeMembers (s : State) : List Nat :=
  match s.outerLevel with
  | some l => s.gangMembers l
  | none => []

/-- Enter a time class: the capability blocks change first, then the event is logged (00 R10; 12 R403; 15 R487). -/
def setClass (c : TimeClass) (s : State) : State :=
  if s.time.cls == c then s
  else
    let s := withCap (fun s => { s with time := { s.time with cls := c } }) s
    fltPost 6 1 noUnit noUnit 0 c.code s.time.srcAddr s

/-- TIM_CTRL.PRIORITY of a member, and whether its own reference is present. -/
def State.priorityOf (s : State) (a : Nat) : Nat := if s.isSelf a then s.time.priority else (s.peer a).priority
def State.hasRef (s : State) (a : Nat) : Bool := if s.isSelf a then s.time.refOk else (s.peer a).hasRef

/-- The gang time source by 12 R404: the referenced member of lowest priority and address; else the current one; else the
lowest address. -/
def State.bestSource (s : State) : Option Nat :=
  let ms := s.timeMembers
  let refs := ms.filter s.hasRef
  let better (b : Option Nat) (a : Nat) : Option Nat := match b with
    | none => some a
    | some c => if s.priorityOf a < s.priorityOf c then some a else some c
  match refs.foldl better none with
  | some a => some a
  | none => if ms.contains s.time.srcAddr then some s.time.srcAddr else ms.head?

/-- Station time is within 10 ns of the reference: no more of a correction than that is still to be slewed (12 R403, R405). -/
def State.onReference (s : State) : Bool := s.time.refOk && decide (s.clk.slew.natAbs ≤ 10)

/-- The class of a gang time source, or of a package on its own: LOCKED on its reference, HOLDOVER while the bound holds after a loss, or
while a correction of a time that was locked is slewed, and FREE then (12 R403, R404; log 108). -/
def State.sourceClass (s : State) : TimeClass :=
  if s.onReference then .locked
  else if (s.time.cls == .locked || s.time.cls == .holdover) && decide (s.time.errBound < s.time.hold) then .holdover
  else .free

/-- The class of a package in no gang: LOCKED or HOLDOVER by its own input; FREE on SOURCE 3 once chosen; UNSET before any input
or gang; else ISOLATED (12 R402, R403; log 22). -/
def State.loneClass (s : State) : TimeClass :=
  if s.onReference then .locked
  else if (s.time.cls == .locked || s.time.cls == .holdover) && decide (s.time.errBound < s.time.hold) then .holdover
  else if s.time.refOk then .free
  else if s.time.cls == .unset then .unset
  else if s.time.source = 3 then .free
  else .isolated

/-- The choice of the gang time source, which is logged where it changes: the path to another one is learnt anew, and a package that
takes the role without a reference of its own holds over from the error bound that it had (12 R404). -/
def pickSource (s : State) : State :=
  match s.bestSource with
  | none => s
  | some a =>
    let self := s.isSelf a
    if s.time.srcAddr == a && s.time.isSource == self then s
    else
      let s := { s with time := { s.time with
        srcAddr := a, isSource := self, hops := 0, upLink := none
        lostAt := if self && !s.time.refOk then s.now - s.time.errBound * 10000000 else s.time.lostAt } }
      fltPost 6 2 noUnit noUnit 0 s.time.cls.code a s

/-- The class that a gang gives its members: the gang time source's own; ISOLATED where there is no path to it; a member with a path takes
its class from the next Sync (12 R403). -/
def gangClass (s : State) : State :=
  if s.bestSource.isNone then s
  else if s.time.isSource then setClass s.sourceClass s
  else if s.reachable s.time.srcAddr then s
  else setClass .isolated s

/-- Apply the choice of the gang time source. -/
def chooseSource (s : State) : State := gangClass (pickSource s)

/-- The class after the package's gangs or inputs have changed. -/
def settleTime (s : State) : State := if s.outerLevel.isSome then chooseSource s else setClass s.loneClass s

/-- The epoch of station time in TAI seconds: that of the outermost gang, or TIM_EPOCH_S (12 R401). -/
def State.epoch (s : State) : Nat :=
  match s.outerLevel with
  | some l => (s.gang.levels.getD (l - 1) {}).epoch
  | none => s.time.epoch

/-- Counted seconds that a run can still hold: a window has at most 10 (14 R442, R447). -/
def keepSeconds (l : List (Nat × Nat)) : List (Nat × Nat) := l.take 10

/-- The current second of energy ends at a jump of station time to `v`, and is counted with its actual length (14 R448). The periodic
runs go on from there, and a current guard has as long to run as before. -/
def cutSecond (v : Nat) (s : State) : State :=
  let p := s.power
  let s := { s with power := { p with seconds := keepSeconds ((p.second, s.now - p.secondStart) :: p.seconds), second := 0, secondStart := v,
                                      measuredAt := v, controlledAt := v } }
  (upTo 8).foldl (fun s t =>
    if (s.tpower t).guard then s.updTpower t (fun x => { x with guardEnd := v + (x.guardEnd - s.now) }) else s) s

/-- Station time is set outright (12 R405): a pending correction ends with it. -/
def setTime (v : Nat) (s : State) : State :=
  let v := v % 2 ^ 64
  { cutSecond v s with clk := { s.clk with now := v, slew := 0, slewNs := 0 } }

/-- Station time set to an instant of TAI, in ns, counted from an epoch; before that epoch the count is free (12 R401). -/
def setTai (tai epoch : Nat) (s : State) : State :=
  if epoch * 1000000000 ≤ tai then setTime (tai - epoch * 1000000000) s
  else
    let (v, s) := s.draw
    setTime v s

/-- A correction of station time: up to 10 ms is slewed, a larger one steps forward and is slewed backward (12 R405). -/
def correct (d : Int) (s : State) : State :=
  if 10000000 < d then setTime (s.clk.now + d.toNat) s
  else { s with clk := { s.clk with slew := d } }

end Sys2Proof.Machine
end

