-- ==== Sys2Proof/Machine/Units.lean ====
section
/-! DEFINITION. Losing units: stores that complete with error (03 R125, R127), a package stop and a new start (15 R467,
R468, R473), the loss of stacks (10 R351), tiles (13 R429 to R431; 14 R437), edges (13 R428), host ports (12 R413, R414),
links and packages (12 R392; 02 R84). -/

namespace Sys2Proof.Machine

/-! ### Stores of Ultur cores (03 R125, R127) -/

/-- A store completes with error: UBERR_ADDR and KIND hold the first, OVERFLOW says that more came; local interrupt 16 is
raised, and taken where mie bit 16 enables it: in S-mode where mideleg bit 16 delegates it. KIND: 0 timeout, 1 peer down, 2 host
down, 3 error response, 4 uncorrectable line fill. -/
def busError (t u addr kind : Nat) (s : State) : State :=
  s.updUcore t u (fun x =>
    let x := if x.errValid then { x with errOver := true, mip16 := true }
      else { x with errValid := true, errAddr := addr, errKind := kind, mip16 := true }
    if x.mie16 then { x with irq := some x.mideleg16 } else x)

/-- The bus-error CSRs as M-mode reads them at 0x7C0 and 0x7C1, and S-mode at 0x5C0 and 0x5C1 where mideleg bit 16 is set; none where
the mode may not read the number (03 R125). -/
def UCore.csr (x : UCore) (smode : Bool) (n : Nat) : Option Nat :=
  let info := flagAt x.errValid 0 + flagAt x.errOver 1 + x.errKind % 8 * 4
  let base := if smode then 0x5C0 else 0x7C0
  if smode && !x.mideleg16 then none
  else if n = base then some (x.errAddr % 2 ^ 56) else if n = base + 1 then some info else none

/-- Tracked stores to a target that is declared down complete with error and leave the tracker; one whose completion timeout came
first ends with KIND 0 (03 R127). -/
def failTracked (hit : Nat → Bool) (kind moment : Nat) (s : State) : State :=
  s.ucores.foldl (fun s e =>
    let t := e.1 / 8
    let u := e.1 % 8
    let gone := e.2.tracker.filter (fun x => hit x.addr)
    let s := s.updUcore t u (fun x => { x with tracker := x.tracker.filter (fun y => !hit y.addr) })
    gone.foldl (fun s x => busError t u x.addr (if x.since + s.timeoutNs < moment then 0 else kind) s) s) s

/-! ### Starts (15 R464 to R473) -/

/-- The fields of an entry before its CRCs, for CRC and read-out: bytes 0x00 to 0x05, and bytes 0x06 to 0x17. -/
def StartEntry.openBytes (e : StartEntry) : List Byte := bytesOfNat 4 e.seq ++ bytesOfNat 1 e.cause ++ bytesOfNat 1 e.bank
def StartEntry.closeBytes (e : StartEntry) : List Byte :=
  bytesOfNat 2 e.progress ++ bytesOfNat 1 e.reason ++ bytesOfNat 1 e.fails ++ bytesOfNat 2 e.detail ++ bytesOfNat 4 e.detail2
    ++ bytesOfNat 8 e.time

/-- The 32 bytes of an entry. -/
def StartEntry.bytes (e : StartEntry) : List Byte :=
  e.openBytes ++ e.closeBytes ++ bytesOfNat 4 (e.torn.getD (if e.closed then crc32c e.closeBytes else 0xFFFFFFFF)) ++ bytesOfNat 4 (crc32c e.openBytes)

/-- SL_FAILS of the newest of some entries; that of a torn close is the one of the entry before it plus 1 (15 R470). -/
def failsOf : List StartEntry → Nat
  | [] => 0
  | e :: rest => if e.torn.isSome then satAdd 8 (failsOf rest) 1 else e.fails

/-- SL_FAILS of the newest closed entry. -/
def Flash.closedFails (f : Flash) : Nat := failsOf (f.starts.dropWhile (fun e => !e.closed))

/-- SL_FAILS of the entry after a failed one, saturating at 255 (15 R470). -/
def Flash.failsAfter (f : Flash) : Nat := satAdd 8 (failsOf (f.starts.drop 1)) 1

/-- Close the newest start-ledger entry (15 R469, R470): `fails` is its SL_FAILS. -/
def closeStart (reason detail fails : Nat) (s : State) : State :=
  match s.flash.starts with
  | [] => s
  | e :: rest =>
    let addr := s.gang.addr.getD 0xFFFFFFFF
    let e := { e with reason, detail, fails, detail2 := addr, time := s.now, closed := true }
    { s with flash := { s.flash with starts := e :: rest } }

/-- Close the newest entry as failed. CLEAR or an update sets the base of SL_FAILS to 0 (15 R472, R482). -/
def failStart (reason detail : Nat) (s : State) : State :=
  closeStart reason detail (if s.start.cleared || s.start.updated then 1 else s.flash.failsAfter) s

/-- A pin reset or a loss of supply discards the stores of a core; one that had left the buffer may or may not have landed, which is
free (03 R129; log 103). -/
def dropStores (t u : Nat) (s : State) : State :=
  let s := (s.ucore t u).tracker.foldl (fun s x =>
    let (v, s) := s.draw
    if v % 2 = 1 then s.tryWrite x.addr (bytesOfNat x.width x.value) else s) s
  s.updUcore t u (fun x => { x with buffer := [], tracker := [], resv := none })

/-- The stores of every Ultur core are discarded in that way (03 R129). -/
def State.dropAllStores (s : State) : State :=
  s.ucores.foldl (fun s e => dropStores (e.1 / 8) (e.1 % 8) s) s

/-- What home memory keeps for a start: the remap table, the pool and moves not done yet only for a warm one (10 R337, R340). -/
def Home.forStart (h : Home) (warm : Bool) : Home :=
  if warm then { h with granules := 0, kept := h.granules }
  else { h with granules := 0, kept := 0, moves := [], remap := [], spillMap := [], spillMoved := false, taken := [], freed := [], waiting := [],
                rowTimes := [], lost := [], builtEnd := 0 }

/-- The next device granule at or after `d` that is not withdrawn (10 R347). -/
def Variant.liveFrom (v : Variant) (d : Nat) : Nat := if v.withdraws d then d + 1 else d

/-- The device granules whose pieces map-outs are moving (10 R347, R350). -/
def State.movingGranules (s : State) : List Nat :=
  ((s.hbm.filter (fun e => e.2.mapState == 3)).map (fun e => s.variant.liveFrom e.2.mapNext)).eraseDups

/-- Writes to a host that nothing has acknowledged as its link goes down: whether each has landed is undetermined, so free (12 R415). -/
def landOpen (p : Nat) (s : State) : State :=
  let ws := (s.port p).posted ++ (s.ucores.flatMap (fun e => e.2.tracker)).filterMap (fun x => match regionOf x.addr with
    | .aperture q o => if q == p then some (s.hostAddr p o, bytesOfNat x.width x.value) else none
    | _ => none)
  ws.foldl (fun s w =>
    let (v, s) := s.draw
    if v % 2 = 1 then s.updPort p (fun q => { q with mem := q.mem.write w.1 w.2 }) else s) (s.updPort p (fun q => { q with posted := [] }))

/-- The bank record in force: of two copies the one whose CRC holds and whose write count is higher (15 R485). -/
def Flash.bank (f : Flash) : BankRecord :=
  if f.copy1.good && (!f.copy0.good || decide (f.copy0.count < f.copy1.count)) then f.copy1 else f.copy0

/-- Rewrite both copies of the bank record. -/
def Flash.setBank (b : BankRecord) (f : Flash) : Flash := { f with copy0 := { b with good := true }, copy1 := { b with good := true } }

/-- Put an image in the bank that is not active. -/
def Flash.setInactive (f : Flash) (v : ImageView) : Flash := if f.bank.activeB then { f with imageA := v } else { f with imageB := v }

/-- The record after an update: the written bank is a trial bank (15 R482). -/
def BankRecord.asTrial (b : BankRecord) : BankRecord :=
  { b with trial := true, tried := false, committed := false, count := (b.count + 1) % 2 ^ 32 }

/-- A reset or a loss of supply ends an update: while the image is written it leaves the bank record unchanged; while the record is written,
one copy after the other, it may leave either copy torn or old. Which is free (15 R485). -/
def tearBank (s : State) : State :=
  if !s.start.fwBusy then s
  else
    let (v, s) := s.draw
    let f := s.flash.setInactive s.start.fwImage
    let b := f.bank.asTrial
    match v % 4 with
    | 0 => s
    | 1 => { s with flash := { f with copy0 := { b with good := false } } }
    | 2 => { s with flash := { f with copy0 := b, copy1 := { b with good := false } } }
    | _ => { s with flash := { f with copy0 := b } }

/-- The package at the beginning of a start: every register at its reset value (00 R16). The flash and the world outside
stay; home contents, the remap table and station time stay at a warm start (15 R468, R473), and its first second of energy begins then. A domain lost in service may
come back (14 R437). A cold start discards the stores of the Ultur cores (03 R129); a warm one comes after their drain. -/
def State.restart (s : State) (warm : Bool) (cause : Nat) : State :=
  let s := tearBank s
  let s := (upTo 4).foldl (fun s p => landOpen p s) (if warm then s.demoteAll else s.dropAllStores)
  let inHome (a : Nat) : Bool := decide (a < 0x6000000000)
  { variant := s.variant, free := s.free, flash := s.flash
    peers := s.peers.foldl (fun t e => Table.upd {} t e.1 (fun p => { p with down := false })) s.peers
    ports := s.ports.foldl (fun t e => Table.put {} t e.1 { mem := e.2.mem, answers := e.2.answers }) []
    lasers := s.lasers.foldl (fun t e => Table.put {} t e.1 { present := e.2.present }) []
    i3c := { strap := s.i3c.strap }
    taps := s.taps
    resetLow := s.resetLow
    domains := s.domains.map (fun d => { d with lost := false })
    msgs := s.msgs, outMsgs := s.outMsgs, accepted := s.accepted, pending := s.pending, bus := s.bus
    home := { s.home.forStart warm with lost := if warm then s.movingGranules else [] }
    mem := if warm then s.mem.filter (fun c => inHome c.1) else []
    poison := if warm then s.poison.filter inHome else []
    clk := if warm then { s.clk with ac := 0 } else {}
    time := if warm then { source := s.variant.timeSource, cls := s.time.cls, lostAt := s.time.lostAt }
            else { source := s.variant.timeSource }
    power := if warm then { secondStart := s.now, measuredAt := s.now, controlledAt := s.now } else {}
    start := { phase := .running, cause, warm, since := if warm then s.now else 0 } }

/-- A start fails, or the package stops in service: the newest entry is closed as failed, and the device starts again 1 s later
(15 R466, R467). A stop overwrites the success that stage READY recorded (log 17). -/
def stopPackage (reason detail : Nat) (s : State) : State :=
  let s := failStart reason detail s
  let r := s.restart false 6
  { r with clk := s.clk, start := { r.start with phase := .stopped, since := s.now, retryAt := s.now + 1000000000 } }

/-- The supply of I/O die 0 goes while an entry is closed: the close may be torn, and which fields were programmed and what SL_CLOSE_CRC reads
is free then (15 R470). -/
def tearClose (s : State) : State :=
  match s.flash.starts with
  | [] => s
  | e :: rest =>
    let (v, s) := s.draw
    let (w, s) := s.draw
    let c := w % 2 ^ 32
    if v % 2 = 0 ∨ c = 0xFFFFFFFF ∨ c = crc32c e.closeBytes then s
    else
      let left (i x erased : Nat) : Nat := if bit v i then x else erased
      let e := { e with
        reason := left 1 e.reason 0xFF, fails := left 2 e.fails 0xFF, detail := left 3 e.detail 0xFFFF
        detail2 := left 4 e.detail2 0xFFFFFFFF, time := left 5 e.time 0xFFFFFFFFFFFFFFFF, torn := some c }
      { s with flash := { s.flash with starts := e :: rest } }

/-- The supply of I/O die 0 goes outside service: an open entry stays open, for the next start to close (15 R470, R471). -/
def supplyGone (s : State) : State :=
  let r := s.restart false 1
  { r with clk := s.clk, start := { r.start with phase := .stopped, since := s.now, retryAt := s.now } }

/-- A package stop in service (13 R428; 14 R437, R454). `detail`: 1 hinge, 2 supply, 3 heat. -/
def packageStop (detail : Nat) (s : State) : State := stopPackage 9 detail s

/-! ### Commands that touch home memory (10 R351) -/

/-- The uses of a command's operands (04 R149; 09 R308; 11 R353), as acceptance formed them. -/
def Entry.uses (e : Entry) : List Use :=
  match opKind e.opcode with
  | some .progRun =>
    ((((placeWords e.image.descs e.image.words [] none none).getD []).flatMap
      (fun x => wordUsesOf x e.image.descs e.image e.instances)).filter (fun u => !u.1)).map (fun u => u.2)
  | some .tile =>
    ((((placeWords e.image.descs e.image.words [] none none).getD []).flatMap
      (fun x => wordUsesOf x e.image.descs e.image 1)).filter (fun u => !u.1)).map (fun u => u.2)
  | some .allreduce | some .reduceScatter | some .allgather | some .alltoall => redUses (e.descs.map Od.parse)
  | some .layerSchedule | some .pin | some .unpin | some .evict | some .prefetch | some .attest | some .cert =>
    (regionsOf e.descs).map (fun r => r.use .none)
  | _ => []

/-- The command touches local home memory: an operand in a HOME segment of this package, or a shard of this package. -/
def Entry.touchesHome (s : State) (e : Entry) : Bool :=
  e.uses.any (fun u => (e.seg u.seg).type == 0 && decide (u.lo ≤ u.hi) && !s.farSeg (e.seg u.seg)) ||
    e.shards.any (fun m => m.2.any s.isSelf)

/-- A stack leaves service and takes every home line with it (10 R351): the capability blocks change, commands that touch
home are discarded, and the loss is logged; the spec gives it no code of class 0x03, so the code is free (log 18). -/
def stackLost (n : Nat) (s : State) : State :=
  if !(s.stack n).inService then s
  else
    let s := withCap (fun s => { s.updStack n (fun k => { k with inService := false }) with home := { s.home with granules := 0 } }) s
    let s := discardIf (fun _ e => e.touchesHome s) s
    let (v, s) := s.draw
    fltPost 3 (v % 256) n noUnit 0 0 0 s

/-! ### Tiles (13 R429 to R431; 14 R437) -/

/-- Discard the work on every core of a tile. -/
def discardTile (t : Nat) (s : State) : State :=
  discardReds (scopeHas t none)
    ((upTo 64).foldl (fun s c => if (s.core t c).run.isSome || (s.core t c).held.isSome then discardCore t c s else s) s)

/-- The context's scope is the tile or one of its cores. -/
def scopedTo (t : Nat) (d : CtxDesc) : Bool := (d.kind == 1 && d.index / 64 == t) || (d.kind == 2 && d.index == t)

/-- Terminate the contexts that satisfy a condition. -/
def terminateIf (p : Nat → Ctx → Bool) (s : State) : State :=
  s.ctxs.foldl (fun s e => if e.2.phase != .disabled && p e.1 e.2 then terminateCtx e.1 s else s) s

/-- Contexts that the tile's stewards serve are re-established on another steward (03 R105; 13 R429; log 19). -/
def handOver (t : Nat) (s : State) : State :=
  s.ctxs.foldl (fun s e =>
    if e.2.phase == .disabled || !e.2.steward.any (fun w => w / tileStewards == t) then s
    else assignSteward e.1 (reestablish s e.1)) s

/-- The units of a tile stop: cores lose their work, Ultur cores issue no more. -/
def stopUnits (t : Nat) (s : State) : State :=
  let s := (upTo 64).foldl (fun s c => s.updCore t c (fun k => k.clear (k.cycle s.clk.ac))) s
  (upTo 8).foldl (fun s u => s.updUcore t u (fun x => { x with inService := false })) s

/-- A tile that leaves service during an exclusive self-test ends the test: its command is discarded (13 R432). -/
def endExclusive (s : State) : State :=
  match s.selftest with
  | some x => discard x.cmd s
  | none => s

/-- A tile is withdrawn as a compute unit and stays memory-only (13 R429, R430). `cause`: 1 hinge, 2 heat, 3 adders. The record
goes to the ledger first, the capability blocks change before the event is posted. The adders of a tile withdrawn before can fail
later. -/
def withdrawTile (t cause : Nat) (s : State) : State :=
  if !(s.tile t).inService then
    (if cause = 3 && (s.tile t).memory && !(s.tile t).proxied then
      let (v, s) := s.draw
      fltPost 2 1 (tileUnit t 255) noUnit 0 7 cause
        ((appendRepair 7 t (v % 65536) cause s).updTile t (fun x => { x with proxied := true }))
    else s)
  else
    let (v, s) := s.draw
    let s := endExclusive s
    let s := appendRepair 7 t (v % 65536) cause s
    let s := discardTile t s
    let s := withCap (fun s => stopUnits t (s.updTile t (fun x => { x with
      inService := false, withdrawn := true, louvreFrom := none, proxied := x.proxied || cause == 3 }))) s
    let s := terminateIf (fun _ c => scopedTo t c.desc) s
    let s := recheckCores (handOver t s)
    fltPost 2 1 (tileUnit t 255) noUnit 0 7 cause s

/-- The command has an operand in the direct range of a sill (02 R72). -/
def Entry.touchesSill (t : Nat) (e : Entry) : Bool :=
  e.direct.any (fun p => sillOfDirect p == t) || (e.uses.flatMap (Use.directPages e.segs)).any (fun p => sillOfDirect p == t)

/-- Commands with work in a sill that leaves service are discarded. -/
def discardSill (t : Nat) (s : State) : State := discardIf (fun _ e => e.touchesSill t) s

/-- A sill no longer serves: commands with operands in it are discarded, its direct window loses its backing and what its tier pages
held is lost. -/
def sillOff (t : Nat) (s : State) : State :=
  let s := releaseSill t (s.loseSillPages t)
  let s := discardSill t s
  withCap (fun s => s.updTile t (fun x => { x with memory := false })) s

/-! ### Host ports (12 R413, R414) -/

/-- An address lies in the aperture of a port. -/
def inAperture (p a : Nat) : Bool :=
  match regionOf a with
  | .aperture q _ => p == q
  | _ => false

/-- A context whose completion ring or an enabled ring lies in the port's aperture. -/
def Ctx.onPort (p : Nat) (c : Ctx) : Bool :=
  inAperture p c.desc.cqBase || c.rings.any (fun r => r.en && inAperture p r.base)

/-- A command with operands in a HOST segment of the port. -/
def Entry.onPort (p : Nat) (e : Entry) : Bool :=
  e.uses.any (fun u => (e.seg u.seg).type == 2 && (e.seg u.seg).hostPort == p)

/-- The gather op of a run waits for rows of a HOST segment of the port: its segment and the address of its first row. -/
def Inst.waitsOnPort (e : Entry) (p : Nat) (i : Inst) : Option (Nat × Nat) :=
  match i.ops.find? (fun o => o.eng == .ga && o.started && !o.failed && !o.gaDone) with
  | none => none
  | some o =>
    match o.ga with
    | none => none
    | some g =>
      match g.poss.find? (fun x => !x.arrived && x.addr.isSome) with
      | none => none
      | some x =>
        let w := e.image.words.getD o.word []
        let seg := whereSeg (Tb.parse (e.image.descs.getD (wordDesc w 0) [])).where_
        if (e.seg seg).type == 2 && (e.seg seg).hostPort == p then some (seg, x.addr.getD 0) else none

/-- Requests already sent complete with error: the fault records of ops at work on the port (FR_KIND 3). -/
def portFaults (p : Nat) (s : State) : State :=
  s.busyCores.foldl (fun s tc =>
    match (s.core tc.1 tc.2).run with
    | none => s
    | some i =>
      match s.entry? i.cmd with
      | none => s
      | some e =>
        match i.waitsOnPort e p with
        | some (seg, a) => faultRecord i.cmd.ctx i.cmd.ring i.cmd.seq seg 3 a s
        | none => s) s

/-- Commands of other contexts with operands in HOST segments of the port complete with S_HOST_DOWN. -/
def failOnPort (p : Nat) (s : State) : State :=
  s.ctxs.foldl (fun s c => c.2.entries.foldl (fun s e =>
    if !e.isFinished && e.onPort p then finishWith ⟨c.1, e.ring, e.seq⟩ (.of sHostDown) s else s) s) s

/-- A reference of this package's own is lost (12 R402 to R404). -/
def lostReference (s : State) : State := settleTime { s with time := { s.time with lostAt := s.now } }

/-- The completions of contexts whose completion ring lies in the port's aperture go to the FLT log from now on, those that waited for
room in it too (02 R68). -/
def loseRings (p : Nat) (s : State) : State :=
  s.ctxs.foldl (fun s e =>
    if inAperture p e.2.desc.cqBase && e.2.desc.ver != 0 then
      drainHeld e.1 e.2.held.length (s.updCtx e.1 (fun c => { c with cqLost := true }))
    else s) s

/-- A port becomes host-down (12 R414). -/
def hostDownPort (p : Nat) (s : State) : State :=
  if (s.port p).hostDown then s
  else
    let s := s.updPort p (fun q => { q with hostDown := true, evtDown := true, busMaster := false, ptmValid := false })
    let s := portFaults p (failTracked (inAperture p) 2 s.now (landOpen p s))
    let s := loseRings p s
    let s := terminateIf (fun _ c => c.onPort p) s
    let s := failOnPort p s
    let s := fltPost 4 6 p noUnit 0 0 0 s
    if s.time.source == 2 && s.time.ptmPort == p && s.time.ptmOk then
      lostReference { s with time := { s.time with ptmOk := false } }
    else s

/-- I/O die 1 is cut off or without power: its ports and time inputs are lost (13 R428; 14 R437; 12 R402). -/
def ioDie1Lost (s : State) : State :=
  let s := [2, 3].foldl (fun s p => (hostDownPort p s).updPort p (fun q => { q with linkUp := false })) s
  let had := s.time.refOk
  let s := { s with time := { s.time with ppsOk := false, tenOk := false } }
  if had && s.time.source == 0 then lostReference s else s

/-! ### Edges (13 R418, R428, R431) -/

/-- A die that an edge joins. -/
inductive Die where
  | tile (n : Nat)
  | io (n : Nat)
  deriving DecidableEq, Repr

/-- The two dies of an edge, the lower-numbered (or the I/O die) first; none for an absent edge (13 R418). -/
def edgeEnds (v : Variant) (e : Nat) : Option (Die × Die) :=
  let t (a b : Nat) : Option (Die × Die) := some (.tile a, .tile b)
  let f6 := v == .f6
  match e with
  | 0 => t 0 1 | 1 => t 1 2 | 2 => if f6 then none else t 2 3
  | 3 => t 4 5 | 4 => t 5 6 | 5 => if f6 then none else t 6 7
  | 6 => t 0 4 | 7 => t 1 5 | 8 => t 2 6 | 9 => if f6 then none else t 3 7
  | 10 => some (.io 0, .tile 0)
  | 11 => some (.io 0, .tile 4)
  | 12 => some (.io 1, .tile (if f6 then 2 else 3))
  | 13 => some (.io 1, .tile (if f6 then 6 else 7))
  | _ => none

/-- The edge joins two tiles. -/
def isTileEdge (e : Nat) : Bool := decide (e < 10)

/-- An edge that carries traffic, now or after its retrain. -/
def Edge.alive (e : Edge) : Bool := e.state == .inService || e.state == .retraining || e.state == .training

/-- Dies reached from I/O die 0 over edges in service, in `n` rounds. -/
def State.reachGo (s : State) : Nat → List Die → List Die
  | 0, l => l
  | n + 1, l =>
    s.reachGo n ((upTo 14).foldl (fun l e =>
      if (s.edge e).alive then
        match edgeEnds s.variant e with
        | some (a, b) => if l.contains a && !l.contains b then b :: l else if l.contains b && !l.contains a then a :: l else l
        | none => l
      else l) l)

/-- Dies that a chain of edges in service joins to I/O die 0 (13 R431). -/
def State.reached (s : State) : List Die := s.reachGo 10 [.io 0]

/-- A tile that nothing joins to I/O die 0 is withdrawn, and its stack and its sill are unreachable (13 R431). -/
def cutOffTile (t : Nat) (s : State) : State :=
  let s := stackLost t (withdrawTile t 1 s)
  if (s.tile t).memory then sillOff t s else s

/-- Tiles and I/O dies that are cut off from I/O die 0 (13 R428, R431). -/
def dropUnreached (s : State) : State :=
  let r := s.reached
  let s := (upTo 8).foldl (fun s t => if r.contains (.tile t) then s else cutOffTile t s) s
  if r.contains (.io 1) then s else ioDie1Lost s

/-- Tiles and I/O dies cut off from I/O die 0 are withdrawn. A package whose I/O die 0 has no edge stops. -/
def settleEdges (s : State) : State :=
  if !(s.edge 10).alive && !(s.edge 11).alive then packageStop 1 s else dropUnreached s

/-- Lanes in service on the edges of a tile other than `e`. -/
def State.otherLanes (s : State) (t e : Nat) : Nat :=
  ((upTo 14).map (fun f =>
    match edgeEnds s.variant f with
    | some (a, b) => if f != e && (a == .tile t || b == .tile t) && (s.edge f).alive then 32 * (s.edge f).groups else 0
    | none => 0)).sum

/-- The tile that an edge out of service withdraws: the one blamed, else the one with fewer other lanes, else the higher. -/
def State.edgeVictim (s : State) (e blamed : Nat) : Option Nat :=
  match edgeEnds s.variant e with
  | some (.tile a, .tile b) =>
    if blamed = a ∨ blamed = b then some blamed
    else if s.otherLanes a e < s.otherLanes b e then some a
    else some (max a b)
  | _ => none

/-- The edge carries nothing. -/
def Edge.stop (x : Edge) : Edge := { x with state := .out, groups := 0, mem := 0, stream := 0, coh := 0, running := [], due := none }

/-- An edge goes out of service (13 R428): the ledger records it, and a tile of a tile edge is withdrawn. `blamed` is the tile that the
loopback test attributes the lanes to. -/
def edgeFails (e blamed : Nat) (s : State) : State :=
  let s := (appendRepair 6 0xFF e 0 s).updEdge e Edge.stop
  let s := match s.edgeVictim e blamed with
    | some t => withdrawTile t 1 s
    | none => s
  fltPost 4 2 e noUnit 0 0 0 s

/-- An edge goes out of service, and what no longer reaches I/O die 0 with it (13 R428, R431). -/
def edgeOut (e blamed : Nat) (s : State) : State := settleEdges (edgeFails e blamed s)

/-- Edges of a tile whose supply is lost carry nothing; the tiles at their other ends stay, unless nothing else joins them (14 R434,
R437). -/
def deadEdges (t : Nat) (s : State) : State :=
  (upTo 14).foldl (fun s e =>
    match edgeEnds s.variant e with
    | some (a, b) => if (a == .tile t || b == .tile t) && (s.edge e).alive then s.updEdge e Edge.stop else s
    | none => s) s

/-! ### Packages and links that go down (02 R84; 12 R392) -/

/-- The context names a gang of which the package is a member in service. -/
def State.inGang (s : State) (d : CtxDesc) (pkg : Nat) : Bool := d.kind == 4 && (s.gangMembers d.index).contains pkg

/-- A command with work on every member of its gang: a collective, a self-test, a reset, a power limit or idle mode, an attestation or a
certificate (02 R84; 11; 14 R447; 15 R463, R474, R475). -/
def Entry.gangWide (e : Entry) : Bool :=
  (decide (0x1801 ≤ e.opcode) && decide (e.opcode ≤ 0x1805)) || [0x0003, 0x0005, 0x2801, 0x2802, 0x2C01, 0x2C02].contains e.opcode

/-- A member is declared down (02 R84; 03 R127; 12 R399, R404): the gang blocks drop it until it is READY again, its part of
commands of its gangs is discarded with them, and tracked stores to it complete with error, as the loss of its links at `moment` or their own
timeout came first. -/
def peerDown (pkg moment : Nat) (s : State) : State :=
  if (s.peer pkg).down || s.isSelf pkg then s
  else
    let s := discardIf (fun n e => e.gangWide && (s.inGang (s.ctx n).desc pkg || e.members.contains pkg)) s
    let drop (l : Level) : Level := { l with ready := l.ready.filter (fun m => m != pkg) }
    let s := withCap (fun s => { s.updPeer pkg (fun p => { p with down := true }) with
      gang := { s.gang with levels := s.gang.levels.map drop } }) s
    let s := failTracked (fun a => match regionOf a with | .remote q _ => q == pkg | _ => false) 1 moment s
    if s.outerLevel.isSome then chooseSource s else s

/-- Every member recorded by a gang level. -/
def State.allMembers (s : State) : List Nat := (s.gang.levels.flatMap (fun l => l.members)).eraseDups

/-- A management message of the device's own: READY, REPLY and DOWN carry no signature (12 R397). -/
def deviceMsg (type level target gang value : Nat) (data : List Byte) : List Byte :=
  bytesOfNat 1 type ++ bytesOfNat 1 level ++ bytesOfNat 2 target ++ bytesOfNat 4 0 ++ bytesOfNat 8 0 ++ bytesOfNat 4 0
    ++ bytesOfNat 4 gang ++ bytesOfNat 8 value ++ sliceBytes data 0 32 ++ List.replicate 64 0

/-- Every other package of this package's outermost gang, in service or not (12 R392). -/
def State.outerOthers (s : State) : List Nat :=
  match s.outerLevel with
  | some l => (s.gang.levels.getD (l - 1) {}).members.filter (fun m => !s.isSelf m)
  | none => []

/-- Announce to every package of the outermost gang that a link of this package is down (12 R392, R398). -/
def announceDown (k : Nat) (s : State) : State :=
  match s.gang.addr with
  | none => s
  | some a => s.outerOthers.foldl (fun s m => s.sendTo chanMg m 128 (deviceMsg 0x0B 0 m 0 (a + 0x8000) (bytesOfNat 4 k))) s

/-- A link joins this package to the peer: it has trained and is not down (12 R392). -/
def Link.joins (l : Link) (pkg : Nat) : Bool := l.joined && l.peerAssigned && l.peerAddr == pkg

/-- No link of this package leads to a package any more, by a route or directly. -/
def State.cutOff (s : State) (pkg : Nat) : Bool :=
  (s.routeLinks pkg).isEmpty && !s.routeDraining pkg && !(upTo 32).any (fun k => (s.link k).joins pkg)

/-- Packages that link `k` led to and that no link leads to any more are declared down (12 R390, R392). -/
def settlePeers (k : Nat) (s : State) : State :=
  let l := s.link k
  let routed := (s.gang.routes.filter (fun e => (entryLinks e.2).contains k)).map (fun e => e.1)
  let ps := if l.peerAssigned then insertNat l.peerAddr routed else routed
  ps.foldl (fun s p => if s.cutOff p && !(s.peer p).down && !s.isSelf p then announce p (peerDown p (min s.now (l.lastFlit + 2000000)) s) else s) s
where
  /-- Tell every other package of the outermost gang that a package is down. -/
  announce (p : Nat) (s : State) : State :=
    s.outerOthers.foldl (fun s m => s.sendTo chanMg m 128 (deviceMsg 0x0B 0 m 0 p [])) s

/-- A link stops carrying traffic; what it had to replay is gone. Requests that left on it and are not answered leave again by another
route, and messages that waited for it take another route (12 R387, R391). -/
def stopLink (k : Nat) (st : LinkState) (s : State) : State :=
  let rs := s.gang.kept.filter (fun r => r.link == k)
  let ws := (s.link k).waiting.filter (fun w => !rs.any (fun r => r.msg == w))
  let s := s.updLink k (fun l => { l with state := st, discarding := false, expected := 0, next := 0, unacked := [], replayTimes := [],
                                          credits := List.replicate 7 channelBuffer, waiting := [], retryAt := s.now + 10000000 })
  ws.foldl (fun s w => s.sendTo w.chan w.dst w.size w.bytes) (rs.foldl (fun s r => s.resend k r) s)

/-- A link that joined its peer goes DOWN: the fact is announced and logged, and packages that nothing leads to any more are
declared down (12 R391, R392). -/
def linkDown (k : Nat) (st : LinkState) (s : State) : State :=
  let was := (s.link k).joined
  let s := (stopLink k st s).updLink k (fun l => { l with joined := false })
  if was then settlePeers k (fltPost 4 3 k noUnit 0 0 (s.link k).peerAddr (announceDown k s)) else s

/-! ### Domains that are lost (14 R434, R437) -/

/-- A tile's supply is lost: tile, sill and stack leave service, its Ultur cores' stores are discarded (03 R129), and its hinge edges and
links, whose rails it feeds, carry nothing. -/
def tileLost (t : Nat) (s : State) : State :=
  let s := discardSill t (discardTile t (endExclusive s))
  let s := withCap (fun s => stopUnits t (s.updTile t (fun x => { x with inService := false, memory := false, louvreFrom := none }))) s
  let s := (upTo 8).foldl (fun s u => dropStores t u s) s
  let s := terminateIf (fun _ c => scopedTo t c.desc) s
  let s := releaseSill t ((stackLost t (recheckCores (handOver t s))).loseSillPages t)
  let s := ((upTo 4).map (fun j => 4 * t + j)).foldl (fun s k => if (s.link k).joined then linkDown k .down s else if (s.link k).state == .training then stopLink k .down s else s) s
  settleEdges (deadEdges t s)

/-- I/O die 1 loses its supply or shuts down: its ports, its time inputs and its edges are lost. -/
def ioDie1Off (s : State) : State :=
  let stop (e : Nat) (s : State) : State := if (s.edge e).alive then s.updEdge e Edge.stop else s
  settleEdges (ioDie1Lost (stop 13 (stop 12 s)))

end Sys2Proof.Machine
end

