-- ==== Sys2Proof/Machine/Links.lean ====
section
/-! DEFINITION. The Birwiuk links: flits and their retry, training, wavelengths, laser modules, forwarding and the requests of
other packages (12 R383 to R395). -/

namespace Sys2Proof.Machine

/-- The link carries flits (12 R391). -/
def Link.carries (l : Link) : Bool := l.state == .loc || l.state == .up || l.state == .draining

/-! ### Retry (12 R384, R385) -/

/-- A retrain: the link carries nothing until its training ends, and is logged (12 R392). -/
def retrainLink (k : Nat) (s : State) : State :=
  let s := s.updLink k (fun l => { l with state := .training, retrain := satAdd 8 l.retrain 1, replayTimes := [] })
  fltPost 4 7 k noUnit 0 0 (s.link k).peerAddr s

/-- Flits that a cumulative acknowledgement leaves in the replay buffer. -/
def ackUpTo (ack : Nat) (l : List (Nat × WaitMsg)) : List (Nat × WaitMsg) :=
  if l.any (fun x => x.1 == ack) then (l.dropWhile (fun x => x.1 != ack)).drop 1 else l

/-- Flits that a NAK leaves in the replay buffer: those from the named one on (12 R385). -/
def nakFrom (seq : Nat) (l : List (Nat × WaitMsg)) : List (Nat × WaitMsg) := if l.any (fun x => x.1 == seq) then l.dropWhile (fun x => x.1 != seq) else l

/-- Every flit of the replay buffer leaves again, in order; its message bytes were counted as they were first sent (log 106). -/
def State.replayLink (s : State) (k : Nat) : State :=
  { s with outMsgs := s.outMsgs ++ (s.link k).unacked.map (fun x => ⟨k, x.2.dst, x.2.bytes⟩) }

/-- The credits of a link after the returns of a flit's trailer (12 R384, R386). -/
def Link.credited (l : Link) (back : List Nat) : Link :=
  { l with credits := l.credits.zipIdx.map (fun c => min channelBuffer (c.1 + back.getD c.2 0)) }

/-- FLIT_RECEIVE: the expected flit is taken with the acknowledgement and the credits that it carries, and messages that waited for them
leave; a flit that fails its CRC is discarded with every later one until the expected flit comes again, and a NAK names that flit. -/
def execFlitReceive (k : Nat) (f : Flit) (s : State) : Host.Outcome State Fault Refusal :=
  let l := s.link k
  if !l.carries then .next s
  else
    let s := s.updLink k (fun l => { l with fec := l.fec + BitVec.ofNat 64 f.corrected })
    if !f.crcOk then
      let s := { s with outMsgs := s.outMsgs ++ [({ link := k, dst := l.peerAddr, bytes := bytesOfNat 2 l.expected } : OutMsg)] }
      .next (s.updLink k (fun l => { l with crcFail := satAdd 16 l.crcFail 1, discarding := true, naks := l.naks + 1 }))
    else
      let s := s.updLink k (fun l => { l with lastFlit := s.now })
      if f.seq = l.expected then
        .next ((s.updLink k (fun l => { l.credited f.credits with
          expected := (l.expected + 1) % 4096, discarding := false, rx := l.rx + BitVec.ofNat 64 f.bytes,
          unacked := ackUpTo f.ack l.unacked })).pumpLink k)
      else .next s

/-- NAK_RECEIVE: flits before the named one have arrived; the sender replays from that flit, and retrains the link when that
is the 16th replay within 1 ms. -/
def execNakReceive (k seq : Nat) (s : State) : Host.Outcome State Fault Refusal :=
  let l := s.link k
  if !l.carries then .next s
  else
    let times := (l.replayTimes ++ [s.now]).filter (fun t => decide (s.now < t + 1000000))
    let s := s.updLink k (fun l => { l with
      replay := satAdd 16 l.replay 1, replayTimes := times, unacked := nakFrom seq l.unacked })
    .next (if 16 ≤ times.length then retrainLink k s else (s.replayLink k).pumpLink k)

/-! ### States and training (12 R389, R391, R392) -/

/-- LINK_SILENCE_TIMEOUT: 2 ms after its last valid flit a link goes DOWN. One whose module is gone stays DISABLED. -/
def execLinkSilenceTimeout (k : Nat) (s : State) : Host.Outcome State Fault Refusal :=
  let l := s.link k
  if l.carries || l.joined then
    let s := advanceTo (l.lastFlit + 2000000) s
    .next (linkDown k (if l.state == .disabled then .disabled else .down) s)
  else .next s

/-- The link may train: present, enabled, not fenced, with power on both its dies, a module that is ready and not draining, and at least
four wavelengths. -/
def State.mayTrain (s : State) (k : Nat) : Bool :=
  s.variant.hasLink k && (s.link k).enable && !(s.link k).fenced && s.linkPower k && (s.laser (k / 4)).ready &&
    !(s.laser (k / 4)).drain &&
    decide (s.deadWaves k ≤ 5)

/-- Stage LINKS has enabled the links (15 R464). -/
def State.linksOn (s : State) : Bool := s.start.phase == .ready || (s.start.phase == .running && decide (8 ≤ s.start.stage))

/-- LINK_TRAINING_RETRY: a DOWN link that sees a peer signal starts training. -/
def execLinkTrainingRetry (k : Nat) (signal : Bool) (s : State) : Host.Outcome State Fault Refusal :=
  let l := s.link k
  if l.state == .down && s.linksOn && s.mayTrain k then
    let s := advanceTo l.retryAt s
    .next (s.updLink k (fun l => { l with state := if signal then .training else .down, retryAt := s.now + 10000000 }))
  else .next s

/-- Working wavelengths of a link, its spare among them, in the worse direction. -/
def State.working (s : State) (k : Nat) (p : PeerInfo) : Nat := min p.waves (9 - s.deadWaves k)

/-- The link as it is after training with `n` working wavelengths (12 R389, R391). -/
def Link.trained (l : Link) (n : Nat) (self : Bool) (p : PeerInfo) (now : Nat) : Link :=
  { l with
    state := if self && p.assigned then .up else .loc
    half := decide (n < 8), spareUsed := l.spareUsed || decide (n < 9)
    peerAddr := p.addr % 2 ^ 15, peerAssigned := p.assigned, peerLink := p.link % 32, peerNonce := p.nonce % 2 ^ 64
    peerId := p.digest % 2 ^ 64, oneWay := p.delayPs % 2 ^ 32, lastFlit := now, joined := true }

/-- A link in the drain of its module; `self` says that this package holds an address (12 R390, R391). -/
def Link.drain (on self : Bool) (l : Link) : Link :=
  if on then (if l.state == .up || l.state == .loc then { l with state := .draining } else l)
  else if l.state == .draining then { l with state := if self && l.peerAssigned then .up else .loc } else l

/-- Link `k` as a training with peer `p` leaves it; in the drain of its module it takes no new messages. -/
def State.trainedLink (s : State) (k : Nat) (p : PeerInfo) (l : Link) : Link :=
  let l := l.trained (s.working k p) s.gang.addr.isSome p s.now
  if (s.laser (k / 4)).drain then l.drain true s.gang.addr.isSome else l

/-- LINK_TRAINING_DONE: with fewer than four wavelengths in a direction the link stays DOWN; else it runs at eight or four, and
its ends exchange who they are. -/
def execLinkTrainingDone (k : Nat) (p : PeerInfo) (s : State) : Host.Outcome State Fault Refusal :=
  if (s.link k).state != .training || !s.linkPower k then .next s
  else
    let n := s.working k p
    if n < 4 then .next (linkDown k .down s)
    else
      let spared := decide (n < 9) && !(s.link k).spareUsed
      let s := (s.updLink k (s.trainedLink k p)).pumpLink k
      let s := if p.assigned then s.updPeer (p.addr % 2 ^ 15) (fun q => { q with down := false }) else s
      .next (if spared then fltPost 4 4 k noUnit 0 (if n < 8 then 4 else 8) (p.addr % 2 ^ 15) s else s)

/-- LINK_RETRAIN: a write of 1 to LINK_CTRL.RETRAIN. -/
def execLinkRetrain (k : Nat) (s : State) : Host.Outcome State Fault Refusal :=
  if (s.link k).carries then .next (retrainLink k s) else .next s

/-- A link leaves DISABLED when it is enabled and its module is seated, and waits for a peer signal. -/
def wakeLink (k : Nat) (s : State) : State :=
  let l := s.link k
  if l.state == .disabled && l.enable && (s.laser (k / 4)).present then
    s.updLink k (fun l => { l with state := .down, retryAt := s.now })
  else s

/-- LINK_ENABLE: a write to LINK_CTRL.ENABLE. -/
def execLinkEnable (k : Nat) (on : Bool) (s : State) : Host.Outcome State Fault Refusal :=
  if !s.variant.hasLink k then .next s
  else
    let s := s.updLink k (fun l => { l with enable := on })
    .next (if on then wakeLink k s else linkDown k .disabled s)

/-- Links on which a wavelength fails: one, or with its source the four of the laser module, as far as it worked on them (12 R389, R390). -/
def waveLinks (k : Nat) (f : WaveFault) (s : State) : List Nat :=
  let ks := if f.source then (upTo 4).map (fun j => 4 * (k / 4) + j) else [k]
  ks.filter (fun j => !(s.link j).failed.contains f.wave && (!f.source || bit (s.laser (j / 4)).sources f.wave))

/-- WAVELENGTH_FAILURE: the ledger records it, and each link that it fails on retrains: the spare takes the place of the first, and after
a further one the link runs at four (12 R389, R390; 15 R479). In reset nothing runs, and the flash has no supply (16 R494). -/
def execWavelengthFailure (k : Nat) (f : WaveFault) (s : State) : Host.Outcome State Fault Refusal :=
  let ks := waveLinks k f s
  if !s.vflash || !s.variant.hasLink k || ks.isEmpty then .next s
  else
    let s := ks.foldl (fun s j => appendRepair 8 0xFF j (f.wave + flagAt (decide (s.deadWaves j = 0)) 4) s) s
    let s := withCap (fun s =>
      if f.source then s.updLaser (k / 4) (fun m => { m with sources := m.sources &&& (0x1FF ^^^ 2 ^ f.wave) })
      else s.updLink k (fun l => { l with failed := insertNat f.wave l.failed })) s
    .next (ks.foldl (fun s j => if (s.link j).carries then retrainLink j s else s) s)

/-! ### Laser modules (12 R390; 16 R504) -/

/-- The links of a module. -/
def moduleLinks (n : Nat) : List Nat := (upTo 4).map (fun j => 4 * n + j)

/-- Messages that wait for a link which takes nothing new leave by another of their route; those without one stay (12 R390). -/
def State.divert (s : State) (k : Nat) : State :=
  let ws := (s.link k).waiting
  let s := s.updLink k (fun l => { l with waiting := [] })
  ws.foldl (fun s w => if (s.routeLinks w.dst).isEmpty then s.updLink k (fun l => { l with waiting := l.waiting ++ [w] })
    else s.sendTo w.chan w.dst w.size w.bytes) s

/-- LASER_DRAIN: a write to LASER_CTRL.DRAIN. New messages avoid the four links; at 0 they take messages again. -/
def execLaserDrain (n : Nat) (on : Bool) (s : State) : Host.Outcome State Fault Refusal :=
  if !s.variant.hasLink (4 * n) then .next s
  else
    let s := s.updLaser n (fun m => { m with drain := on, drained := m.drained && on })
    let s := (moduleLinks n).foldl (fun s k => s.updLink k (Link.drain on s.gang.addr.isSome)) s
    .next ((moduleLinks n).foldl (fun s k => if on then s.divert k else s.pumpLink k) s)

/-- LASER_DRAINED: every replay buffer of the four links is acknowledged. -/
def execLaserDrained (n : Nat) (s : State) : Host.Outcome State Fault Refusal :=
  if (s.laser n).drain && (moduleLinks n).all (fun k => (s.link k).unacked.isEmpty) then
    .next (s.updLaser n (fun m => { m with drained := true }))
  else .next s

/-- LASER_MODULE_INSERT: 50 ms after it is seated a module draws power; it is READY once its supply and sources are stable, and
its links wait for their peers. A module below power-good stays not READY. -/
def execLaserModuleInsert (n sources : Nat) (s : State) : Host.Outcome State Fault Refusal :=
  if !s.variant.hasLink (4 * n) || (s.laser n).present then .next s
  else
    let s := withCap (fun s => s.updLaser n (fun m => { m with present := true, sources, ready := s.powered (.laser n) })) s
    .next ((moduleLinks n).foldl (fun s k => wakeLink k s) s)

/-- LASER_MODULE_REMOVE: the four links carry nothing more. A package they alone led to is declared down 2 ms later. -/
def execLaserModuleRemove (n : Nat) (s : State) : Host.Outcome State Fault Refusal :=
  if !(s.laser n).present then .next s
  else
    let s := withCap (fun s => s.updLaser n (fun m => { m with present := false, ready := false, drained := false, sources := 0 })) s
    .next ((moduleLinks n).foldl (fun s k => (stopLink k .disabled s).updLink k (fun l => { l with lastFlit := s.now })) s)

/-! ### Messages of other packages (12 R386 to R388, R393, R395) -/

/-- The passage of the request that a message answers. -/
def answersPassage (m : FwdMsg) (p : Passage) : Bool := p.src == m.dst && p.dst == m.src && p.unit == m.unit && p.offset == m.offset

/-- Send an RQ message on, and keep its way for the response. -/
def forwardRq (m : FwdMsg) (s : State) : State :=
  match if (s.peer m.dst).down then none else s.hashLink m.dst m.unit m.offset with
  | none => s.respond ⟨m.src, m.arrival⟩ []
  | some k =>
    let p : Passage := ⟨m.src, m.dst, m.unit, m.offset, m.arrival⟩
    { s.emit k (chanRq + min m.hops 2) m.dst m.bytes [] with gang := { s.gang with passing := s.gang.passing ++ [p] } }

/-- Send an RS message back by the link its request came on. -/
def forwardRs (m : FwdMsg) (s : State) : State :=
  match s.gang.passing.find? (answersPassage m) with
  | some p =>
    let s := { s with gang := { s.gang with passing := s.gang.passing.erase p } }
    if s.linkOpen p.link then s.emit p.link (chanRs + min m.hops 2) m.dst m.bytes [] else s.sendTo (chanRs + min m.hops 2) m.dst m.bytes []
  | none => s.sendTo (chanRs + min m.hops 2) m.dst m.bytes []

/-- The link that GM_PATH names after `n` links: the last of them alone may be LOCAL (12 R391, R397). -/
def State.pathLink (s : State) (path n : Nat) : Option Nat :=
  let hops := bits path 25 24
  let k := bits path (8 * n + 4) (8 * n)
  let st := (s.link k).state
  if n < hops ∧ (st = .up ∨ (st = .loc ∧ n + 1 = hops)) then some k else none

/-- Send a management message on: by its path, or by the first link of its target's route. -/
def forwardMg (m : FwdMsg) (s : State) : State :=
  match if m.dst = 0x7FFF then s.pathLink m.path m.hops else (s.routeLinks m.dst).head? with
  | none => s.respond ⟨m.src, m.arrival⟩ []
  | some k => s.emit k chanMg m.dst m.bytes []

/-- MESSAGE_FORWARD: a message toward another package. One that would need a fourth link is dropped and logged, and its sender
gets an error response; an unassigned package drops every message. -/
def execMessageForward (m : FwdMsg) (s : State) : Host.Outcome State Fault Refusal :=
  if s.gang.addr.isNone || s.isSelf m.dst then .next s
  else if 3 ≤ m.hops then
    let s := fltPost 4 5 m.arrival noUnit 0 0 (s.link m.arrival).peerAddr s
    .next (s.respond ⟨m.src, m.arrival⟩ [])
  else match m.cls with
    | .mg => .next (forwardMg m s)
    | .rq => .next (forwardRq m s)
    | .rs => .next (forwardRs m s)

/-- What a request of another package does to this one's home memory (03 R87; 08 R277, R278). -/
def serveRemote (src : Origin) (r : RemoteReq) (s : State) : State :=
  match r with
  | .read addr len =>
    let a := lineOf (addr % 2 ^ 40)
    let n := (linesOf (addr % 2 ^ 40) len).length * 64
    s.serveRead src a n
  | .write addr data _ =>
    let a := addr % 2 ^ 40
    if a + data.length ≤ s.homeBytes then landWrite (some src) a data s
    else s.respond src []
  | .accumulate addr fp lanes =>
    let a := lineOf (addr % 2 ^ 40)
    if a + 64 ≤ s.homeBytes then
      s.sendAcc { own := false, src, tile := 0, core := 0, cmd := ⟨0, 0, 0⟩, word := 0, inst := 0, seg := 0, hint := 0, addr := a, fp32 := fp
                  attars := if fp then [] else lanes, terms := if fp then lanes.map Sys2Proof.Machine.fp32 else [], since := s.now
                  epoch := s.epochAt a, granule := s.granuleAt a }
    else s.respond src []

/-- An older write of a core that another one waits for: it has not arrived, or waits itself; one that has left the record of 4,096
numbers has been applied (12 R387, R388). -/
def State.awaits (s : State) (pkg seq prev : Nat) : Bool :=
  s.gang.waitWrites.any (fun w => w.src.pkg == pkg && w.seq == prev) ||
    (!(Table.get [] s.gang.seen pkg).contains prev && decide (seq < prev + 4096))

/-- Writes that waited are applied once the write before them has been, in turn: at most `n` of them. -/
def releaseWrites : Nat → State → State
  | 0, s => s
  | n + 1, s =>
    match s.gang.waitWrites.find? (fun w => !s.awaits w.src.pkg w.seq w.after) with
    | none => s
    | some w =>
      let s := { s with gang := { s.gang with waitWrites := s.gang.waitWrites.erase w } }
      releaseWrites n (serveRemote w.src (.write w.addr w.data none) s)

/-- Apply a request: a write of a host core after that core's older writes. -/
def applyRemote (src : Origin) (seq : Nat) (r : RemoteReq) (s : State) : State :=
  let now (s : State) : State := releaseWrites s.gang.waitWrites.length (serveRemote src r s)
  match r with
  | .write addr data (some prev) =>
    if s.awaits src.pkg seq prev then
      { s with gang := { s.gang with waitWrites := s.gang.waitWrites ++ [⟨src, seq, addr, data, prev⟩] } }
    else now s
  | _ => now s

/-- REMOTE_REQUEST: a destination applies an RQ message at most once, by the 4,096 most recent numbers of its source, and a core's
writes in the order of their numbers. -/
def execRemoteRequest (src : Origin) (seq : Nat) (r : RemoteReq) (s : State) : Host.Outcome State Fault Refusal :=
  let seen := Table.get [] s.gang.seen src.pkg
  if s.gang.addr.isNone || seen.contains seq then .next s
  else
    let kept := (seen ++ [seq]).drop (seen.length + 1 - 4096)
    .next (applyRemote src seq r { s with gang := { s.gang with seen := Table.put [] s.gang.seen src.pkg kept } })

end Sys2Proof.Machine
end

