-- ==== Sys2Proof/Machine/Gang.lean ====
section
/-! DEFINITION. Gang management (12 R393 to R400): the messages, what each does at its target, and the mailbox. -/

namespace Sys2Proof.Machine

/-! ### Messages (12 R397) -/

def gmType (m : List Byte) : Nat := fieldOf m 0 1
def gmLevel (m : List Byte) : Nat := fieldOf m 1 1
def gmTarget (m : List Byte) : Nat := fieldOf m 2 2 % 2 ^ 15
def gmPath (m : List Byte) : Nat := fieldOf m 4 4
def gmNonce (m : List Byte) : Nat := fieldOf m 8 8
def gmSeq (m : List Byte) : Nat := fieldOf m 0x10 4
def gmGang (m : List Byte) : Nat := fieldOf m 0x14 4
def gmValue (m : List Byte) : Nat := fieldOf m 0x18 8
def gmData (m : List Byte) : List Byte := sliceBytes m 0x20 32

/-- GANG_MB.RESULT of a refused message. -/
def gmBadSig : Nat := 1
def gmStale : Nat := 2
def gmNoRoute : Nat := 3
def gmRefused : Nat := 4
def gmAbsent : Nat := 5
def gmNoAnswer : Nat := 6

/-- The signature over bytes 0x00 to 0x3F verifies under a gang-manager key of the start image (12 R394, R397). -/
def State.gangSigned (s : State) (m : List Byte) : Bool :=
  s.start.image.keys.any (fun k => sm2Verify ⟨k.1, k.2⟩ (sm3 (sliceBytes m 0 64)) (sliceBytes m 64 64))

/-- GM_NONCE is the start nonce, and GM_SEQ is above every one accepted; ASSIGN is exempt from the latter. -/
def State.gangFresh (s : State) (m : List Byte) : Bool :=
  gmNonce m == s.gang.nonce && (gmType m == 1 || (match s.gang.lastSeq with
    | none => true
    | some q => decide (q < gmSeq m)))

/-- A LOCAL link carries ASSIGN and QUERY, and an unassigned package takes no others (12 R391, R393). -/
def isLocalType (type : Nat) : Bool := type == 1 || type == 9

/-- The message arrives at this package as its target: over a link that carries it, and addressed to it or at the end of its path; before
that end it is MESSAGE_FORWARD that takes it. -/
def State.gangArrives (s : State) (k type : Nat) (m : List Byte) : Bool :=
  let l := s.link k
  let carried := l.state == .up || l.state == .draining || (l.state == .loc && isLocalType type)
  let mine := match s.gang.addr with
    | some a => gmTarget m == a || gmTarget m == 0x7FFF
    | none => isLocalType type && gmTarget m == 0x7FFF
  s.variant.gangs && gmType m == type && carried && mine

/-- What a signed message's checks give before its effect: none where it may apply. -/
def State.gangCheck (s : State) (m : List Byte) : Option Nat :=
  if !s.gangSigned m then some gmBadSig else if !s.gangFresh m then some gmStale else none

/-- Note an accepted message's GM_SEQ; ASSIGN has none to note. -/
def noteSeq (m : List Byte) (s : State) : State :=
  if gmType m == 1 then s else { s with gang := { s.gang with lastSeq := some (gmSeq m) } }

/-- Apply a message at its target; the RESULT that its sender gets comes second. `f` answers none where the target's state
refuses it. -/
def applySigned (m : List Byte) (f : State → Except Nat State) (s : State) : State × Nat :=
  match s.gangCheck m with
  | some c => (s, c)
  | none => match f s with
    | .error c => (s, c)
    | .ok s => (noteSeq m s, 0)

/-- A refused message is logged with its reason (15 R487). -/
def refuseMsg (k : Nat) (r : State × Nat) : State := if r.2 = 0 then r.1 else fltPost 0x0B 4 k noUnit 0 r.2 0 r.1

/-- A signed message of a type arrives on a link. -/
def signedMsg (type k : Nat) (m : List Byte) (f : State → Except Nat State) (s : State) : Host.Outcome State Fault Refusal :=
  if s.gangArrives k type m then .next (refuseMsg k (applySigned m f s)) else .next s

/-! ### Addresses and routes (12 R394, R395) -/

/-- A LOCAL link whose peer is assigned comes UP once this package is, and an UP link goes back to LOCAL (12 R391). -/
def relinkAddr (assigned : Bool) (s : State) : State :=
  (upTo 32).foldl (fun s k => s.updLink k (fun l =>
    if assigned && l.state == .loc && l.peerAssigned then { l with state := .up }
    else if !assigned && l.state == .up then { l with state := .loc } else l)) s

/-- ASSIGN: an unassigned package takes the address. -/
def doAssign (m : List Byte) (s : State) : Except Nat State :=
  let a := gmValue m % 2 ^ 15
  if s.gang.addr.isSome ∨ a = 0x7FFF then .error gmRefused
  else .ok (relinkAddr true (withCap (fun s => { s with gang := { s.gang with addr := some a } }) s))

/-- The package belongs to no gang. -/
def State.inNoGang (s : State) : Bool := s.gang.levels.all (fun l => !l.formed)

/-- UNASSIGN: only while the package belongs to no gang. -/
def doUnassign (s : State) : Except Nat State :=
  if s.gang.addr.isNone || !s.inNoGang then .error gmRefused
  else .ok (relinkAddr false (withCap (fun s => { s with gang := { s.gang with addr := none } }) s))

/-- Bits of a route entry that hold something. -/
def routeMask : Nat := 0x803FFFFF

/-- ROUTE: eight consecutive entries; those beyond the table are dropped. A package that has a route again is not down. -/
def doRoute (m : List Byte) (s : State) : Except Nat State :=
  let first := gmValue m % 2 ^ 15
  .ok ((upTo 8).foldl (fun s i =>
    let e := fieldOf (gmData m) (4 * i) 4 &&& routeMask
    if 2 ^ 15 ≤ first + i then s
    else
      let s := { s with gang := { s.gang with routes := Table.put 0 s.gang.routes (first + i) e } }
      if (s.routeLinks (first + i)).isEmpty then s else s.updPeer (first + i) (fun p => { p with down := false })) s)

/-! ### Membership (12 R398 to R400) -/

/-- A gang level of this package. -/
def State.level (s : State) (l : Nat) : Level := s.gang.levels.getD (l - 1) {}

/-- Change a gang level. -/
def State.setLevel (s : State) (l : Nat) (x : Level) : State :=
  { s with gang := { s.gang with levels := setAt s.gang.levels (l - 1) x } }

/-- A level that a message may name. -/
def levelOk (l : Nat) : Bool := l == 1 || l == 2 || l == 3

/-- Insert every number of a list. -/
def insertAll (xs l : List Nat) : List Nat := xs.foldl (fun l x => insertNat x l) l

/-- The packages of a range. -/
def rangePkgs (r : Nat × Nat) : List Nat := (upTo (r.2 + 1 - r.1)).map (fun i => r.1 + i)

/-- The members of block `b` in a bitmap. -/
def blockPkgs (b : Nat) (data : List Byte) : List Nat :=
  ((upTo 256).filter (fun i => bit (natOfBytes data) i)).map (fun i => 256 * b + i)

/-- The used ranges of a FORM message. -/
def formRanges (data : List Byte) : List (Nat × Nat) :=
  ((upTo 8).map (fun i => (fieldOf data (4 * i) 2, fieldOf data (4 * i + 2) 2))).filter (fun r => decide (r.1 ≤ r.2))

/-- A level with more members. -/
def Level.record (l : Level) (pkgs : List Nat) (ranges : List (Nat × Nat)) : Level :=
  { l with members := insertAll pkgs l.members, ranges := l.ranges ++ ranges.filter (fun r => !l.ranges.contains r) }

/-- FORM: records membership for a gang not formed yet; a block replaces what was recorded of it, and another gang's identity
starts the record anew. -/
def doForm (m : List Byte) (s : State) : Except Nat State :=
  let n := gmLevel m
  let l := s.level n
  if !levelOk n || l.formed then .error gmRefused
  else
    let l := if l.gang = gmGang m then l else { gang := gmGang m }
    let b := gmValue m % 2 ^ 16
    if n = 1 then
      .ok (s.setLevel 1 ({ l with members := l.members.filter (fun p => decide (p / 256 ≠ b)) }.record (blockPkgs b (gmData m)) []))
    else
      let rs := formRanges (gmData m)
      .ok (s.setLevel n (l.record (rs.flatMap rangePkgs) rs))

/-- Members of the level below: packages at level 1, ranges above it. -/
def Level.memberCount (l : Level) (n : Nat) : Nat := if n = 1 then l.members.length else l.ranges.length

/-- Station time set outright by FORM_END or JOIN of the outermost gang (12 R405): the source keeps its time, counted from the new
epoch if it holds a reference; another member takes the source's time, which is free here within the agreement of R401 where it
followed that source before. -/
def setGangTime (old : Nat) (followed : Bool) (s : State) : State :=
  if s.time.isSource then (if s.time.refOk then setTai (s.now + old * 1000000000) s.epoch s else s)
  else
    let (v, s) := s.draw
    setTime (if followed then s.now + v % 81 - 40 else v) s

/-- FORM_END: forms the gang if the counts match, sets station time where the level is the outermost, and sends READY. -/
def doFormEnd (m : List Byte) (s : State) : Except Nat State :=
  let n := gmLevel m
  let l := s.level n
  let d := gmData m
  if !levelOk n || l.formed || l.gang != gmGang m || fieldOf d 0 2 != l.members.length || fieldOf d 2 2 != l.memberCount n then
    .error gmRefused
  else
    let old := s.epoch
    let s := withCap (fun s => s.setLevel n { l with formed := true, epoch := gmValue m % 2 ^ 48 }) s
    let s := { s with gang := { s.gang with left := s.gang.left.filter (fun p => !l.members.contains p) } }
    let s := if s.outerLevel == some n then setGangTime old false (chooseSource s) else s
    .ok ((l.members.filter (fun p => !s.isSelf p)).foldl (fun s p => s.sendTo chanMg p 128 (deviceMsg 0x0C n p (gmGang m) (s.gang.addr.getD 0) [])) s)

/-- The package of level 1, or the packages of the range, that a JOIN or LEAVE names. -/
def joinPkgs (n : Nat) (m : List Byte) : List Nat :=
  if n = 1 then [gmValue m % 2 ^ 15] else rangePkgs (gmValue m % 2 ^ 16, gmValue m / 2 ^ 16 % 2 ^ 16)

/-- The range that a JOIN or LEAVE names at levels 2 and 3. -/
def joinRange (n : Nat) (m : List Byte) : List (Nat × Nat) :=
  if n = 1 then [] else [(gmValue m % 2 ^ 16, gmValue m / 2 ^ 16 % 2 ^ 16)]

/-- The level is formed as the gang that a message names. -/
def Level.is (l : Level) (m : List Byte) : Bool := l.formed && l.gang == gmGang m

/-- JOIN: adds a member; of the outermost gang it sets station time. -/
def doJoin (m : List Byte) (s : State) : Except Nat State :=
  let n := gmLevel m
  if !levelOk n || !(s.level n).is m then .error gmRefused
  else
    let ps := joinPkgs n m
    let s := withCap (fun s => s.setLevel n ((s.level n).record ps (joinRange n m))) s
    let s := { s with gang := { s.gang with left := s.gang.left.filter (fun p => !ps.contains p) } }
    .ok (if s.outerLevel == some n then setGangTime s.epoch true s else s)

/-- LEAVE: the member is leaving until LEAVE_EFFECT. -/
def doLeave (m : List Byte) (s : State) : Except Nat State :=
  let n := gmLevel m
  let l := s.level n
  let ps := joinPkgs n m
  if !levelOk n || !l.is m || !ps.all l.members.contains || ps.isEmpty then .error gmRefused
  else .ok (s.setLevel n { l with leaving := insertAll ps l.leaving, ranges := l.ranges.filter (fun r => !(joinRange n m).contains r) })

/-- Terminate the contexts of the gangs at a level and above (12 R400). -/
def endGangCtxs (n : Nat) (s : State) : State := terminateIf (fun _ c => c.desc.kind == 4 && decide (n ≤ c.desc.index)) s

/-- This package's gangs at a level and above end. -/
def endLevels (n : Nat) (s : State) : State :=
  let s := endGangCtxs n s
  let was := s.outerLevel
  let s := withCap (fun s => (([1, 2, 3].filter (fun l => decide (n ≤ l))).foldl (fun s l => s.setLevel l {}) s)) s
  let s := if s.outerLevel.isNone then { s with time := { s.time with isSource := false, hops := 0 } } else s
  if was == s.outerLevel then s else settleTime s

/-- An in-flight command of the gang level that has a package among its members. -/
def State.gangWork (s : State) (n pkg : Nat) : Bool :=
  s.ctxs.any (fun c => c.2.desc.kind == 4 && c.2.desc.index == n && c.2.entries.any (fun e => !e.isFinished && e.members.contains pkg))

/-- LEAVE_EFFECT: no in-flight command of the gang has work on the leaving member any more. A package that leaves itself ends its
gangs from that level up. -/
def execLeaveEffect (n pkg : Nat) (s : State) : Host.Outcome State Fault Refusal :=
  let l := s.level n
  if !levelOk n || !l.formed || !l.leaving.contains pkg || s.gangWork n pkg then .next s
  else if s.isSelf pkg then .next (endLevels n s)
  else
    let out (x : List Nat) : List Nat := x.filter (fun p => p != pkg)
    let s := withCap (fun s => s.setLevel n { l with members := out l.members, ready := out l.ready, leaving := out l.leaving }) s
    let s := { s with gang := { s.gang with left := insertNat pkg s.gang.left } }
    .next (if s.outerLevel == some n then chooseSource s else s)

/-- DISSOLVE: ends the gang at this level and every level above it. -/
def doDissolve (m : List Byte) (s : State) : Except Nat State :=
  let n := gmLevel m
  if !levelOk n || !(s.level n).is m then .error gmRefused else .ok (endLevels n s)

/-! ### Queries and the device's own messages (12 R397 to R399) -/

/-- LINK_STAT.STATE code (12 R391). -/
def LinkState.code : LinkState → Nat
  | .disabled => 0 | .down => 1 | .training => 2 | .loc => 3 | .up => 4 | .draining => 5

/-- LINK_STAT of a link. -/
def Link.stat (l : Link) : Nat :=
  l.state.code + flagAt l.half 3 + flagAt l.spareUsed 4 + l.peerAddr * 2 ^ 8 + flagAt l.peerAssigned 23 + l.peerLink * 2 ^ 24

/-- QUERY: LINK_STAT, LINK_PEER_ID and the peer's start nonce go back as a REPLY over the link the query came on. -/
def doQuery (k : Option Nat) (m : List Byte) (s : State) : Except Nat State :=
  let q := gmValue m % 32
  if !s.variant.hasLink q then .error gmAbsent
  else
    let l := s.link q
    let data := bytesOfNat 8 l.stat ++ bytesOfNat 8 l.peerId ++ bytesOfNat 8 l.peerNonce
    match k with
    | some k =>
      let dst := (s.link k).peerAddr
      let m := deviceMsg 0x0A 0 dst 0 q data
      .ok (if (s.link k).takesNew chanMg then s.emit k chanMg dst 128 m else s.sendTo chanMg dst 128 m)
    | none => .ok (deliver (deviceMsg 0x0A 0 (s.gang.addr.getD 0) 0 q data) s)
where
  /-- A message reaches the mailbox, where it is free. -/
  deliver (m : List Byte) (s : State) : State :=
    if s.gang.rxValid then s else { s with gang := { s.gang with rx := m, rxValid := true } }

/-- ASSIGN (12 R394). -/
def execAssign (k : Nat) (m : List Byte) (s : State) : Host.Outcome State Fault Refusal := signedMsg 1 k m (doAssign m) s
/-- UNASSIGN (12 R394). -/
def execUnassign (k : Nat) (m : List Byte) (s : State) : Host.Outcome State Fault Refusal := signedMsg 2 k m doUnassign s
/-- ROUTE (12 R395). -/
def execRoute (k : Nat) (m : List Byte) (s : State) : Host.Outcome State Fault Refusal := signedMsg 3 k m (doRoute m) s
/-- FORM (12 R398). -/
def execForm (k : Nat) (m : List Byte) (s : State) : Host.Outcome State Fault Refusal := signedMsg 4 k m (doForm m) s
/-- FORM_END (12 R399). -/
def execFormEnd (k : Nat) (m : List Byte) (s : State) : Host.Outcome State Fault Refusal := signedMsg 5 k m (doFormEnd m) s
/-- JOIN (12 R400). -/
def execJoin (k : Nat) (m : List Byte) (s : State) : Host.Outcome State Fault Refusal := signedMsg 6 k m (doJoin m) s
/-- LEAVE (12 R400). -/
def execLeave (k : Nat) (m : List Byte) (s : State) : Host.Outcome State Fault Refusal := signedMsg 7 k m (doLeave m) s
/-- DISSOLVE (12 R398). -/
def execDissolve (k : Nat) (m : List Byte) (s : State) : Host.Outcome State Fault Refusal := signedMsg 8 k m (doDissolve m) s
/-- QUERY (12 R398). -/
def execQuery (k : Nat) (m : List Byte) (s : State) : Host.Outcome State Fault Refusal := signedMsg 9 k m (doQuery (some k) m) s

/-- A message of a device arrives on a link in state UP (12 R397). -/
def deviceArrives (type k : Nat) (m : List Byte) (s : State) : Bool :=
  (s.link k).state == .up && gmType m == type && s.gang.addr == some (gmTarget m)

/-- REPLY: the answer is delivered to the mailbox. -/
def execReply (k : Nat) (m : List Byte) (s : State) : Host.Outcome State Fault Refusal :=
  if deviceArrives 0x0A k m s then .next (doQuery.deliver m s) else .next s

/-- A link of another package is down: of the requests that are not answered and go farther than the next package, those whose path it
was on leave again by another route. Which of them went that way is free: this package knows its own link of a path alone (12 R387;
log 107). -/
def farLinkDown (s : State) : State :=
  (s.gang.kept.filter (fun r => (s.link r.link).peerAddr != r.msg.dst)).foldl (fun s r =>
    let (v, s) := s.draw
    if v % 2 = 1 then s.resend r.link r else s) s

/-- DOWN: a package is declared down, or a link of another package is (12 R392, R398). -/
def execDown (k : Nat) (m : List Byte) (s : State) : Host.Outcome State Fault Refusal :=
  if !deviceArrives 0x0B k m s then .next s
  else .next (if bit (gmValue m) 15 then farLinkDown s else peerDown (gmValue m % 2 ^ 15) s.now s)

/-- READY: its sender, GM_VALUE[14:0], is in service in the gang from now on; what it reports of itself, its home memory with
it, is free (02 R76; 03 R87). -/
def execReady (k : Nat) (m : List Byte) (s : State) : Host.Outcome State Fault Refusal :=
  let n := gmLevel m
  let l := s.level n
  let p := gmValue m % 2 ^ 15
  if deviceArrives 0x0C k m s && levelOk n && l.gang == gmGang m && l.members.contains p then
    let (cap, s) := s.freeBytes 256
    let s := withCap (fun s =>
      (s.updPeer p (fun q => { q with down := false, cap, homeBytes := fieldOf cap 0x28 8 })).setLevel n { l with ready := insertNat p l.ready }) s
    .next (if s.outerLevel == some n then chooseSource s else s)
  else .next s

/-! ### The mailbox (12 GANG_MB) -/

/-- Apply a message that this package sends to itself. -/
def applyMsg (m : List Byte) (s : State) : State × Nat :=
  match gmType m with
  | 1 => applySigned m (doAssign m) s
  | 2 => applySigned m doUnassign s
  | 3 => applySigned m (doRoute m) s
  | 4 => applySigned m (doForm m) s
  | 5 => applySigned m (doFormEnd m) s
  | 6 => applySigned m (doJoin m) s
  | 7 => applySigned m (doLeave m) s
  | 8 => applySigned m (doDissolve m) s
  | 9 => applySigned m (doQuery none m) s
  | _ => (s, gmRefused)

/-- The first link of a message's way: of the target's route, or of GM_PATH, whose last link alone may be LOCAL. -/
def State.gangLink (s : State) (m : List Byte) : Option Nat :=
  if gmTarget m ≠ 0x7FFF then (if s.reachable (gmTarget m) then (s.routeLinks (gmTarget m)).head? else none)
  else s.pathLink (gmPath m) 0

/-- A neighbour that took ASSIGN or UNASSIGN tells its address, or its absence, over the link that joins it (12 R391). -/
def State.tellPeer (m : List Byte) (k : Nat) (s : State) : State :=
  let near := gmTarget m == 0x7FFF && bits (gmPath m) 25 24 == 1
  if gmType m = 1 ∧ near = true then
    let a := gmValue m % 2 ^ 15
    (s.updLink k (fun l => { l with peerAssigned := true, peerAddr := a, state := if l.state == .loc then .up else l.state })).updPeer a
      (fun p => { p with down := false })
  else if gmType m = 2 then
    let a := if near then (s.link k).peerAddr else gmTarget m
    (upTo 32).foldl (fun s j => s.updLink j (fun l =>
      if l.peerAssigned && l.peerAddr == a then { l with peerAssigned := false, peerAddr := 0, state := if l.state == .up then .loc else l.state }
      else l)) s
  else s

/-- What an answer of a message's target tells this package: RESULT 0 says that the message was accepted. -/
def State.answered (m : List Byte) (k answer : Nat) (s : State) : State := if answer = 0 then s.tellPeer m k else s

/-- GANG_SEND: the message in GANG_TX goes to its target, whose answer becomes RESULT. -/
def execGangSend (answer : Nat) (s : State) : Host.Outcome State Fault Refusal :=
  let done (r : Nat) (s : State) : State := { s with gang := { s.gang with result := r, busy := false } }
  let m := s.gang.tx
  if !s.variant.gangs then .next s
  else if s.gang.addr.isNone then .next (done gmNoRoute s)
  else if s.isSelf (gmTarget m) then
    let r := applyMsg m s
    .next (done r.2 r.1)
  else match s.gangLink m with
    | none => .next (done gmNoRoute s)
    | some k =>
      let s := (s.emit k chanMg (gmTarget m) 128 m).answered m k (answer % 7)
      .next (done (answer % 7) (if answer = gmNoAnswer then advanceTo (s.now + 1000000) s else s))

end Sys2Proof.Machine
end

