-- ==== Sys2Proof/Machine/Pins.lean ====
section
/-! DEFINITION. The I3C address assignment (12 R396) and the JTAG instructions (16 R502, R503). -/

namespace Sys2Proof.Machine

/-! ### I3C -/

/-- The I3C target answers: I/O die 0 has power and PKG_RESET_N is high. -/
def State.i3cOn (s : State) : Bool := s.domains.any (fun d => d.dom == .io0 && d.live && !d.lost) && !s.resetLow

/-- Provisional ID, BCR 0x06 and DCR 0x00, as an ENTDAA reads them. -/
def State.provisional (s : State) : Nat :=
  ((Config.mipiId % 2 ^ 15) * 2 ^ 33 + s.variant.part * 2 ^ 16 + s.i3c.strap * 2 ^ 12) * 2 ^ 16 + 0x06 * 2 ^ 8

/-- ENTDAA: a package without a dynamic address sends its provisional ID and takes the address. -/
def execEntdaa (addr : Nat) (s : State) : Host.Outcome State Fault Refusal :=
  if s.i3cOn && s.i3c.dynamic.isNone then .next { s with i3c := { s.i3c with dynamic := some (addr % 128), hotJoin := false }, bus := s.provisional }
  else .next s

/-- SETDASA: from the static address 0x30 + ADDR_STRAP[3:0]. -/
def execSetdasa (static addr : Nat) (s : State) : Host.Outcome State Fault Refusal :=
  if s.i3cOn && s.i3c.dynamic.isNone && decide (static = 0x30 + s.i3c.strap % 16) then
    .next { s with i3c := { s.i3c with dynamic := some (addr % 128), hotJoin := false } }
  else .next s

/-- SETNEWDA. -/
def execSetnewda (old addr : Nat) (s : State) : Host.Outcome State Fault Refusal :=
  if s.i3cOn && s.i3c.dynamic == some old then .next { s with i3c := { s.i3c with dynamic := some (addr % 128) } } else .next s

/-! ### JTAG -/

/-- The TAP of an I/O die. -/
def State.tap (s : State) (die : Nat) : Tap := s.taps.getD die {}

/-- The TAP works whenever its die's domain has power. -/
def State.tapOn (s : State) (die : Nat) : Bool :=
  s.domains.any (fun d => d.dom == (if die = 0 then Domain.io0 else Domain.io1) && d.live && !d.lost)

/-- Change a TAP that has power. -/
def tapDo (die : Nat) (f : Tap → Tap) (s : State) : Host.Outcome State Fault Refusal :=
  if s.tapOn die then .next { s with taps := setAt s.taps die (f (s.tap die)) } else .next s

/-- The bypass register selected: one bit of 0. -/
def Tap.bypass (t : Tap) : Tap := { t with instr := .bypass, shift := 0, driving := false }

/-- BYPASS. -/
def execBypass (die : Nat) (s : State) : Host.Outcome State Fault Refusal := tapDo die Tap.bypass s

/-- The IDCODE of an I/O die. -/
def idcodeOf (die : Nat) : Nat :=
  (Config.jtagVersion % 16) * 2 ^ 28 + (if die = 0 then 0xF8D0 else 0xF8D1) * 2 ^ 12 + (Config.jedecId % 2 ^ 11) * 2 + 1

/-- IDCODE. -/
def execIdcode (die : Nat) (s : State) : Host.Outcome State Fault Refusal :=
  tapDo die (fun t => { t with instr := .idcode, shift := idcodeOf die, driving := false }) s

/-- SAMPLE/PRELOAD: the pins go to the shift path and the value to the boundary register. -/
def execSamplePreload (die pins preload : Nat) (s : State) : Host.Outcome State Fault Refusal :=
  tapDo die (fun t => { t with instr := .sample, shift := pins, boundary := preload, driving := false }) s

/-- PKG_RESET_N rises: an EXTEST instruction is BYPASS from then on (16 R503). -/
def Tap.released (t : Tap) : Tap := if t.driving then t.bypass else t

/-- An EXTEST instruction: it drives the boundary register while PKG_RESET_N is low, and is BYPASS at any other time. -/
def extestAs (i : TapInstr) (die : Nat) (s : State) : Host.Outcome State Fault Refusal :=
  if s.resetLow then tapDo die (fun t => { t with instr := i, driving := true }) s else tapDo die Tap.bypass s

/-- EXTEST. -/
def execExtest (die : Nat) (s : State) : Host.Outcome State Fault Refusal := extestAs .extest die s
/-- EXTEST_PULSE. -/
def execExtestPulse (die : Nat) (s : State) : Host.Outcome State Fault Refusal := extestAs .extestPulse die s
/-- EXTEST_TRAIN. -/
def execExtestTrain (die : Nat) (s : State) : Host.Outcome State Fault Refusal := extestAs .extestTrain die s

end Sys2Proof.Machine
end

