-- ==== Sys2Proof/Machine/Mx.lean ====
section
/-! DEFINITION. The panes' ops: weight loads, streams, swaps and the sash (06 R194 to R207, R223; 05 R172 to R178). -/

namespace Sys2Proof.Machine

/-! ### Weight loads (06 R199) -/

/-- A pane op that failed drops a held partial without write-back (06 R223). -/
def Exec.dropOnFault (x : Exec) : Exec := if x.err.isSome then { x with i := { x.i with sash := none } } else x

/-- Load the shadow set: it counts as empty from the first byte and full once the last has arrived. -/
def loadWeights (x : Exec) : Exec :=
  let a := x.opnd 0
  let rd := a.ranges 0 128
  let x := (x.raceBefore .mx rd).touchSash rd []
  let x := { x with i := { x.i with shadow := {}, shadowFull := false } }
  let (x, data) := x.rd a.od.where_ a.off 16384
  let (x, scales) : Exec × List Byte := match a.sc with
    | some (s, off) => x.rd s.where_ off 1024
    | none => (x, [])
  if x.err.isSome then x.dropOnFault
  else
    let scl := match a.sc with
      | some (_, off) => some off.toNat
      | none => none
    let w : WeightSet := { fmt := a.od.fmt?, data, scales, src := a.off.toNat, scl, num := x.num }
    ({ x with i := { x.i with shadow := w, shadowFull := true } } : Exec).raceAfter .mx rd [] true

/-- MX_WLOAD as an op: it may begin once every earlier MX op has started (06 R200). -/
def wloadImpl : OpImpl :=
  { eng := .mx, early := true
    plan := fun x => ((x.opnd 0).ranges 0 128, [])
    start := fun x o => (loadWeights x, o) }

/-- MX_WLOAD. -/
def execMxWload (t c : Nat) (s : State) : Host.Outcome State Fault Refusal := issueOrStart 0x0C01 wloadImpl t c s

/-! ### Streams (04 R156; 06 R195 to R205) -/

/-- The weights of output column `j`: values of weight-tile row `j`; the +0 set otherwise (06 R195, R198). -/
def WeightSet.column (w : WeightSet) (k j : Nat) : List Num :=
  match w.fmt with
  | none => List.replicate k Num.zero
  | some f =>
    valuesOf f 0 (unpack f.bits k (sliceBytes w.data (128 * j) 128)) ((sliceBytes w.scales (8 * j) 8).map (fun b => b.toNat))

/-- The pass value of one column, and whether a term or sum saturates (05 R172 to R175, R191; 06 R195). -/
def passValue (anchor : Int) (as ws : List Num) : Attar × Bool :=
  (as.zip ws).foldl (fun r p =>
    let term := enter anchor (Num.mul p.1 p.2)
    let sum := Attar.add r.1 term
    (sum, r.2 || term.isSat || sum.isSat)) (.num 0, false)

/-- What a stream works with: its operands, its weight columns, its anchor, its mode and its partial. -/
structure Stream where
  a      : Opnd
  b      : Option Opnd
  c      : Opnd
  cols   : List (List Num)
  anchor : Int
  mode   : Mode
  /-- The values of the stream are unspecified (04 R156). -/
  open_  : Bool

/-- The partial of a stream: B, or an ATTAR C. -/
def Stream.partial_ (p : Stream) : Option Opnd := match p.b with
  | some b => some b
  | none => if p.c.od.isAttar then some p.c else none

/-- A partial is eligible for the sash (06 R204). -/
def Opnd.eligible (o : Opnd) : Bool := o.od.ls && o.od.isAttar && o.od.rank == 2 && decide (o.od.e1 ≤ 128) && decide (o.od.e0 ≤ 128)

/-- A held partial is the operand (06 R204). -/
def Sash.is (p : Sash) (o : Opnd) : Bool :=
  (p.off : Int) == o.off && p.cols == o.od.e0 && p.rows == o.od.e1 && p.stride == o.od.stride1 && p.anchor == o.od.anchor

/-- The sash holds the operand. -/
def Inst.holds (i : Inst) (o : Opnd) : Bool := match i.sash with
  | some p => p.is o
  | none => false

/-- The active weights are of the stream's class and permitted for it (04 R156; 05 R178). -/
def weightsFit (w : WeightSet) (a : Fmt) (fixed : Bool) : Bool :=
  match w.fmt with
  | none => true
  | some f => f.paneClass == a.paneClass && (!fixed || fixedFmt f)

/-- The stream at the word being executed. -/
def Exec.stream (x : Exec) : Stream :=
  let a := x.opnd 0
  let b := if wordUses x.w 1 then some (x.opnd 1) else none
  let c := x.opnd 2
  let k := a.od.e0
  let fixed := b.isNone && !c.od.isAttar
  let anchor := match b with
    | some b => b.od.anchor
    | none => if c.od.isAttar then c.od.anchor else if a.od.fmt.paneClass == some .c4 then 6 else 31
  { a, b, c, anchor, mode := modeOf (wordFlags x.w) 1
    cols := (upTo 128).map (fun j => x.i.active.column k j)
    open_ := !weightsFit x.i.active a.od.fmt fixed }

/-- Row `r` of the partial before this pass: from the sash where it holds it, else from the local store. -/
def Stream.before (p : Stream) (x : Exec) (r : Nat) : Exec × List Attar :=
  match p.b with
  | none => (x, [])
  | some b =>
    match x.i.sash with
    | some h =>
      if h.is b then (x, ((h.vals.getD r []).map Attar.ofCode))
      else let (x, cs) := x.rdLine b r; (x, cs.map Attar.ofCode)
    | none => let (x, cs) := x.rdLine b r; (x, cs.map Attar.ofCode)

/-- Free codes for a line of an operand. -/
def Exec.freeLine (x : Exec) (o : Opnd) : Exec × List Nat :=
  let (bs, s) := x.s.freeBytes o.od.rowBytes
  ({ x with s }, unpack o.od.fmt.bits o.od.e0 bs)

/-- The results of a row go where R205 puts them: into the sash, into local-store attars, or rounded into C. -/
def Stream.put (p : Stream) (intoSash : Bool) (x : Exec) (r : Nat) (vs : List Attar) : Exec :=
  if p.open_ then
    let (x, cs) := x.freeLine p.c
    if intoSash then { x with i := { x.i with sash := x.i.sash.map (fun h => { h with vals := h.vals.set r cs, dirty := true }) } }
    else match p.c.sc with
      | none => x.wrLine p.c r cs []
      | some (d, _) =>
        let (bs, s) := x.s.freeBytes d.rowBytes
        { x with s }.wrLine p.c r cs (bs.map BitVec.toNat)
  else if intoSash then
    { x with i := { x.i with sash := x.i.sash.map (fun h => { h with vals := h.vals.set r (vs.map Attar.toCode), dirty := true }) } }
  else if p.c.od.isAttar then x.wrLine p.c r (vs.map Attar.toCode) []
  else x.wrVals p.c p.mode r (vs.map (Attar.value p.anchor))

/-- Local-store bytes of a row of the stream (06 R208): its activations and scales, its row of B where that is read from the local store,
and its row of C where that is written there. -/
def Stream.rowBytes (p : Stream) (intoSash readB : Bool) : Nat :=
  let e0 := p.c.od.e0
  128 + (if p.a.od.isMx then 8 else 0) + (if readB then 16 * e0 else 0) +
    (if intoSash then 0 else p.c.od.rowBytes + (if p.c.od.isMx then e0 / 32 else 0))

/-- One row: read, multiplied by all 128 columns, those that C keeps added to the partial and put away (06 R202, R195). -/
def Stream.row (p : Stream) (intoSash : Bool) (bytes : Nat) (x : Exec) (r : Nat) : Exec :=
  if x.err.isSome then x else
  let (x, av) := x.rdVals p.a r
  let (x, bv) := p.before x r
  if x.err.isSome then x
  else
    let pass := p.cols.map (passValue p.anchor av)
    let kept := pass.take p.c.od.e0
    let sums := if p.b.isSome then (kept.zip bv).map (fun q => (Attar.add q.2 q.1.1, q.1.2 || Attar.addSaturates q.2 q.1.1)) else kept
    let sat := pass.any (fun q => q.2) || sums.any (fun q => q.2)
    let x := { x with k := x.k.issueRow (x.k.cycle x.s.clk.ac) bytes, sat := x.sat || (sat && !p.open_) }
    p.put intoSash x r (sums.map (fun q => q.1))

/-- The rows `r0` to `r0 + n − 1` of the stream (06 R205, R206). A partial held by another operand is written back and
released where this stream takes its own. An eligible partial has at most 128 rows, so a stream that takes one does so in
one group of rows. -/
def streamBody (x : Exec) (r0 n : Nat) : Exec :=
  let p := x.stream
  let intoSash := p.c.od.isAttar && p.c.eligible
  let held := match p.partial_ with
    | some o => x.i.holds o
    | none => false
  let reads := p.a.ranges r0 n ++ (if held then [] else match p.b with
    | some b => b.ranges r0 n
    | none => [])
  let writes := if intoSash then [] else p.c.ranges r0 n
  let x := x.touchSash reads writes
  let bytes := p.rowBytes intoSash (p.b.isSome && !held)
  if intoSash && !held then
    let x := x.writeBack
    let fresh : Sash := ⟨p.c.off.toNat, p.c.od.e0, p.c.od.e1, p.c.od.stride1, p.anchor, true, List.replicate p.c.od.e1 []⟩
    let x := { x with i := { x.i with sash := none } }
    -- every row of P is read from the local store as P is taken
    let (x, old) := (upTo p.c.od.e1).foldl (fun (q : Exec × List (List Attar)) r =>
      let (y, v) := p.before q.1 r
      (y, q.2 ++ [v])) (x, [])
    let x := { x with i := { x.i with sash := some { fresh with vals := old.map (fun v => v.map Attar.toCode) } } }
    ((List.range' r0 n).foldl (p.row true bytes) x).dropOnFault
  else ((List.range' r0 n).foldl (p.row intoSash bytes) x).dropOnFault

/-- MX_STREAM over its activation rows. -/
def streamRow : RowOp :=
  { rows := fun x => (x.opnd 0).od.lines
    plan := fun x r0 n =>
      ((x.opnd 0).ranges r0 n ++ (if wordUses x.w 1 then (x.opnd 1).ranges r0 n else []), (x.opnd 2).ranges r0 n)
    body := streamBody }

/-- A stream's rows issue on a warm or admitted core, after its SWAP (06 R200, R214); one that works tile by tile only starts here. -/
def streamReady (k : Core) (w : List Byte) (o : OpRec) : Bool := (k.warm || k.admitted || wordStep w) && (!wantsSwap w || o.swapped)

/-- MX_STREAM as an op. -/
def streamImpl : OpImpl := streamRow.impl .mx streamReady

/-- MX_STREAM. -/
def execMxStream (t c : Nat) (s : State) : Host.Outcome State Fault Refusal := issueOrStart 0x0C02 streamImpl t c s

/-- A stream that starts with its swap, its rows still to come. -/
def swapStart (x : Exec) (o : OpRec) : OpRec :=
  let rows := streamRow.rows x
  let o := { o with swapped := true, started := true, before := x.before }
  if wordStep x.w then { o with tiles := tilesOf rows } else { o with rows }

/-- STREAM_SWAP: the shadow set becomes active and the shadow set empty, once it is full and every earlier stream has issued
its last row; the stream starts with it (06 R200). -/
def execStreamSwap (t c : Nat) (s : State) : Host.Outcome State Fault Refusal :=
  let k := s.core t c
  match k.run with
  | none => .next s
  | some i =>
    match s.entry? i.cmd, i.unstarted .mx with
    | some e, some o =>
      if k.state == .running && e.phase == .running && wantsSwap (e.image.words.getD o.word []) && !o.swapped && i.shadowFull &&
          i.settled .mx then
        let n := swapStart (Exec.of s k i t c e o) o
        let i := { i with active := i.shadow, shadow := {}, shadowFull := false, swapOut := some i.active, ops := updOp n i.ops }
        .next ((s.setCore t c { k with run := some i }).settleCore t c)
      else .next s
    | _, _ => .next s

end Sys2Proof.Machine
end

