-- ==== Sys2Proof/Machine/TileStep.lean ====
section
/-! DEFINITION. TILE_STEP ops: one tile of 128 rows at a time (04 R142). -/

namespace Sys2Proof.Machine

/-- The row work of the ops that allow TILE_STEP (04 R155). -/
def stepRow (op : Nat) : Option RowOp :=
  if op = 0x0C02 then some streamRow
  else if op = 0x0801 ∨ op = 0x0802 ∨ op = 0x0804 then some movRow
  else none

/-- Read, write and finish tile `o.tile` of an op; its counts are in hand. -/
def runTile (r : RowOp) (eng : Engine) (x : Exec) (o : OpRec) : Exec × OpRec :=
  let rows := r.rows x
  let r0 := o.nextRow
  let before := if x.s.readsOf x.i o.word then o.before else x.before
  let next := 128 * (o.tile + 1)
  let x := r.run eng x r0 (min next rows - r0)
  let left := r.plan x next (rows - next)
  (x, { o with tile := o.tile + 1, reads := left.1, writes := left.2, mem := o.mem ++ x.mem, lastUse := o.lastUse ++ x.lastUse
               failed := x.err.isSome, before, sigDue := wordSigEn x.w })

/-- Make the per-tile signal of an op, or hold it at a full token; until the tile's reads are served it is due (04 R140, R142; 10
R329). -/
def signalTile (w : List Byte) (now : Nat) (reads : Bool) (i : Inst) (o : OpRec) : Inst × OpRec :=
  if o.sigDue && !o.failed && !reads then
    let n := wordSig w
    let o := { o with sigDue := false }
    if i.token n < 65535 then (i.signal n (o.tells w), { o with sigSince := none })
    else (i, { o with sigSince := some (o.sigSince.getD now) })
  else (i, o)

/-- The op of an engine that has tiles left, or a tile's signal to make. -/
def Inst.stepping (i : Inst) (eng : Engine) (words : List (List Byte)) : Option OpRec :=
  match i.ops.find? (fun o => o.eng == eng && o.started && (decide (o.tile < o.tiles) || o.sigDue || o.sigSince.isSome)) with
  | some o => if wordStep (words.getD o.word []) then some o else none
  | none => none

/-- TILE_STEP_WAIT: the op takes its count, works through its next tile and signals. A signal that was held by a full
token is made first (04 R140, R142). -/
def execTileStepWait (t c : Nat) (eng : Engine) (s : State) : Host.Outcome State Fault Refusal :=
  let k := s.core t c
  match k.run with
  | none => .next s
  | some i =>
    match s.entry? i.cmd with
    | none => .next s
    | some e =>
      match i.stepping eng e.image.words with
      | none => .next s
      | some o =>
        let w := e.image.words.getD o.word []
        if k.state != .running then .next s
        else if o.sigDue || o.sigSince.isSome then
          let (i, n) := signalTile w s.now (s.readsOf i o.word) i { o with sigDue := true }
          .next ((s.setCore t c { k with run := some { i with ops := updOp n i.ops } }).settleCore t c)
        else if o.failed || (eng == .mx && !k.warm && !k.admitted) || i.tileHeld e.image.words o then .next s
        else match stepRow (wordOp w) with
          | none => .next s
          | some r =>
            let (i, q) := if wordWaitEn w && !o.midTile then i.takeToken e.image.words (wordWait w) else (i, [])
            let i := i.learn eng q
            let o := { o with known := i.knownTo o }
            let (x, n) := runTile r eng (Exec.of s k i t c e o) o
            let (i, n) := signalTile w s.now (x.s.readsOf x.i o.word) x.i n
            if x.s.overfull then .next s else
            .next (({ x with i := { i with ops := updOp n i.ops } } : Exec).close.settleCore t c)

end Sys2Proof.Machine
end

