-- ==== Sys2Proof/Machine/VxFunc.lean ====
section
/-! DEFINITION. The FP32 functions of 07 R238. Each result is the implementation's fixed function of the input
(`Config.vxFunc`, opaque), held within the bound of the table: an enclosure of the true value is computed in fixed point
and the free code is clamped to the codes that the bound allows. recip and relu are exact. -/

namespace Sys2Proof.Machine

/-- The fixed-point unit: 256 fraction bits. -/
def fxOne : Nat := 2 ^ 256

/-- Interval of a value in fixed point with a relative slack of 2⁻²⁰⁰ and an absolute one of one unit. -/
def fxSlack (v : Nat) : Nat × Nat := (v - v / 2 ^ 200 - 1, v + v / 2 ^ 200 + 1)

/-- Taylor sum of e^t for t below 1, in fixed point. -/
def expTaylor : Nat → Nat → Nat → Nat → Nat
  | 0, _, _, _ => 0
  | fuel + 1, i, t, term => term + expTaylor fuel (i + 1) t (term * t / fxOne / (i + 1))

/-- Repeated squaring in fixed point. -/
def fxSquare : Nat → Nat → Nat
  | 0, v => v
  | n + 1, v => fxSquare n (v * v / fxOne)

/-- e^x for a magnitude x below 128. -/
def fxExp (m : Nat) (e : Int) : Nat :=
  let t := ((Mag.mk m 1 e).inUnits (-246)).1 / ((Mag.mk m 1 e).inUnits (-246)).2
  fxSquare 10 (expTaylor 60 0 t fxOne)

/-- Σ z^(2i+1) / (2i+1) in fixed point; `zz` is z². -/
def atanhSum : Nat → Nat → Nat → Nat → Nat
  | 0, _, _, _ => 0
  | fuel + 1, i, zz, pw => pw / (2 * i + 1) + atanhSum fuel (i + 1) zz (pw * zz / fxOne)

/-- 2 atanh z for z at most 1/3, in fixed point. -/
def fxAtanh2 (z : Nat) : Nat := 2 * atanhSum 90 0 (z * z / fxOne) z

/-- ln 2 in fixed point. -/
def fxLn2 : Nat := fxAtanh2 (fxOne / 3)

/-- Σ (−1)^i z^(2i+1) / (2i+1) in fixed point. -/
def atanSum : Nat → Nat → Int → Int → Int
  | 0, _, _, _ => 0
  | fuel + 1, i, zz, pw => pw / (2 * i + 1 : Nat) - atanSum fuel (i + 1) zz (pw * zz / fxOne)

/-- π in fixed point (Machin). -/
def fxPi : Nat :=
  let at' (n : Nat) : Int := atanSum 120 0 ((fxOne / (n * n) : Nat) : Int) ((fxOne / n : Nat) : Int)
  (16 * at' 5 - 4 * at' 239).toNat

/-- ⌊√n⌋ by bits from bit `k` down. -/
def isqrtGo (n : Nat) : Nat → Nat → Nat
  | 0, r => r
  | k + 1, r => let r' := r + 2 ^ k; isqrtGo n k (if r' * r' ≤ n then r' else r)

/-- ⌊√n⌋. -/
def isqrt (n : Nat) : Nat := isqrtGo n (n.log2 / 2 + 1) 0

/-- Σ (−1)^i x^(2i+1) / (i! 2^i (2i+1)) in fixed point. -/
def phiSum : Nat → Nat → Int → Int → Int
  | 0, _, _, _ => 0
  | fuel + 1, i, xx, c => c / (2 * i + 1 : Nat) - phiSum fuel (i + 1) xx (c * xx / fxOne / (2 * (i + 1) : Nat))

/-- Φ(|x|) − 1/2 in fixed point, for |x| at most 8. -/
def fxPhi (x : Nat) : Nat :=
  let s := phiSum 250 0 ((x * x / fxOne : Nat) : Int) (x : Int)
  let root := isqrt (2 * fxPi * fxOne)
  s.toNat * fxOne / root

/-- The magnitude code at or below a fixed-point value. -/
def floorCode (v : Nat) : Nat :=
  if v = 0 then 0 else
  match Fmt.fp32.float with
  | some ff => roundFloatMag ff .sr 0 ⟨v, 1, -256⟩
  | none => 0

/-- The code of infinity, above every finite magnitude's. -/
def fp32Top : Nat := 0x7F800000

/-- A finite magnitude in fixed point (truncated). -/
def fxOf (m : Nat) (e : Int) : Nat :=
  ((Mag.mk m 1 e).inUnits (-256)).1 / ((Mag.mk m 1 e).inUnits (-256)).2

/-- The magnitude code at or above a fixed-point value. -/
def ceilCode (v : Nat) : Nat :=
  let c := floorCode v
  match fp32 c with
  | .fin _ m e => if fxOf m e < v then c + 1 else c
  | _ => c

/-- An ulp of an FP32 magnitude in fixed point: 2ⁿ⁻²³ for one in [2ⁿ, 2ⁿ⁺¹), and 2⁻¹⁴⁹ for a subnormal one. -/
def fxUlp (v : Nat) : Nat := 2 ^ (max v.log2 130 - 23)

/-- Hold a free code within `k` ulp of an enclosed magnitude, an ulp being that of the enclosed value. -/
def clampUlp (k : Nat) (lo hi free : Nat) : Nat :=
  min (min (floorCode (lo + k * fxUlp lo)) fp32Top) (max (ceilCode (hi - k * fxUlp lo)) (free % 2 ^ 31))

/-- Division in fixed point. -/
def fxDiv (a b : Nat) : Nat := a * fxOne / b

/-- A finite magnitude is at least `n`. -/
def magGe (m : Nat) (e : Int) (n : Nat) : Bool := !finLt false m e false n 0

/-- exp (07 R238). -/
def vxExp (free : Nat) : Num → Nat
  | .nan => nanCode .fp32
  | .inf true => 0
  | .inf false => fp32Top
  | .fin neg m e =>
    if magGe m e 128 then (if neg then clampUlp 1 0 1 free else fp32Top)
    else
      let v := fxExp m e
      let v := if neg then fxDiv fxOne v else v
      clampUlp 1 (fxSlack v).1 (fxSlack v).2 free

/-- The signed fixed-point value of ln x for a positive finite x. -/
def fxLog (m : Nat) (e : Int) : Int :=
  let k := m.log2
  let z := (m - 2 ^ k) * fxOne / (m + 2 ^ k)
  (fxAtanh2 z : Int) + ((k : Int) + e) * fxLn2

/-- log (07 R238). -/
def vxLog (free : Nat) : Num → Nat
  | .nan => nanCode .fp32
  | .inf true => nanCode .fp32
  | .inf false => fp32Top
  | .fin neg m e =>
    if m = 0 then infCode .fp32 true
    else if neg then nanCode .fp32
    else
      let v := fxLog m e
      let a := v.natAbs
      -- the true value is zero only at x = 1, where the enclosure of zero admits the codes within one of zero
      clampUlp 1 (a - 2 ^ 40) (a + 2 ^ 40) free + flagAt (decide (v < 0)) 31

/-- recip, correctly rounded (07 R238). -/
def vxRecip : Num → Nat
  | .nan => nanCode .fp32
  | .inf neg => flagAt neg 31
  | .fin neg m e => if m = 0 then infCode .fp32 neg else roundMag .fp32 .rne 0 neg ⟨1, m, -e⟩

/-- rsqrt (07 R238). The manual gives +0 only; −0 is not below 0 and is taken as −infinity (DEDUCED, log 7). -/
def vxRsqrt (free : Nat) : Num → Nat
  | .nan => nanCode .fp32
  | .inf true => nanCode .fp32
  | .inf false => 0
  | .fin neg m e =>
    if m = 0 then infCode .fp32 neg
    else if neg then nanCode .fp32
    else
      -- 1/√x scaled by 2^256 is √(2^512 / x)
      let d : Mag := ⟨1, m, 512 - e⟩
      let v := isqrt ((d.inUnits 0).1 / (d.inUnits 0).2)
      clampUlp 1 v (v + 1) free

/-- sigmoid (07 R238). -/
def vxSigmoid (free : Nat) : Num → Nat
  | .nan => nanCode .fp32
  | .inf true => 0
  | .inf false => 0x3F800000
  | .fin neg m e =>
    if magGe m e 128 then (if neg then clampUlp 2 0 1 free else clampUlp 2 (fxOne - 2 ^ 72) (fxOne - 1) free)
    else
      let ex := fxExp m e
      let v := if neg then fxDiv fxOne (fxOne + ex) else fxDiv ex (fxOne + ex)
      clampUlp 2 (fxSlack v).1 (fxSlack v).2 free

/-- tanh (07 R238). -/
def vxTanh (free : Nat) : Num → Nat
  | .nan => nanCode .fp32
  | .inf neg => 0x3F800000 + flagAt neg 31
  | .fin neg m e =>
    if m = 0 then clampUlp 2 0 1 free + flagAt neg 31
    else if magGe m e 64 then clampUlp 2 (fxOne - 2 ^ 73) (fxOne - 1) free + flagAt neg 31
    else
      let x := fxOf m e
      let r :=
        if x < 2 ^ 236 then (x - x * x / fxOne * x / fxOne / 3 - 1, x + 1)
        else
          let ex := fxExp m (e + 1)
          fxSlack (fxDiv (ex - fxOne) (ex + fxOne))
      clampUlp 2 r.1 r.2 free + flagAt neg 31

/-- relu (07 R238). -/
def vxRelu (c : Nat) : Num → Nat
  | .nan => nanCode .fp32
  | .inf neg => if neg then 0 else c
  | .fin neg m _ => if neg || decide (m = 0) then 0 else c

/-- Hold a free FP32 code within an interval of signed fixed-point values: codes are compared by value. -/
def clampAbs (lo hi : Int) (free : Nat) : Nat :=
  let inner (v : Int) : Nat := floorCode v.natAbs + flagAt (decide (v < 0)) 31
  let outer (v : Int) : Nat := ceilCode v.natAbs + flagAt (decide (v < 0)) 31
  let low : Nat := if lo < 0 then inner lo else outer lo
  let high : Nat := if hi < 0 then outer hi else inner hi
  let v := fp32 (free % 2 ^ 32)
  let ofFx (i : Int) : Num := .fin (decide (i < 0)) i.natAbs (-256)
  match v with
  | .nan => high
  | v => if Num.lt v (ofFx lo) then low else if Num.lt (ofFx hi) v then high else free % 2 ^ 32

/-- gelu: within the larger of 3 ulp and 2⁻³⁰ (07 R238). -/
def vxGelu (free : Nat) : Num → Nat
  | .nan => nanCode .fp32
  | .inf true => 0x80000000
  | .inf false => fp32Top
  | .fin neg m e =>
    let tol : Int := (fxOne / 2 ^ 30 : Nat)
    if magGe m e 8 then
      -- the value lies at most 2⁻⁴⁷ below 0, or below x by at most 2⁻⁵⁰ of it
      (if neg then clampAbs (-tol) (tol - 2 ^ 209) free
       else
         let x := fxOf m e
         let t : Int := max tol (3 * fxUlp (x - 1) : Nat)
         clampAbs ((x : Int) - t) ((x - x / 2 ^ 50 : Nat) + t) free)
    else
      let x := fxOf m e
      let ph := fxPhi x
      let v : Int := if neg then -((x * (fxOne / 2 - ph) / fxOne : Nat) : Int) else ((x * (fxOne / 2 + ph) / fxOne : Nat) : Int)
      let t := max tol ((3 * fxUlp v.natAbs : Nat) : Int)
      clampAbs (v - t) (v + t) free

/-- The FP32 result of VX_FUNC number `fn` on the FP32 code `c` (07 R238). -/
def vxFunc (fn c : Nat) : Nat :=
  let v := fp32 c
  let free := Config.vxFunc fn c
  match fn with
  | 0 => vxExp free v
  | 1 => vxLog free v
  | 2 => vxRecip v
  | 3 => vxRsqrt free v
  | 4 => vxSigmoid free v
  | 5 => vxTanh free v
  | 6 => vxRelu c v
  | _ => vxGelu free v

end Sys2Proof.Machine
end

