-- ==== Sys2Proof/Machine/Vx.lean ====
section
/-! DEFINITION. The vector unit's ops (07 R235 to R242; 05 R185, R186, R189). -/

namespace Sys2Proof.Machine

/-! ### Line by line -/

/-- A vector op that turns each line of A (and B, and C) into a line of C. -/
def vecRow (b oldC : Bool) (line : Opnd → Opnd → Opnd → Mode → Exec → Nat → Exec) : RowOp :=
  { rows := fun x => (x.opnd 0).od.lines
    plan := fun x r0 n =>
      ((x.opnd 0).ranges r0 n ++ (if b then (x.opnd 1).ranges r0 n else []) ++ (if oldC then (x.opnd 2).ranges r0 n else []),
       (x.opnd 2).ranges r0 n)
    body := fun x r0 n => (List.range' r0 n).foldl (line (x.opnd 0) (x.opnd 1) (x.opnd 2) (modeOf (wordFlags x.w) 0)) x }

/-- A vector op of the core's vector unit. -/
def vecImpl (r : RowOp) : OpImpl := r.impl .vx (fun _ _ _ => true)

/-- Write a line if every read before it succeeded. -/
def Exec.thenPut (x : Exec) (f : Exec → Exec) : Exec := if x.err.isSome then x else f x

/-- Element by element of two lines. -/
def zipNum (f : Num → Num → Num) (as bs : List Num) : List Num := (as.zip bs).map (fun p => f p.1 p.2)

/-! ### Elementwise ops (07 R236) -/

/-- The exact result of VX_EW number `n` but fma. -/
def ewNum (n : Nat) (x y : Num) : Num :=
  match n with
  | 0 => Num.add x y
  | 1 => Num.add x (Num.neg y)
  | 2 => Num.mul x y
  | 3 => Num.min x y
  | _ => Num.max x y

/-- VX_EW on a line. -/
def ewLine (a b c : Opnd) (mode : Mode) (x : Exec) (k : Nat) : Exec :=
  let n := wordImm x.w
  let (x, av) := x.rdVals a k
  let (x, bv) := x.rdVals b k
  if n = 5 then
    let (x, cv) := x.rdVals c k
    x.thenPut (fun x => x.wrVals c mode k (zipNum Num.add (zipNum Num.mul av bv) cv))
  else x.thenPut (fun x => x.wrVals c mode k (zipNum (ewNum n) av bv))

/-- Ranges of VX_EW: fma also reads C. -/
def ewPlan (x : Exec) (r0 n : Nat) : List (Nat × Nat) × List (Nat × Nat) :=
  (vecRow true (wordImm x.w == 5) ewLine).plan x r0 n

/-- VX_EW. -/
def execVxEw (t c : Nat) (s : State) : Host.Outcome State Fault Refusal :=
  issueOrStart 0x1001 (vecImpl { vecRow true false ewLine with plan := ewPlan }) t c s

/-- VX_FUNC on a line (07 R238). -/
def funcLine (a _b c : Opnd) (mode : Mode) (x : Exec) (k : Nat) : Exec :=
  let n := wordImm x.w
  let (x, av) := x.rdVals a k
  x.thenPut (fun x => x.wrVals c mode k (av.map (fun v => fp32 (vxFunc n (toFp32 v)))))

/-- VX_FUNC. -/
def execVxFunc (t c : Nat) (s : State) : Host.Outcome State Fault Refusal :=
  issueOrStart 0x1002 (vecImpl (vecRow false false funcLine)) t c s

/-- VX_CMP number `n`: any comparison with not-a-number is false. -/
def cmpNum (n : Nat) (x y : Num) : Bool :=
  match n with
  | 0 => Num.eq x y
  | 1 => Num.lt x y
  | _ => Num.lt x y || Num.eq x y

/-- VX_CMP on a line: 1 or 0. -/
def cmpLine (a b c : Opnd) (_ : Mode) (x : Exec) (k : Nat) : Exec :=
  let n := wordImm x.w
  let (x, av) := x.rdVals a k
  let (x, bv) := x.rdVals b k
  x.thenPut (fun x => x.wrLine c k ((av.zip bv).map (fun p => natOfBool (cmpNum n p.1 p.2))) [])

/-- VX_CMP. -/
def execVxCmp (t c : Nat) (s : State) : Host.Outcome State Fault Refusal :=
  issueOrStart 0x1003 (vecImpl (vecRow true false cmpLine)) t c s

/-- An element of a select: A's value where the mask is non-zero; C's own code and value elsewhere (log 13). -/
structure Pick where
  chosen : Bool
  value  : Num
  code   : Nat

/-- The codes and scales of a selected line. A non-MX element that is not chosen, and an MX block without a chosen
element, keep their codes (log 13). -/
def pickLine (f : Fmt) (ps : List Pick) (scales : List Nat) : List Nat × List Nat :=
  if f.isMx then
    let blocks := (chunksOf (ps.length + 1) 32 ps).zipIdx.map (fun b =>
      if b.1.any (fun p => p.chosen) then roundBlock f .rne (fun _ => 0) (b.1.map (fun p => p.value))
      else (scales.getD b.2 0x7F, b.1.map (fun p => p.code)))
    (blocks.flatMap (fun b => b.2), blocks.map (fun b => b.1))
  else (ps.map (fun p => if p.chosen then roundNum f .rne 0 p.value else p.code), [])

/-- VX_SELECT on a line. -/
def selectLine (a b c : Opnd) (_ : Mode) (x : Exec) (k : Nat) : Exec :=
  let (x, av) := x.rdVals a k
  let (x, m) := x.rdVals b k
  let (x, cc) := x.rdLine c k
  let (x, sc) := x.rdScales c k
  let cv := valuesOf c.od.fmt c.od.anchor cc sc
  let ps := (av.zip (m.zip (cv.zip cc))).map (fun p =>
    let on := !Num.eq p.2.1 Num.zero
    (⟨on, if on then p.1 else p.2.2.1, p.2.2.2⟩ : Pick))
  let r := pickLine c.od.fmt ps sc
  x.thenPut (fun x => x.wrLine c k r.1 r.2)

/-- VX_SELECT. -/
def execVxSelect (t c : Nat) (s : State) : Host.Outcome State Fault Refusal :=
  issueOrStart 0x1004 (vecImpl (vecRow true true selectLine)) t c s

/-- VX_CVT on a line (05 R186). -/
def cvtLine (a _b c : Opnd) (mode : Mode) (x : Exec) (k : Nat) : Exec :=
  let (x, av) := x.rdVals a k
  x.thenPut (fun x => x.wrVals c mode k av)

/-- VX_CVT. -/
def execVxCvt (t c : Nat) (s : State) : Host.Outcome State Fault Refusal :=
  issueOrStart 0x1005 (vecImpl (vecRow false false cvtLine)) t c s

/-! ### Sums of a line (07 R239) -/

/-- Combine two lanes or nodes; one without elements passes its partner up. -/
def joinLane (x y : Option Nat) : Option Nat :=
  match x, y with
  | some a, some b => some (addFp32 a b)
  | some a, none => some a
  | none, y => y

/-- One level of the tree: node 2i with node 2i + 1. -/
def joinLevel : List (Option Nat) → List (Option Nat)
  | x :: y :: t => joinLane x y :: joinLevel t
  | l => l

/-- Add element `i` into its lane. -/
def addLane (lanes : List (Option Nat)) (e : Nat × Nat) : List (Option Nat) :=
  lanes.set (e.2 % 64) (joinLane (lanes.getD (e.2 % 64) none) (some e.1))

/-- The sum of a line of FP32 codes in the fixed order. -/
def sumFp32 (cs : List Nat) : Nat :=
  let lanes := cs.zipIdx.foldl addLane (List.replicate 64 none)
  let top := joinLevel (joinLevel (joinLevel (joinLevel (joinLevel (joinLevel lanes)))))
  ((top.headD none).getD 0)

/-- The largest or smallest of a line of values. -/
def foldNum (f : Num → Num → Num) : List Num → Num
  | [] => Num.zero
  | v :: vs => vs.foldl f v

/-- VX_REDUCE on a line: 0 sum, 1 max, 2 min. -/
def reduceLine (a _b c : Opnd) (mode : Mode) (x : Exec) (k : Nat) : Exec :=
  let n := wordImm x.w
  let (x, av) := x.rdVals a k
  let v := if n = 0 then fp32 (sumFp32 (av.map toFp32)) else if n = 1 then foldNum Num.max av else foldNum Num.min av
  x.thenPut (fun x => x.wrVals c mode k [v])

/-- VX_REDUCE. -/
def execVxReduce (t c : Nat) (s : State) : Host.Outcome State Fault Refusal :=
  issueOrStart 0x1006 (vecImpl (vecRow false false reduceLine)) t c s

/-! ### VX_NORM and VX_SOFTMAX (07 R240, R241) -/

/-- 2⁻¹⁷ in FP32. -/
def normEps : Nat := 0x37000000

/-- 1 ÷ √(mean + ε) of a sum of squares over `n` elements. -/
def normRho (sum n : Nat) : Nat := vxFunc 3 (addFp32 (divFp32 sum n) normEps)

/-- The line normalised: layer (0) or RMS (1). -/
def normFp32 (kind : Nat) (xs gs : List Nat) : List Nat :=
  let n := toFp32 (Num.ofInt (xs.length : Int))
  let ds := if kind = 0 then
      let mu := divFp32 (sumFp32 xs) n
      xs.map (fun v => subFp32 v mu)
    else xs
  let rho := normRho (sumFp32 (ds.map (fun d => mulFp32 d d))) n
  (ds.zip gs).map (fun p => mulFp32 (mulFp32 p.1 rho) p.2)

/-- VX_NORM on a line. -/
def normLine (a b c : Opnd) (mode : Mode) (x : Exec) (k : Nat) : Exec :=
  let n := wordImm x.w
  let (x, av) := x.rdVals a k
  let (x, gv) := x.rdVals b 0
  x.thenPut (fun x => x.wrVals c mode k ((normFp32 n (av.map toFp32) (gv.map toFp32)).map fp32))

/-- Ranges of VX_NORM: its gain is one line. -/
def normPlan (x : Exec) (r0 n : Nat) : List (Nat × Nat) × List (Nat × Nat) :=
  ((x.opnd 0).ranges r0 n ++ (x.opnd 1).ranges 0 1, (x.opnd 2).ranges r0 n)

/-- VX_NORM. -/
def execVxNorm (t c : Nat) (s : State) : Host.Outcome State Fault Refusal :=
  issueOrStart 0x1007 (vecImpl { vecRow false false normLine with plan := normPlan }) t c s

/-- The softmax of a line of FP32 codes: all not-a-number where the line holds one or its maximum is −infinity. -/
def softmaxFp32 (xs : List Nat) : List Nat :=
  let m := toFp32 (foldNum Num.max (xs.map fp32))
  match fp32 m with
  | .nan => xs.map (fun _ => nanCode .fp32)
  | .inf true => xs.map (fun _ => nanCode .fp32)
  | _ =>
    let es := xs.map (fun v => vxFunc 0 (subFp32 v m))
    let s := sumFp32 es
    es.map (fun e => divFp32 e s)

/-- VX_SOFTMAX on a line. -/
def softmaxLine (a _b c : Opnd) (mode : Mode) (x : Exec) (k : Nat) : Exec :=
  let (x, av) := x.rdVals a k
  x.thenPut (fun x => x.wrVals c mode k ((softmaxFp32 (av.map toFp32)).map fp32))

/-- VX_SOFTMAX. -/
def execVxSoftmax (t c : Nat) (s : State) : Host.Outcome State Fault Refusal :=
  issueOrStart 0x1008 (vecImpl (vecRow false false softmaxLine)) t c s

/-! ### Attars (07 R242; 05 R175, R180 to R182, R185, R191) -/

/-- VX_ATTAR_SUM on a line. -/
def attarSumLine (a b c : Opnd) (_ : Mode) (x : Exec) (k : Nat) : Exec :=
  let (x, ac) := x.rdLine a k
  let (x, bc) := x.rdLine b k
  let ps : List (Attar × Attar) := (ac.zip bc).map (fun p => (Attar.ofCode p.1, Attar.ofCode p.2))
  let sums := ps.map (fun p => (Attar.add p.1 p.2).toCode)
  x.thenPut (fun x => { x with sat := x.sat || ps.any (fun p => Attar.addSaturates p.1 p.2) }.wrLine c k sums [])

/-- VX_ATTAR_SUM. -/
def execVxAttarSum (t c : Nat) (s : State) : Host.Outcome State Fault Refusal :=
  issueOrStart 0x1009 (vecImpl (vecRow true false attarSumLine)) t c s

/-- VX_ATTAR_FROM on a line. -/
def attarFromLine (a _b c : Opnd) (_ : Mode) (x : Exec) (k : Nat) : Exec :=
  let (x, av) := x.rdVals a k
  let ts := av.map (enter c.od.anchor)
  x.thenPut (fun x => { x with sat := x.sat || ts.any Attar.isSat }.wrLine c k (ts.map Attar.toCode) [])

/-- VX_ATTAR_FROM. -/
def execVxAttarFrom (t c : Nat) (s : State) : Host.Outcome State Fault Refusal :=
  issueOrStart 0x100A (vecImpl (vecRow false false attarFromLine)) t c s

/-- VX_ATTAR_ROUND on a line. -/
def attarRoundLine (a _b c : Opnd) (mode : Mode) (x : Exec) (k : Nat) : Exec :=
  let (x, ac) := x.rdLine a k
  x.thenPut (fun x => { x with sat := x.sat || satCodes ac }.wrVals c mode k (valuesOf .attar a.od.anchor ac []))

/-- VX_ATTAR_ROUND. -/
def execVxAttarRound (t c : Nat) (s : State) : Host.Outcome State Fault Refusal :=
  issueOrStart 0x100B (vecImpl (vecRow false false attarRoundLine)) t c s

end Sys2Proof.Machine
end

