-- ==== Sys2Proof/Machine/Preempt.lean ====
section
/-! DEFINITION. Pre-emption: where the engines of a core stop, the sequencer and pane records, the held instance and its restore (06 R218
to R224; 07 R243 to R247). -/

namespace Sys2Proof.Machine

/-! ### Positions (07 R243; log 99) -/

/-- Elements of a group of the vector unit: 128 where every operand has 16 bits or fewer (07 R243). -/
def Exec.group (x : Exec) : Nat :=
  if (upTo 3).any (fun k => wordUses x.w k && decide (16 < (x.opnd k).od.fmt.bits)) then 64 else 128

/-- Times that a vector op goes over each line: VX_NORM for its sums and its results, VX_SOFTMAX for its maximum, sum and results (07
R240, R241). -/
def vecPasses (op imm : Nat) : Nat := if op = 0x1007 then (if imm = 0 then 3 else 2) else if op = 0x1008 then 3 else 1

/-- Units in which an op over rows counts its position within a row: groups of the vector unit, 128-byte rows of the destination of a
copy, and a whole row of a stream. -/
def Exec.perRow (x : Exec) (eng : Engine) : Nat :=
  match eng with
  | .vx => vecPasses (wordOp x.w) (wordImm x.w) * (((x.opnd 0).od.e0 + x.group - 1) / x.group)
  | .mov => ((x.opnd 2).od.rowBytes + 127) / 128
  | _ => 1

/-- Rows of an op over rows. -/
def Exec.opRows (x : Exec) : Nat := if wordOp x.w = 0x0805 then (x.opnd 2).od.lines else (x.opnd 0).od.lines

/-- Bytes of an MX_WLOAD (06 R199). -/
def Exec.loadBytes (x : Exec) : Nat := if (x.opnd 0).sc.isSome then 17408 else 16384

/-- The position of an op that has done all its work. -/
def Exec.endPos (x : Exec) (o : OpRec) : Nat :=
  match o.eng with
  | .ga => if wordOp x.w = 0x1402 then x.index.bags else x.index.count
  | .mx => if wordOp x.w = 0x0C01 then x.loadBytes else x.opRows
  | e => x.opRows * x.perRow e

/-! ### Lane sums of the vector unit (07 R239, R243, R244) -/

/-- Lanes of a sum, or of a maximum or minimum, over FP32 codes. -/
def lanesWith (f : Nat → Nat → Nat) (cs : List Nat) : List (Option Nat) :=
  cs.zipIdx.foldl (fun l e => l.set (e.2 % 64) (match l.getD (e.2 % 64) none with
    | some a => some (f a e.1)
    | none => some e.1)) (List.replicate 64 none)

/-- The bytes of 64 lanes: an FP32 code in the first 4 of 64 bytes each. -/
def laneBytes (ls : List (Option Nat)) : List Byte := ls.flatMap (fun l => bytesOfNat 64 (l.getD 0))

/-- The lane sums that a vector op has formed of line `l` when it stops after `m` of its groups. -/
def Exec.lanesAt (x : Exec) (l m : Nat) : List Byte :=
  let op := wordOp x.w
  let imm := wordImm x.w
  let xs := (x.rdVals (x.opnd 0) l).2.map toFp32
  let q := (xs.length + x.group - 1) / x.group
  let done (p : Nat) : Nat := if m < p * q then 0 else (m - p * q) * x.group
  let pick (f : Num → Num → Num) (a b : Nat) : Nat := toFp32 (f (fp32 a) (fp32 b))
  let two (a b : List (Option Nat)) : List Byte := laneBytes a ++ laneBytes b
  if op = 0x1006 then two (lanesWith (if imm = 0 then addFp32 else if imm = 1 then pick Num.max else pick Num.min) (xs.take (done 0))) []
  else if op = 0x1007 ∧ imm = 0 then
    let mu := divFp32 (sumFp32 xs) (toFp32 (Num.ofInt (xs.length : Int)))
    two (lanesWith addFp32 (xs.take (done 0))) (lanesWith addFp32 (((xs.map (fun v => subFp32 v mu)).map (fun d => mulFp32 d d)).take (done 1)))
  else if op = 0x1007 then two (lanesWith addFp32 ((xs.map (fun d => mulFp32 d d)).take (done 0))) []
  else if op = 0x1008 then
    let top := toFp32 (foldNum Num.max (xs.map fp32))
    two (lanesWith (pick Num.max) (xs.take (done 0))) (lanesWith addFp32 ((xs.map (fun v => vxFunc 0 (subFp32 v top))).take (done 1)))
  else []

/-! ### Stopping an op -/

/-- The memory bytes of C that a copy has written of row `l`, `n` bytes of it. -/
def Exec.written (x : Exec) (o : OpRec) (l n : Nat) : List (Nat × List Byte) :=
  ((o.before.mem.getD l []).take 1).map (fun p => (p.1, x.s.peek p.1 (min n p.2.length)))

/-- A run as it was before an op's rows: its local store, tags and sash, and the marks of its weight sets. -/
def Inst.rewind (i : Inst) (b : Before) : Inst :=
  let mark (w : WeightSet) (n : Nat) : WeightSet := match b.sets[n]? with
    | some (num, old) => if w.num = num then { w with srcWritten := old } else w
    | none => w
  { i with ls := b.ls, tags := b.tags, sash := b.sash, active := mark i.active 0, shadow := mark i.shadow 1 }

/-- The op as it stood before its rows: the run and the panes, in the cycle in which they began. -/
def Exec.rewind (x : Exec) (b : Before) : Exec :=
  { x with s := { x.s with clk := { x.s.clk with ac := b.panes.ac } }, k := { x.k.retrack b.panes with limit := b.panes.limit }
           i := x.i.rewind b, sat := false, err := none }

/-- Tags and marks of weight sets after a stop of an op that, of its local-store ranges `all`, had written `done`: what only rows not done
had written is as before, but for what other ops wrote since (06 R218; 07 R243). -/
def Exec.retag (x : Exec) (o : OpRec) (all done : List (Nat × Nat)) : Exec :=
  let b := o.before
  let since := done ++ (x.i.past.filter (fun p => p.eng != o.eng)).flatMap (fun p => p.writes)
  let hits (rs : List (Nat × Nat)) (l : Nat) : Bool := rs.any (fun r => decide (l < r.1 + r.2) && decide (r.1 < l + 64))
  let old := x.i.rewind b
  let mark (w v : WeightSet) : WeightSet := since.foldl (fun w r => w.touch r.1 r.2) { w with srcWritten := v.srcWritten }
  { x with i := { x.i with tags := x.i.tags.filter (fun l => !hits all l || b.tags.contains l || hits since l)
                           active := mark x.i.active old.active, shadow := mark x.i.shadow old.shadow } }

/-- Rows of a copy op into a ring that went round are as they were when row `d` was still to come: those before it are copied again from
what the op found. -/
def Exec.rering (x : Exec) (o : OpRec) (d : Nat) : Exec :=
  let y := movRow.body (x.rewind o.before) o.before.row0 (d - o.before.row0)
  x.putBack (((x.opnd 2).ranges 0 (x.opnd 2).od.lines).map (fun (r : Nat × Nat) => (r.1, y.i.ls.read r.1 r.2)))

/-- A vector or copy op stops after `d` units: its rows from there on are as they were before it. -/
def Exec.stopRows (x : Exec) (o : OpRec) (d : Nat) : Exec × OpRec :=
  let l := d / x.perRow o.eng
  let m := d % x.perRow o.eng
  if o.rows ≤ l then (x, { o with pos := x.endPos o })
  else
    let c := x.opnd 2
    let r0 := o.before.row0
    let l := max l r0
    let kept := if o.eng == .mov then x.written o l (128 * m) else []
    let x := if c.wraps then x.rering o l else x.undoRows o.before l
    let x := { x with s := kept.foldl (fun (s : State) (p : Nat × List Byte) => s.tryWrite p.1 p.2) x.s }
    let x := x.retag o (c.ranges r0 (o.rows - r0)) (c.ranges r0 (l - r0))
    (x, { o with row := l, pos := max d (l * x.perRow o.eng), lanes := if o.eng == .vx then x.lanesAt l m else [] })

/-- A stream stops before row `d`: what its rows before that did from where it began stands, and nothing of the others (06 R218; 07
R243). -/
def Exec.stopStream (x : Exec) (o : OpRec) (d : Nat) : Exec × OpRec :=
  if o.rows ≤ d then (x, { o with pos := x.endPos o })
  else
    let c := x.opnd 2
    let r0 := o.before.row0
    let n := max d r0 - r0
    let y := x.rewind o.before
    let y := if n = 0 then y else streamBody y r0 n
    let sash (p : Sash) : List (Nat × Nat) := (upTo p.rows).map (fun (r : Nat) => (((p.off : Int) + r * p.stride).toNat, 16 * p.cols))
    let all := c.ranges 0 c.od.lines ++ (o.before.sash.map sash).getD []
    let done := if c.od.isAttar && c.eligible then [] else c.ranges r0 n
    let x := { x with s := { x.s with free := y.s.free }, k := x.k.retrack (y.k.track 0) }
    let x := x.putBack (all.map (fun r => (r.1, y.i.ls.read r.1 r.2)))
    let x := x.retag o all done
    ({ x with i := { x.i with sash := y.i.sash } }, { o with row := r0 + n, pos := r0 + n })

/-- A TILE_STEP op stops at `d` units: the rows of its next tile before that have been read and written, on the count that the tile
took (04 R142); a stream's only on a warm or admitted core (06 R214). -/
def Exec.stopTile (x : Exec) (o : OpRec) (d : Nat) : Exec × OpRec :=
  let l := d / x.perRow o.eng
  let r0 := o.nextRow
  let counted := !tileWaits x.w || o.midTile || decide (0 < x.i.token (wordWait x.w))
  let issues := o.eng != .mx || x.k.warm || x.k.admitted
  if o.tile < o.tiles ∧ r0 < l ∧ l < 128 * (o.tile + 1) ∧ l < x.opRows ∧ counted = true ∧ issues = true then
    match stepRow (wordOp x.w) with
    | none => (x, o)
    | some r =>
      let (i, q) := if tileWaits x.w && !o.midTile then x.i.takeToken x.e.image.words (wordWait x.w) else (x.i, [])
      let i := i.learn o.eng q
      let o := { o with known := i.knownTo o }
      let y := r.run o.eng { x with i, known := o.known } r0 (l - r0)
      (y, { o with row := l, pos := d, mem := o.mem ++ y.mem, lastUse := o.lastUse ++ y.lastUse, failed := y.err.isSome })
  else (x, { o with pos := r0 * x.perRow o.eng })

/-- A gather or bag op stops: it is to go on at its first output row not written, whose indices it reads again (08 R281). -/
def Exec.stopGather (x : Exec) (o : OpRec) : Exec × OpRec :=
  let g := o.ga.getD {}
  let f := ((upTo g.outs).find? (fun r => !g.written.contains r)).getD g.outs
  if f = g.outs then (x, { o with pos := f })
  else
    let late := (g.written.filter (fun r => decide (f ≤ r))).length
    let lost := (g.poss.filter (fun p => p.addr.isNone && decide (f ≤ p.out))).length
    ({ x with s := x.s.updEntry x.i.cmd (fun e => { e with outRows := e.outRows - late, zeroRows := e.zeroRows - lost }) },
     { o with ga := some { outs := g.outs, written := upTo f }, row := f, rows := g.outs, pos := f })

/-- The position that a scatter op saves before its group `d`: an index position, and above it the entries of its window already sent
(08 R281). -/
def GaOp.saved (g : GaOp) (d : Nat) : Nat :=
  let p := g.groups.getD d (0, 0)
  p.1 + 2 ^ 32 * p.2

/-- Accumulates of an op from group `d` on that are still in this package. -/
def Exec.unsent (x : Exec) (o : OpRec) (d : Nat) : List Acc :=
  x.s.accs.filter (fun a => a.own && a.cmd == x.i.cmd && a.inst == x.i.index && a.word == o.word && decide (d ≤ a.group) &&
    (x.s.localAddr a.addr == a.addr && decide (a.addr < 2 ^ 55)))

/-- A GA_SCATTER_ADD stops before its group `d`: the accumulates of the groups from there on have not left it. -/
def Exec.stopAdd (x : Exec) (o : OpRec) (d : Nat) : Exec × OpRec :=
  let g := o.ga.getD {}
  let out := x.unsent o d
  if d < o.rows ∧ out.length = (g.lines.drop d).sum then
    let accs := out.foldl (fun l a => l.erase a) x.s.accs
    let s := out.foldl (fun s a => s.dropOneRead .adder a.addr) { x.s with accs }
    ({ x with s := s.updEntry x.i.cmd (fun e => { e with outRows := e.outRows - out.length }) },
     { o with row := d, accs := o.accs - out.length, pos := g.saved d })
  else (x, { o with pos := g.saved o.rows })

/-- A GA_SCATTER stops before its contribution `d`: table rows that none before it wrote are as they were. -/
def Exec.stopScatter (x : Exec) (o : OpRec) (d : Nat) : Exec × OpRec :=
  let g := o.ga.getD {}
  if d < o.rows then
    let old := o.before.mem.flatten
    let first := (old.take d).map (fun p => p.1)
    let s := ((old.drop d).reverse.filter (fun p => !first.contains p.1)).foldl (fun s p => s.tryWrite p.1 p.2) x.s
    ({ x with s := s.updEntry x.i.cmd (fun e => { e with outRows := e.outRows - (o.rows - d) }) }, { o with row := d, pos := g.saved d })
  else (x, { o with pos := g.saved o.rows })

/-- A weight load that has not brought in all its bytes is abandoned, to restart (06 R218). -/
def Exec.stopLoad (x : Exec) (o : OpRec) (d : Nat) : Exec × OpRec :=
  if d < x.loadBytes ∧ x.i.shadowFull = true ∧ x.i.shadow.num = o.num then
    ({ x with i := { x.i with shadow := {}, shadowFull := false } }, { o with started := false, pos := 0 })
  else (x, { o with pos := x.loadBytes })

/-- An op stops where its engine does: `d` units done, or all of them. One that a swap or an earlier stop left at a row, and that has not
gone on since, stays there (06 R218, R219). -/
def Exec.stop (x : Exec) (o : OpRec) (d : Nat) : Exec × OpRec :=
  let op := wordOp x.w
  if !o.started || o.failed then (x, { o with pos := 0 })
  else if wordStep x.w then x.stopTile o d
  else if o.goesOn then (x, o)
  else if op = 0x0C01 then x.stopLoad o d
  else if op = 0x0C02 then x.stopStream o d
  else if op = 0x1401 ∨ op = 0x1402 then x.stopGather o
  else if op = 0x1403 then x.stopAdd o d
  else if op = 0x1404 then x.stopScatter o d
  else x.stopRows o d

/-- Stops named for an op: the last op of its engine and kind that has started, at work when the core stops. -/
def Inst.stopOf (i : Inst) (stops : List OpStop) (words : List (List Byte)) (o : OpRec) : Option Nat :=
  let mine := i.ops.filter (fun p => p.eng == o.eng)
  let load (p : OpRec) : Bool := wordOp (words.getD p.word []) == 0x0C01
  let later := mine.any (fun p => p.started && decide (o.num < p.num) && load p == load o)
  if later then none
  else (stops.find? (fun q => q.eng == o.eng && (mine[q.nth]?).any (fun p => p.num == o.num))).map (fun q => q.done)

/-- A run whose ops stop, and the failures that rows done at the stop met, with their engines. -/
structure Stopped where
  s : State
  k : Core
  i : Inst
  fails : List (Engine × OpFail) := []

/-- Every op of a run stops. Without a stop named for it an op has done all that it could. What rows done at the stop met counts as ever
(05 R192; 06 R221, R223). -/
def stopOps (stops : List OpStop) (t c : Nat) (k : Core) (e : Entry) (s : State) (i : Inst) : Stopped :=
  i.ops.foldl (fun (q : Stopped) p =>
    -- an op before it may have had a signal made that a full token held
    let o := (q.i.ops.find? (fun o => o.eng == p.eng && o.num == p.num)).getD p
    let x := Exec.of q.s q.k q.i t c e o
    let d := (i.stopOf stops e.image.words o).getD (x.endPos o)
    let (x, o) := x.stop o d
    { s := x.s.updEntry i.cmd (fun e => { e with sat := e.sat || x.sat }), k := x.k, i := { x.i with ops := updOp o x.i.ops }
      fails := q.fails ++ (x.err.toList).map (fun f => (o.eng, f)) }) { s, k, i }

/-- A SWAP whose stream has read no row has not taken place (06 R224); loads into the shadow set that followed it are to restart. -/
def Inst.undoSwap (i : Inst) (words : List (List Byte)) : Inst :=
  let idle (o : OpRec) : Bool := o.swapped && !o.failed && o.row == 0 && o.tile == 0 && (decide (0 < o.rows) || decide (0 < o.tiles))
  match i.swapOut, i.ops.find? (fun o => o.eng == .mx && idle o) with
  | some w, some o =>
    { i with shadow := i.active, shadowFull := true, active := w, swapOut := none
             ops := i.ops.map (fun p =>
               if p.eng == .mx && p.num == o.num then { p with swapped := false, started := false, rows := 0, tiles := 0, pos := 0 }
               else if p.eng == .mx && decide (o.num < p.num) && wordOp (words.getD p.word []) == 0x0C01 then { p with started := false, pos := 0 }
               else p) }
  | _, _ => i

/-! ### The records (06 R219; 07 R244) -/

/-- An op has started and has work left. -/
def OpRec.partDone (o : OpRec) : Bool := o.started && !o.failed && (decide (o.row < o.rows) || decide (o.tile < o.tiles) || !o.gaDone)

/-- The sequencer record, from 0x3B_0000. -/
def seqRecord (i : Inst) : List Byte :=
  let has (eng : Engine) : Bool := i.ops.any (fun o => o.eng == eng && o.partDone)
  let st := 1 + 2 + flagAt (has .vx) 2 + flagAt (has .mov) 3 + flagAt (has .ga) 4
  let loop (d : Nat) : Nat := match i.loops[d]? with
    | some l => l.count % 2 ^ 24 + 2 ^ 31
    | none => 0
  let queue (q : Nat) : Nat := match i.ops[q]? with
    | some o =>
      o.word % 2 ^ 16 + engineNum o.eng * 2 ^ 16 + 2 ^ 18
        + ((upTo 4).map (fun d => o.loops.getD d 0 % 2 ^ 24 * 2 ^ (32 + 24 * d))).sum + o.pos % 2 ^ 64 * 2 ^ 128
    | none => 0
  let lanes := match i.ops.find? (fun o => o.eng == .vx && o.partDone) with
    | some o => o.lanes
    | none => []
  bytesOfNat 4 i.cmd.ctx ++ bytesOfNat 4 i.cmd.seq ++ bytesOfNat 4 i.index ++ bytesOfNat 2 i.pc ++ bytesOfNat 2 st
    ++ ((upTo 4).map (fun d => bytesOfNat 4 (loop d))).flatten ++ ((upTo 16).map (fun n => bytesOfNat 2 (i.token n))).flatten
    ++ List.replicate 0xC0 0 ++ ((upTo 32).map (fun q => bytesOfNat 32 (queue q))).flatten ++ List.replicate 0x300 0
    ++ sliceBytes lanes 0 8192

/-- The bytes of a weight set with its scales in PR_WSETS. -/
def WeightSet.bytes (w : WeightSet) : List Byte := sliceBytes w.data 0 16384 ++ sliceBytes w.scales 0 1024

/-- The interrupted stream of a run. -/
def Inst.interrupted (i : Inst) : Option OpRec := i.ops.find? (fun o => o.eng == .mx && o.partDone)

/-- The active set, and the shadow set, is saved in full: some byte of its source was written since it was loaded (06 R218). -/
def Inst.savesActive (i : Inst) : Bool := i.active.fmt.isSome && i.active.srcWritten
def Inst.savesShadow (i : Inst) : Bool := i.shadowFull && i.shadow.srcWritten

/-- The pane record, from 0x3B_3000; `load` says that a weight load is to restart. -/
def paneRecord (i : Inst) (load : Bool) : List Byte :=
  let st := flagAt i.interrupted.isSome 0 + flagAt i.shadowFull 1 + flagAt i.savesActive 2 + flagAt i.savesShadow 3 + flagAt i.sash.isSome 4
    + flagAt ((i.sash.map (fun p => p.dirty)).getD false) 5 + flagAt load 6
  let scl (w : WeightSet) : Nat := w.scl.getD (2 ^ 31)
  let code (w : WeightSet) : Nat := (w.fmt.map Fmt.code).getD 0
  let p : Sash := i.sash.getD ⟨0, 0, 0, 0, 0, false, []⟩
  bytesOfNat 2 ((i.interrupted.map (fun o => o.word)).getD 0xFFFF) ++ bytesOfNat 1 st ++ bytesOfNat 1 p.cols
    ++ bytesOfNat 4 ((i.interrupted.map (fun o => o.pos)).getD 0) ++ bytesOfNat 4 i.active.src ++ bytesOfNat 4 i.shadow.src
    ++ bytesOfNat 4 (scl i.active) ++ bytesOfNat 4 (scl i.shadow) ++ bytesOfNat 1 (code i.active) ++ bytesOfNat 1 (code i.shadow)
    ++ bytesOfNat 2 (unsigned 16 p.anchor) ++ bytesOfNat 4 p.off ++ bytesOfNat 4 (unsigned 32 p.stride) ++ bytesOfNat 1 p.rows
    ++ List.replicate 27 0
    ++ (upTo p.rows).flatMap (fun r => sliceBytes (pack 128 (p.vals.getD r [])) 0 2048)
    ++ (if i.savesActive then i.active.bytes else []) ++ (if i.savesShadow then i.shadow.bytes else [])

/-! ### Release (06 R220; 07 R243, R247, R248) -/

/-- Spilled lines come back to the local store, `n` of them in order (07 R245, R247): the run, and whether one reads uncorrectable in the
spill frame. -/
def Inst.unspill (i : Inst) (n : Nat) : Inst × Bool :=
  let back := i.spilled.take n
  ({ i with spilled := i.spilled.drop n, badFrame := i.badFrame.filter (fun l => !back.contains l) }, back.any i.badFrame.contains)

/-- A run that lost a line of its spill frame fails, and does no further work (07 R247). -/
def failRestore (i : Inst) (s : State) : State := failCommand i.cmd i.index sUncorrectable 0 s

/-- A run without its ops. -/
def Inst.cutShort (i : Inst) : Inst := { i with ops := [], cut := true, sash := none }

/-- The core is released: its instance is held beside it, and the context is told. Run-ahead rows are dropped. After a restore that was stopped
too: its 1 ms counts anew, and the context is told again (DESIGN CHOICE, log 118). -/
def holdCore (t c : Nat) (k : Core) (i : Inst) (s : State) : State :=
  let s := s.setCore t c { k with run := none, held := some i, heldSince := s.now, state := .idle, waiting := none, admitted := false
                                  runAhead := [] }
  preemptMsg i.cmd.ctx (fltPost 7 6 i.cmd.ring i.cmd.ctx 0 0 0 s)

/-- A restore stops at a line boundary: lines that have come back stay, the rest stay spilled, and the records of the instance stand as
they are (07 R247). -/
def stopRestore (t c restored : Nat) (k : Core) (i : Inst) (s : State) : State :=
  let n := min restored i.spilled.length
  let (j, bad) := i.unspill n
  let j := { if bad then j.cutShort else j with restoring := false }
  let s := holdCore t c { k with restoredCount := k.restoredCount + BitVec.ofNat 32 n } j s
  if bad then failRestore j s else s

/-- Reads that the ops of a run still had queued are dropped, for those with work left (07 R243). -/
def State.dropOpReads (s : State) (i : Inst) : State :=
  let words := (i.ops.filter OpRec.partDone).map (fun o => o.word)
  let mine (r : PcRead) : Bool := match r.who with
    | .op _ _ cmd inst w _ => cmd == i.cmd && inst == i.index && words.contains w
    | _ => false
  s.hbm.foldl (fun s e => e.2.pcs.foldl (fun s q =>
    if q.2.reads.any mine then s.updPc e.1 q.1 (fun p => { p with reads := p.reads.filter (fun r => !mine r) }) else s) s) s

/-- The fault of a run takes effect in place of its pre-emption: it goes on, to end (06 R224), and the command that needs a core stops
another. -/
def endStopping (t c : Nat) (k : Core) (i : Inst) (s : State) : State :=
  preemptAll ((s.setCore t c { k with state := .running, run := some i }).settleCore t c)

/-- Run ops stop, the records are written into the context save area, and the core is released (06 R218 to R220; 07 R243, R244). A fault
in the panes at the stop wins, and nothing is written (06 R223, R224); any other failure ends the command (04 R136). -/
def releaseRun (t c : Nat) (stops : List OpStop) (k : Core) (i : Inst) (e : Entry) (s : State) : State :=
  let words := e.image.words
  let full := i.shadowFull
  let ⟨s, k, i, fails⟩ := stopOps stops t c k e s i
  let report (s : State) : State := fails.foldl (fun s f => f.2.report i s) s
  if i.paneFault then report (endStopping t c k i s) else
  let load := full && !i.shadowFull
  let j := i.undoSwap words
  let load := load || (j.ops != i.ops && j.ops.any (fun o => o.eng == .mx && !o.started && wordOp (words.getD o.word []) == 0x0C01))
  let save := (k.save.write 0 (seqRecord j)).write 0x3000 (paneRecord j load)
  report ((holdCore t c { k with save } j s).dropOpReads j)

/-- PREEMPT_RELEASE: the core's run stops and is held beside it, and the core is free (06 R220; 07 R243, R247). A run that a fault in
its panes has failed goes on to its end instead (06 R224). -/
def execPreemptRelease (t : Nat) (p : CoreStop) (s : State) : Host.Outcome State Fault Refusal :=
  let c := p.core
  let k := s.core t c
  match k.run with
  | none => .next s
  | some i =>
    if k.state != .stopping || k.held.isSome then .next s
    else if i.paneFault then .next (endStopping t c k i s)
    else if i.restoring then .next (stopRestore t c p.restored k i s)
    else match s.entry? i.cmd with
      | some e => .next (s.orWait (releaseRun t c p.stops k i e s))
      | none => .next s

/-! ### Restore (06 R221; 07 R245, R247) -/

/-- A weight set is loaded again: from the save area at `at_` where it was saved there, else from its source. -/
def Exec.reload (x : Exec) (w : WeightSet) (saved : Option Nat) : Exec × WeightSet :=
  match w.fmt, saved with
  | none, _ => (x, w)
  | some _, some at_ => (x, { w with data := x.k.save.read at_ 16384, scales := x.k.save.read (at_ + 16384) 1024 })
  | some _, none =>
    let (x, data) := x.rdLs w.src 16384
    let (x, scales) := match w.scl with
      | some a => x.rdLs a 1024
      | none => (x, [])
    (x, { w with data, scales })

/-- The sash rows of the pane record. -/
def savedSash (save : Memory) (p : Sash) : Sash :=
  { p with vals := (upTo p.rows).map (fun r => unpack 128 p.cols (save.read (0x3040 + 2048 * r) (16 * p.cols))) }

/-- The sequencer's state from its record: the next word, the tokens and the counters of the open loops (07 R245). -/
def Inst.fromRecord (i : Inst) (save : Memory) : Inst :=
  { i with
    pc := natOfBytes (save.read 0x0C 2)
    tokens := (upTo 16).map (fun n => natOfBytes (save.read (0x20 + 2 * n) 2))
    loops := i.loops.zipIdx.map (fun l => { l.1 with count := natOfBytes (save.read (0x10 + 4 * l.2) 4) % 2 ^ 24 }) }

/-- The restore of an instance is over: its spilled lines are back, its record, weight sets and sash are loaded again, and it goes on; its
panes wait for Louvre admission (06 R221; 07 R245). -/
def endRestore (t c : Nat) (k : Core) (i : Inst) (e : Entry) (s : State) : State :=
  let n := i.spilled.length
  let (i, bad) := i.unspill n
  let k := { k with restoredCount := k.restoredCount + BitVec.ofNat 32 n, state := .running, warm := false, admitted := false, waiting := none }
  let i := { i with restoring := false }
  if bad then
    let i := i.cutShort
    (failRestore i (s.setCore t c { k with run := some i })).settleCore t c
  else
    let i := i.fromRecord k.save
    let sets := 0x3040 + 2048 * ((i.sash.map (fun p => p.rows)).getD 0)
    let x : Exec := { s, k, i, t, c, e, word := i.pc, loops := [] }
    let (x, a) := x.reload i.active (if i.savesActive then some sets else none)
    let (x, b) := if i.shadowFull then x.reload i.shadow (if i.savesShadow then some (sets + (if i.savesActive then 17408 else 0)) else none)
      else (x, i.shadow)
    let i := { x.i with active := a, shadow := b, sash := i.sash.map (savedSash k.save) }
    let i := if x.err.isSome then i.cutShort else i
    (({ x with i } : Exec).close).settleCore t c

/-- INSTANCE_END: the run on a core is over, or the restore of a pre-empted one is; on a core that only holds a pre-empted instance, that
instance begins to resume (07 R228, R245, R246). -/
def execInstanceEnd (t c : Nat) (s : State) : Host.Outcome State Fault Refusal :=
  let k := s.core t c
  match k.run with
  | none => if k.held.isSome && k.state == .idle then .next (s.freeCore t c) else .next s
  | some i =>
    match s.entry? i.cmd with
    | none => .next s
    | some e => if k.state == .resuming && i.restoring then .next (endRestore t c k i e s) else endRun t c k i e s

end Sys2Proof.Machine
end

