-- ==== Sys2Proof/Machine/Hbm.lean ====
section
/-! DEFINITION. The HBM controllers' events (chapter 10): queues, row failures, granule moves, recalibration, map-out and
temperature. -/

namespace Sys2Proof.Machine

/-! ### Failing rows (10 R340 to R342) -/

/-- The row of the line at device address `d` fails: the first failure is recorded and scheduled for repair. The home granule on it
is to move, unless the pool is empty; a granule of the pool is left out of it until the repair. -/
def rowFails (d : Nat) (home : Option Nat) (s : State) : State :=
  let r := s.rowOfDevice d
  let g := d / 2 ^ 21
  if s.home.failing.any (fun f => f.1 == r) then s
  else
    let s := appendRepair 9 r.stack r.pc (r.bank + 256 * r.row) s
    let s := s.updStack r.stack (fun k => { k with rowsFound := satAdd 8 k.rowsFound 1 })
    let s := { s with home := { s.home with failing := s.home.failing ++ [(r, g)] } }
    let st := (s.pc r.stack r.pc).state.code
    let s := memoryEvent 2 r.stack r.pc st (home.getD 0) s
    match home with
    | some l =>
      if s.poolTake.isSome then { s with home := { s.home with moves := insertNat (l / 2 ^ 21) s.home.moves } }
      else memoryEvent 4 r.stack r.pc st l s
    | none => if s.poolFree g then { s with home := { s.home with waiting := insertNat g s.home.waiting } } else s

/-- A local-store line that stands in the spill frame of a core reads uncorrectable there (07 R247). -/
def spillFails (at_ : Option (Nat × Nat × Nat)) (s : State) : State :=
  match at_ with
  | none => s
  | some (t, c, o) =>
    let bad (p : Inst) : Inst := if p.spilled.contains (lineOf o) then { p with badFrame := insertNat (lineOf o) p.badFrame } else p
    s.updCore t c (fun k => { k with held := k.held.map bad, run := k.run.map bad })

/-- The line at device address `d` reads uncorrectable from now on. -/
def loseLine (d : Nat) (home : Option Nat) (s : State) : State :=
  match home with
  | some l => { s with poison := insertNat l s.poison }
  | none => spillFails (s.spillAt d) s

/-- The second is over the rate of 10 R344: more than 256 corrected lines spread over more than 8 rows. -/
def Pc.overRate (q : Pc) : Bool := decide (256 < q.corrected) && decide (8 < q.badRows.length)

/-- A corrected read of a row at a station time. -/
def Pc.correct (q : Pc) (r : RowId) (now : Nat) : Pc :=
  let sec := now / 1000000000
  let at_ := (r.bank, r.row)
  let q := { q with ce := satAdd 16 q.ce 1 }
  if sec = q.second then
    { q with corrected := q.corrected + 1, badRows := if q.badRows.contains at_ then q.badRows else (q.badRows ++ [at_]).take 9 }
  else
    { q with second := sec, corrected := 1, badRows := [at_]
             overSeconds := if sec = q.second + 1 ∧ q.overRate = true then q.overSeconds + 1 else 0 }

/-- The pseudo-channel has been over the rate for 10 s (10 R344). -/
def Pc.degradingRate (q : Pc) : Bool := decide (10 ≤ q.overSeconds + natOfBool q.overRate)

/-- The line at device address `d`, a home line or none, is read with `errs` erroneous bytes of 72 (10 R327, R328, R340): the
state, and whether the line is uncorrectable. -/
def lineRead (d : Nat) (home : Option Nat) (errs : Nat) (s : State) : State × Bool :=
  let r := s.rowOfDevice d
  if errs = 0 then (s, false)
  else if errs ≤ correctable then
    let s := s.updStack r.stack (fun k => { k with ce := satAdd 16 k.ce 1 })
    let s := s.updPc r.stack r.pc (fun q => q.correct r s.now)
    let times := (s.home.rowTimes ++ [(r, s.now)]).filter (fun e => decide (s.now < e.2 + hourNs))
    let s := { s with home := { s.home with rowTimes := times } }
    let many := decide (16 ≤ (times.filter (fun e => e.1 == r)).length)
    (if 3 ≤ errs ∨ many then rowFails d home s else s, false)
  else (rowFails d home (countBad r home (loseLine d home s)), true)

/-- A read of a home line: one lost before reads uncorrectable again, and one read now is judged by its errors. -/
def homeRead (line errs : Nat) (s : State) : State × Bool :=
  if s.poison.contains line then (countBad (s.rowOfHome line) (some line) s, true)
  else lineRead (s.deviceAddr line) (some line) errs s

/-! ### Queues (10 R329, R330) -/

/-- The read has waited for 2 µs (10 R329). -/
def PcRead.old (r : PcRead) (now : Nat) : Bool := r.first || decide (r.since + 2000 ≤ now)

/-- Queued reads of a bank that hit its open row, oldest first. -/
def State.openHits (s : State) (n p : Nat) (live : List PcRead) : List PcRead :=
  live.filter (fun r => Table.get 0 (s.pc n p).rows (s.rowOfHome r.line).bank == (s.rowOfHome r.line).row + 1)

/-- A queued read goes before another of its bank: by the 2 µs rule, then by the open row, then by age. Reads that run ahead come after
every other (08 R275). -/
def State.nextRead (s : State) (n p : Nat) : Option PcRead :=
  let q := s.pc n p
  let all := q.reads.filter (fun r => !r.held)
  let demand := all.filter (fun r => !r.who.runsAhead)
  let live := if demand.isEmpty then all else demand
  match live with
  | [] => none
  | o :: _ =>
    let bank (r : PcRead) : Nat := (s.rowOfHome r.line).bank
    let mine := live.filter (fun r => bank r == bank o)
    let hits := s.openHits n p mine
    match mine.find? (fun r => r.old s.now) with
    | some r => some r
    | none => match hits with
      | r :: _ => some r
      | [] => some o

/-- Remove the first read equal to `r`. -/
def dropRead (r : PcRead) (l : List PcRead) : List PcRead := l.erase r

/-- Reads held in their requesters enter the queue while it and their banks have room, reads that run ahead after every other (08 R275);
the 2 µs of 10 R329 count from then. -/
def State.admitHeld (s : State) (n p : Nat) : State :=
  let one (acc : List PcRead × List PcRead) (r : PcRead) : List PcRead × List PcRead :=
    let bank (r : PcRead) : Nat := (s.rowOfHome r.line).bank
    if r.held && decide (acc.2.length < 128) && decide ((acc.2.filter (fun q => bank q == bank r)).length < 16)
    then (acc.1 ++ [{ r with held := false, since := s.now }], acc.2 ++ [r]) else (acc.1 ++ [r], acc.2)
  let live := (s.pc n p).reads.filter (fun r => !r.held)
  let order (l : List PcRead) : List PcRead := l.filter (fun r => !r.who.runsAhead) ++ l.filter (fun r => r.who.runsAhead)
  s.updPc n p (fun q => { q with reads := ((order q.reads).foldl one ([], live)).1 })

/-- The first row of an operand of the op that holds the line. -/
def Exec.rowOf (x : Exec) (j line : Nat) : Option Nat :=
  let a := x.opnd j
  let has (d : Od) (off : Int) (k : Nat) : Bool :=
    !d.ls && (linesOf (x.s.localAddr ((x.e.seg d.seg).base + (off + d.lineOff k).toNat)) d.rowBytes).contains line
  (upTo a.od.lines).find? (fun k => has a.od a.off k || (match a.sc with
    | some (d, off) => has d off (a.od.scaleLine k)
    | none => false))

/-- The first row of the op that takes the line from its operand A or B. -/
def Exec.rowWith (x : Exec) (line : Nat) : Option Nat :=
  match x.rowOf 0 line, if wordUses x.w 1 then x.rowOf 1 line else none with
  | some r, some q => some (min r q)
  | some r, none => some r
  | none, q => q

/-- An op of a run that read a line which proves uncorrectable does no further work; a copy or a stream has not delivered the rows from
that line on, and a stream's partial is dropped (06 R223; 10 R328). -/
def stopOp (line t c word : Nat) (e : Entry) (s : State) (k : Core) (i : Inst) : State × Inst :=
  match i.ops.find? (fun o => o.started && o.word == word) with
  | none => (s, i)
  | some o =>
    let x := Exec.of s k i t c e o
    let x := match x.rowWith line with
      | some r =>
        if o.eng == Engine.mov && wordOp x.w != 0x0805 then x.undoRows o.before r
        else if wordOp x.w == 0x0C02 then
          let x := (x.stopStream o r).1
          { x with i := { x.i with sash := none } }
        else x
      | none => x
    (x.s, { x.i with ops := updOp { o with failed := true } x.i.ops })

/-- A host core takes the line that its load waits for (10 R329). -/
def hostFill (t u line : Nat) (s : State) : State :=
  s.updUcore t u (fun k => { k with lines := (line :: k.lines).take cacheLines, fills := k.fills.erase line })

/-- A reduction that fails leaves its tensor's step count as it was (11 R367). -/
def undoTensor (id : CmdId) (e : Entry) (s : State) : State :=
  let back (t : RedTensor) : RedTensor := { t with count := (t.count + e.redPeriod - 1) % e.redPeriod }
  if e.reduces then s.updCtx id.ctx (fun c => { c with tensors := Table.upd {} c.tensors e.redTensor back }) else s

/-- What a read that the controller has served gives its reader: a host core takes the line; a read from outside has its answer with the
last line. -/
def giveReader (r : PcRead) (s : State) : State :=
  match r.who with
  | .host t u => hostFill t u r.line s
  | .remote src _ a bs => if s.linesPending r.who a bs.length then s else s.respond src bs
  | .tlp p _ a mem bs => if s.linesPending r.who a bs.length then s else tlpData p a mem bs s
  | _ => s

/-- A read from outside takes no more lines. -/
def State.dropReads (s : State) (who : Reader) (a n : Nat) : State :=
  (linesOf (s.localAddr a) n).foldl (fun s l => s.dropOneRead who l) s

/-- What a read that served an uncorrectable line does to its reader: the command of an op or of a copy fails (08 R282; 10 R328; 03
R113); a host core's access meets it when it is made again (03 R124). -/
def failReader (r : PcRead) (s : State) : State :=
  match r.who with
  | .op t c id inst word seg =>
    match s.entry? id with
    | some e =>
      if e.isFinished then s
      else
        let k := s.core t c
        let mine (i : Inst) : Bool := i.of id && i.index == inst
        let s := match k.run.filter mine, k.held.filter mine with
          | some i, _ => let (s, i) := stopOp r.line t c word e s k i; s.updCore t c (fun k => { k with run := some i })
          | none, some i => let (s, i) := stopOp r.line t c word e s k i; s.updCore t c (fun k => { k with held := some i })
          | none, none => s
        (failCommand id inst sUncorrectable 0 (faultRecord id.ctx id.ring id.seq seg 1 r.line s)).settleCore t c
    | none => s
  | .command id seg =>
    let met (s : State) : State := faultRecord id.ctx id.ring id.seq seg 1 r.line s
    match s.entry? id with
    | none => s
    | some e =>
      match e.phase with
      | .finished x =>
        if e.opcode = 0x0401 then failSync id s
        else if isCompleted x.status then
          (undoTensor id e (met s)).updEntry id (fun e => { e with phase := .finished (.of sUncorrectable) })
        else s
      | .running => finishWith id (.of sUncorrectable) (met s)
      | _ => s
  | .ahead t c => s.updCore t c (fun k => { k with runAhead := k.runAhead.filter (fun a => !(linesOf (s.localAddr a.addr) a.data.length).contains r.line) })
  | .host t u => s.updUcore t u (fun k => { k with fills := k.fills.erase r.line, badFills := insertNat r.line k.badFills })
  | .remote src _ a bs => (s.dropReads r.who a bs.length).respond src []
  | .tlp p _ a _ bs => tlpError p (s.dropReads r.who a bs.length)
  | _ => s

/-- The line of a read that runs ahead, which records nothing of an uncorrectable line (08 R275), or of any other. -/
def servedRead (r : PcRead) (errs : Nat) (s : State) : State × Bool :=
  if r.who.runsAhead && (s.poison.contains r.line || decide (correctable < errs)) then (s, true) else homeRead r.line errs s

/-- The 2 µs rule puts a read before one that hits the open row of its bank (10 R329, R352 AGED). -/
def State.servedEarly (s : State) (n p : Nat) (r : PcRead) : Bool :=
  let bank (q : PcRead) : Nat := (s.rowOfHome q.line).bank
  r.old s.now && (s.openHits n p ((s.pc n p).reads.filter (fun q => !q.held && bank q == bank r))).head?.any (fun q => q != r)

/-- A read leaves its queue and is served: its bytes are counted, and its row is open. -/
def State.popRead (s : State) (n p : Nat) (r : PcRead) : State :=
  let row := s.rowOfHome r.line
  let early := s.servedEarly n p r
  let s := s.updPc n p (fun q => { q with reads := dropRead r q.reads, rows := Table.put 0 q.rows row.bank (row.row + 1) })
  s.updStack n (fun k => { k with rdBytes := k.rdBytes + 64, aged := if early then satAdd 32 k.aged 1 else k.aged })

/-- An accumulate is applied: one indivisible read-modify-write of the line; bytes that its op also reads hold free values (08 R262). An
uncorrectable line stays as it is. Of an accumulate toward a package that is down, whether it was applied is undetermined (08 R278, R282): a
free value decides. -/
def applyAcc (i : Nat) (a : Acc) (errs : Nat) (s : State) : State :=
  let s := (State.forwardAcc a { s with accs := s.accs.eraseIdx i }) |> readCode a.addr errs
  let s := if a.own then s.unkeep a.addr else s
  match s.readMem a.addr 64 with
  | .ok line =>
    let (bs, sat) := a.apply line
    ackAccumulate a sat none ((s.poke a.addr bs).scramble a.shared |>.noteAccumulate a)
  | .error er =>
    let lost := match er with
      | .peerDown _ => true
      | .timeout => true
      | _ => false
    let (v, s) := if lost then s.draw else (0, s)
    let s := if v % 2 = 1 then s.poke a.addr (a.apply (s.peek a.addr 64)).1 else s
    ackAccumulate a false (some er) s

/-- The controller serves the read `r` of an adder, and the adder's write of the line enters the write queue with it: no other request
comes between (10 R331). -/
def serveAdder (n p i : Nat) (a : Acc) (r : PcRead) (errs : Nat) (s : State) : State :=
  (applyAcc i a 0 (homeRead r.line errs (s.popRead n p r)).1).admitHeld n p

/-- The first accumulate in flight of a line. -/
def State.accAt (s : State) (line : Nat) : Option (Nat × Acc) :=
  (s.accs.zipIdx.find? (fun e => lineOf (s.localAddr e.1.addr) == line)).map (fun e => (e.2, e.1))

/-- HBM_READ_SERVE: the pseudo-channel serves its next read, an adder's with the accumulate that it is for; with none queued it serves
writes. -/
def execHbmReadServe (n p errs : Nat) (s : State) : Host.Outcome State Fault Refusal :=
  if !(s.stack n).inService || (s.pc n p).state == .recalibrating then .next s
  else match s.nextRead n p with
    | none => .next (s.drainWrites n p)
    | some r =>
      match if r.who == .adder then s.accAt r.line else none with
      | some (i, a) => .next (serveAdder n p i a r errs s)
      | none =>
        let (s, bad) := servedRead r errs (s.popRead n p r)
        let s := if bad then failReader r s else giveReader r s
        .next (s.admitHeld n p)

/-- ACCUMULATE_APPLY: an adder applies an accumulate in flight. One that reads home memory does so in the turn of its read (10 R329,
R331). -/
def execAccumulateApply (k : AddAt) (s : State) : Host.Outcome State Fault Refusal :=
  match s.accs[k.index]? with
  | none => .next s
  | some a =>
    if !s.accPending a then .next (if s.noRoom [lineOf (s.localAddr a.addr)] then s else applyAcc k.index a k.errs s)
    else
      let row := s.rowOfHome (s.localAddr a.addr)
      if !(s.stack row.stack).inService || (s.pc row.stack row.pc).state == .recalibrating then .next s
      else match s.nextRead row.stack row.pc with
        | some r =>
          if r.who == .adder && r.line == lineOf (s.localAddr a.addr) then .next (serveAdder row.stack row.pc k.index a r k.errs s) else .next s
        | none => .next s

/-- READ_AGE_PROMOTE: the oldest queued read has waited 2 µs and goes before every younger read of its bank. -/
def execReadAgePromote (n p : Nat) (s : State) : Host.Outcome State Fault Refusal :=
  match (s.pc n p).reads.find? (fun r => !r.held && !r.first) with
  | none => .next s
  | some r =>
    let s := advanceTo (r.since + 2000) s
    .next (s.updPc n p (fun q => { q with reads := q.reads.map (fun x => if x == r then { x with first := true } else x) }))

/-- WRITE_QUEUE_ENTER: a write is acknowledged and globally visible when it enters its write queue; until that has room it waits
(10 R330). -/
def execWriteQueueEnter (addr : Nat) (data : List Byte) (s : State) : Host.Outcome State Fault Refusal :=
  if 0x6000000000 ≤ addr || s.noRoom (linesOf addr data.length) then .next s
  else match s.writeMem addr data with
    | .ok s => .next (s.noteWrites addr data.length)
    | .error _ => .next s

/-- The home line at a device address, if a home granule stands there. -/
def State.homeLine (s : State) (d : Nat) : Option Nat := (s.homeGranule (d / 2 ^ 21)).map (fun g => g * 2 ^ 21 + d % 2 ^ 21)

/-- SCRUB_READ: a background scrub reads and corrects the line at a device address, be it of home, spill or pool (10 R328). The address of
line `i` of frame `f` of sill `n`, counted as in the direct window, names a line of the Sill instead, which no scrub reads: `errs` of its
bytes come to be in error, as its next read finds (09 R320; log 112). -/
def execScrubRead (addr errs : Nat) (s : State) : Host.Outcome State Fault Refusal :=
  let d := lineOf addr
  if directBase ≤ addr then .next { s with strikes := Table.put 0 s.strikes ((addr - directBase) / 64) errs }
  else if !(s.stack (s.variant.stackOf d).1).inService then .next s
  else match s.homeLine d with
    | some l => .next (homeRead l errs s).1
    | none => .next (lineRead d none errs s).1

/-! ### Granule moves (10 R338, R347) -/

/-- Bytes of a device granule that lie in a stack (10 R325). -/
def Variant.granuleBytes (v : Variant) (d n : Nat) : Nat :=
  4096 * ((upTo 512).filter (fun k => (v.stackOf (d * 2 ^ 21 + k * 4096)).1 == n)).length

/-- The traffic of copying device granule `old` to `new` (10 R338). -/
def State.granuleTraffic (s : State) (old new : Nat) : State :=
  s.variant.positions.foldl (fun s n => s.traffic n (s.variant.granuleBytes old n) (s.variant.granuleBytes new n)) s

/-- Move a home granule to a pool granule; its old one returns to the pool, waits for repair, or is withdrawn or retired. Lines that read
uncorrectable are uncorrectable at their new place. With an empty pool nothing moves, and the condition is logged (10 R342). -/
def State.moveGranule (s : State) (g : Nat) : State :=
  match s.poolTake with
  | none =>
    let r := s.rowOfHome (g * 2 ^ 21)
    memoryEvent 4 r.stack r.pc (s.pc r.stack r.pc).state.code (g * 2 ^ 21)
      { s with home := { s.home with moves := s.home.moves.filter (fun x => x != g) } }
  | some d =>
    let old := s.deviceGranule g
    let keep := s.home.moves.contains g
    let h := s.home.take d (s.granuleInPool d)
    let h := { h with
      remap := Table.put 0 h.remap g (d + 1)
      moves := h.moves.filter (fun x => x != g)
      waiting := if keep then insertNat old h.waiting else h.waiting }
    let out := keep || h.retired.contains old || (s.journaled && s.variant.withdraws old)
    let h := if out then h else h.give old (s.granuleInPool old)
    fltPost 3 3 noUnit noUnit (g * 2 ^ 21) 0 0 ({ s with home := h }.granuleTraffic old d)

/-- The home granule stands on a withdrawn device granule. -/
def State.onWithdrawn (s : State) (g : Nat) : Bool := s.journaled && s.variant.withdraws (s.deviceGranule g)

/-- GRANULE_MOVE: the granule of a failing row, or one on a withdrawn device granule, moves (10 R338, R340, R347); it holds while an edge
retrains (13 R432). -/
def execGranuleMove (g : Nat) (s : State) : Host.Outcome State Fault Refusal :=
  if s.stalled then .next s else if g < s.home.granules ∧ (s.home.moves.contains g || s.onWithdrawn g) = true then .next (s.moveGranule g) else .next s

/-! ### Recalibration and degrading pseudo-channels (10 R343 to R345) -/

/-- Granules of the spill range whose contents stand on a device granule that is withdrawn or retired (10 R341, R347). -/
def State.spillToMove (s : State) : List Nat :=
  let v := s.variant
  let out (g : Nat) : Bool :=
    let d := s.home.spillPlace g
    (s.journaled && v.withdraws d) || s.home.retired.contains d
  if !s.journaled && s.home.retired.isEmpty then [] else ((upTo (v.pool0 - v.u0)).map (fun i => v.u0 + i)).filter out

/-- Moves that a map-out needs: home granules on granules to be withdrawn, and spill granules not moved yet. -/
def State.mapoutMoves (s : State) : Nat :=
  ((upTo s.home.granules).filter (fun g => s.variant.withdraws (s.deviceGranule g))).length + s.spillToMove.length

/-- The pool can take every move of a map-out. -/
def State.poolTakes (s : State) (n p : Nat) : Bool :=
  let s' := { s with home := { s.home with journals := s.home.journals ++ [(n, p, false)] } }
  decide (s'.mapoutMoves ≤ s'.poolCount)

/-- A pseudo-channel is degrading: it is journaled for a map-out where that is possible, else recorded and left in service. -/
def degrade (n p : Nat) (s : State) : State :=
  let s := s.updPc n p (fun q => { q with state := .degrading })
  if (s.stack n).mapPc.isNone && s.poolTakes n p then
    let s := appendRepair 0x0C n p 0 s
    let s := s.updStack n (fun k => { k with mapPc := some p, mapState := 1 })
    memoryEvent 5 n p 1 0 { s with home := { s.home with journals := s.home.journals ++ [(n, p, false)] } }
  else memoryEvent 5 n p 2 0 (appendRepair 0x0E n p 0 s)

/-- 250 ms and 10 s in ns. -/
def recalGapNs : Nat := 250000000
def recalPeriodNs : Nat := 10000000000

/-- The pseudo-channel may be recalibrated now, but for the 250 ms rule. -/
def State.mayRecalibrate (s : State) (n p : Nat) : Bool :=
  (s.stack n).inService && (s.stack n).mapPc != some p && !(s.stack n).pcs.any (fun q => q.2.state == .recalibrating) &&
    ((s.pc n p).state == .inService || (s.pc n p).state == .degrading)

/-- When a recalibration for a cause may begin: the 10 s of a period count from the last recalibration, or from the training. -/
def State.recalAt (s : State) (n p : Nat) : RecalCause → Nat
  | .period => (s.pc n p).lastCal.getD (s.stack n).trainedAt + recalPeriodNs
  | _ => 0

/-- The temperature at the last recalibration of a pseudo-channel, or at the training of its stack (10 R343). -/
def State.calTemp (s : State) (n p : Nat) : Int := if (s.pc n p).lastCal.isSome then (s.pc n p).calTemp else (s.stack n).trainedTemp

/-- The trigger of a recalibration holds at station time `now`, and the last one is 250 ms past. -/
def State.recalDue (s : State) (n p now : Nat) (cause : RecalCause) : Bool :=
  let q := s.pc n p
  let spaced := match q.lastCal with
    | some t => decide (t + recalGapNs ≤ now)
    | none => true
  spaced && (match cause with
    | .temperature => decide (8 ≤ ((s.stack n).temp - s.calTemp n p).natAbs)
    | _ => true)

/-- RECALIBRATION starts: one pseudo-channel of a stack at a time, each at most once in 250 ms (10 R343). -/
def execRecalibration (n p : Nat) (cause : RecalCause) (s : State) : Host.Outcome State Fault Refusal :=
  let t := max s.now (s.recalAt n p cause)
  if s.mayRecalibrate n p && s.recalDue n p t cause then
    .next ((advanceTo t s).updPc n p (fun q => { q with
      state := .recalibrating, before := q.state, recals := satAdd 8 q.recals 1, lastCal := some t, calTemp := (s.stack n).temp }))
  else .next s

/-- A write queue that filled up during a recalibration drains after it, and writes that waited for room enter it. -/
def State.resumeWrites (s : State) (n p : Nat) : State :=
  let late := (s.pc n p).heldWrites
  let s := if 48 ≤ (s.pc n p).writes.length then s.drainWrites n p else s
  late.foldl (fun s w => landWrite w.src w.addr w.data s) (s.updPc n p (fun q => { q with heldWrites := [] }))

/-- RECALIBRATION_DONE: the queues go on; a recalibration that misses its margin makes the pseudo-channel degrading (10 R344). -/
def execRecalibrationDone (n p : Nat) (margin : Bool) (s : State) : Host.Outcome State Fault Refusal :=
  let q := s.pc n p
  if q.state == .recalibrating then
    let s := (s.updPc n p (fun q => { q with state := q.before })).resumeWrites n p
    if margin || q.before == .degrading then .next s else .next (degrade n p s)
  else .next s

/-- DEGRADING_ERROR_RATE: more than 256 corrected lines a second over more than 8 rows, for 10 s (10 R344). -/
def execDegradingErrorRate (n p : Nat) (s : State) : Host.Outcome State Fault Refusal :=
  if (s.stack n).inService && (s.pc n p).state == .inService && (s.pc n p).degradingRate then .next (degrade n p s) else .next s

/-! ### Map-out (10 R347) -/

/-- Device granules of the package. -/
def Variant.deviceGranules : Variant → Nat
  | .f6 => 147456 | _ => 196608

/-- Move spill granules to pool granules. -/
def State.moveSpill : List Nat → State → State
  | [], s => s
  | g :: gs, s => match s.poolTake with
    | none => s
    | some d =>
      let old := s.home.spillPlace g
      let h := s.home.take d (s.granuleInPool d)
      State.moveSpill gs ({ s with home := { h with spillMap := Table.put 0 h.spillMap g (d + 1) } }.granuleTraffic old d)

/-- Spill granules on withdrawn or retired device granules move (10 R341, R347). -/
def State.clearSpill (s : State) : State :=
  let s := State.moveSpill s.spillToMove s
  { s with home := { s.home with spillMoved := s.home.spillMoved || s.journaled } }

/-- Step 2 of a map-out: one home granule at a time leaves its withdrawn device granule; then the spill granules, and step 3
begins. -/
def mapoutMoveStep (n p : Nat) (s : State) : State :=
  match (upTo s.home.granules).find? s.onWithdrawn with
  | some g => s.moveGranule g
  | none =>
    let s := s.clearSpill
    let total := s.variant.deviceGranules - s.variant.deviceGranules / s.variant.withdrawMod
    let s := s.updStack n (fun k => { k with mapState := 3, mapNext := 0, done := 0, total })
    memoryEvent 5 n p 3 0 (s.updPc n p (fun q => { q with state := .restriping }))

/-- Step 4: the pseudo-channel is mapped out. -/
def mapoutDone (n p : Nat) (s : State) : State :=
  let s := appendRepair 0x0D n p 0 s
  let s := s.updStack n (fun k => { k with mapState := 4 })
  let s := s.updPc n p (fun q => { q with state := .mappedOut })
  let js := s.home.journals.map (fun j => if j.1 == n && j.2.1 == p then (n, p, true) else j)
  memoryEvent 5 n p 4 0 { s with home := { s.home with journals := js } }

/-- Lines, by device address, of granule `d` that lie on pseudo-channel `x` of stack `n` in the plain layout: 4 KiB (10 R326, R347). -/
def Variant.piecesOn (v : Variant) (n x d : Nat) : List Nat :=
  (upTo 512).flatMap (fun k =>
    let a := d * 2 ^ 21 + 4096 * k
    let at_ := v.stackOf a
    if at_.1 = n then
      ((upTo 16).filter (fun i => (pcPlain (at_.2 + 256 * i)).1 == x)).flatMap (fun i => (upTo 4).map (fun j => a + 256 * i + 64 * j))
    else [])

/-- The pieces of a granule that a failed pseudo-channel still held are lost: their lines read uncorrectable from then on, wherever they
move (10 R348). -/
def losePieces (n x d : Nat) (s : State) : State :=
  (s.variant.piecesOn n x d).foldl (fun s a => loseLine a (s.homeLine a) s) s

/-- The pseudo-channel being mapped out fails: what home and spill granules still hold on it is lost (10 R348). -/
def failMapped (n x : Nat) (s : State) : State :=
  let k := s.stack n
  if k.mapFailed || k.mapState = 4 then s
  else
    let places := (upTo s.home.granules).map s.deviceGranule ++
      (upTo (s.variant.pool0 - s.variant.u0)).map (fun i => s.home.spillPlace (s.variant.u0 + i))
    let left := places.filter (fun d => k.mapState != 3 || decide (k.mapNext ≤ d))
    left.foldl (fun s d => losePieces n x d s) (s.updStack n (fun k => { k with mapFailed := true }))

/-- Step 3 of a map-out for one granule: its pieces move, and the next granule follows a PACE interval later. -/
def mapoutPieces (n p : Nat) (s : State) : State :=
  let k := s.stack n
  let s := advanceTo ((s.now / (1000 * k.pace) + 1) * (1000 * k.pace)) s
  let d := s.variant.liveFrom k.mapNext
  let s := (s.updStack n (fun k => { k with mapNext := d + 1, done := k.done + 1 })).traffic n 4096 4096
  if k.done + 1 ≥ k.total then mapoutDone n p s else s

/-- MAPOUT_GRANULE_STEP: the next step of a map-out: journaled, moving granules, then one granule's pieces a PACE interval. Steps that move
data hold while an edge retrains (13 R432). -/
def execMapoutGranuleStep (m : MapoutAt) (s : State) : Host.Outcome State Fault Refusal :=
  let n := m.stack
  let k := s.stack n
  match k.mapPc with
  | none => .next s
  | some p =>
    if !k.inService then .next s
    else
      let s := if m.failed then failMapped n p s else s
      match k.mapState with
      | 1 => .next (memoryEvent 5 n p 2 0 (s.updStack n (fun k => { k with mapState := 2 })))
      | 2 => .next (if s.stalled then s else mapoutMoveStep n p s)
      | 3 => .next (if s.stalled then s else mapoutPieces n p s)
      | _ => .next s

/-! ### Temperature (10 R333; 14 R453) -/

/-- Refresh code of a temperature on the way up, and the code that a fall to it allows. -/
def refreshUp (t : Int) : Nat := if t ≤ 85 then 0 else if t ≤ 95 then 1 else if t ≤ 105 then 2 else 3
def refreshDown (t : Int) : Nat := if t ≤ 83 then 0 else if t ≤ 93 then 1 else 2

/-- Set bit `b` of PWR_EVT and log it (14 R457; 15 R487). -/
def powerEvent (b unit reading limit : Nat) (s : State) : State :=
  fltPost 5 (1 + b) unit noUnit 0 reading limit { s with power := { s.power with evt := s.power.evt ||| 2 ^ b } }

/-- HBM_TEMP_READ: the refresh rate rises at once and falls 2 °C below a threshold; above 105 °C the stack shuts down. -/
def execHbmTempRead (n : Nat) (temp : Int) (s : State) : Host.Outcome State Fault Refusal :=
  let k := s.stack n
  if !k.inService then .next s
  else
    let up := refreshUp temp
    let r := if k.refresh < up then up else min k.refresh (refreshDown temp)
    let s := s.updStack n (fun k => { k with temp, refresh := r })
    if up = 3 then .next (powerEvent 6 n temp.toNat 105 (stackLost n s)) else .next s

end Sys2Proof.Machine
end

