-- ==== Sys2Proof/Machine/Power.lean ====
section
/-! DEFINITION. Power and heat (chapter 14): readings, the controller, limits, thermal limits, the current guard and supply
domains. Power is in mW and energy in mW × 10 µs. -/

namespace Sys2Proof.Machine

/-! ### The issue limit (14 R440) -/

/-- The issue limit of the cores of a tile: the least of L_PWR, L_SILL, L_DIE and L_CUR. -/
def State.limitOf (s : State) (t : Nat) : Nat :=
  let x := s.tpower t
  min (min s.power.lPwr x.lSill) (min x.lDie (if x.guard then 8 else 64))

/-- Give the cores of a tile its issue limit. -/
def applyLimit (t : Nat) (s : State) : State :=
  if !(s.tile t).inService then s
  else (upTo 64).foldl (fun s c =>
    let k := s.core t c
    if k.inService && k.target != s.limitOf t then s.setCore t c (k.setLimit (s.limitOf t) (k.cycle s.clk.ac)) else s) s

/-- Give every core its issue limit. -/
def applyLimits (s : State) : State := (upTo 8).foldl (fun s t => applyLimit t s) s

/-! ### Measuring (14 R439, R441, R457) -/

/-- The moment of the next periodic run after one at `last`. -/
def nextDue (last period : Nat) : Nat := (last / period + 1) * period

/-- The moment of a periodic run: the last multiple of its period. A run that comes late counts as the one due last (log 9). -/
def runMoment (now period : Nat) : Nat := now / period * period

/-- What the regulators of a tile's sill record besides: the deepest droop since the last reading, and how many went beyond 48 mV; both
are free. -/
def noteDroop (t : Nat) (s : State) : State :=
  if !(s.tile t).memory then s
  else
    let (v, s) := s.draw
    let d := v % 1024
    s.updTpower t (fun x => { x with droop := max x.droop d, droops := if 48 < d then satAdd 16 x.droops (1 + v / 1024 % 65535) else x.droops })

/-- The laser supplies draw power that no command gives, and the modules have a temperature that no command gives; both are free. -/
def noteLasers (s : State) : State :=
  let s := (upTo 8).foldl (fun s n =>
    if (s.laser n).ready then
      let (v, s) := s.draw
      s.updLaser n (fun m => { m with temp := v % 256 })
    else s) s
  if (upTo 8).any (fun n => (s.laser n).ready) then
    let (v, s) := s.draw
    { s with power := { s.power with laserW := v % 2 ^ 16 } }
  else { s with power := { s.power with laserW := 0 } }

/-- POWER_MEASURE: every 10 µs each bus is read, and the package's energy is summed. -/
def execPowerMeasure (buses : List Nat) (s : State) : Host.Outcome State Fault Refusal :=
  let s := advanceTo (nextDue s.power.measuredAt 10000) s
  let p := s.power
  let s := { s with power := { p with
    energy := p.energy + buses.sum, second := p.second + buses.sum, recent := (buses :: p.recent).take 5, measuredAt := runMoment s.now 10000 } }
  .next (noteLasers ((upTo 8).foldl (fun s t => noteDroop t s) s))

/-- The mean of the last readings of one bus. -/
def Power.meanOf (p : Power) (b : Nat) : Nat := (p.recent.map (fun r => r.getD b 0)).sum / max 1 p.recent.length

/-- The mean package power of the last readings, in mW. -/
def Power.meanMw (p : Power) : Nat := (p.recent.map List.sum).sum / max 1 p.recent.length

/-! ### The controller (14 R444 to R446) -/

/-- The ceiling of an excursion, in W (14 R445). -/
def Variant.ceilingW : Variant → Nat
  | .f8 => 4400 | .f6 => 3360 | .f8l => 4170

/-- The power that may be drawn until the second ends, in mW, at the moment of the controller's run (14 R444). -/
def Power.target (p : Power) (ceilingW : Nat) : Int :=
  let prev := p.seconds.take (p.forceWin - 1)
  let a : Int := (p.forceW * (prev.length + 1) * 100000000 : Nat) - ((prev.map (fun e => e.1)).sum + p.second : Nat)
  let left := nextDue p.secondStart 1000000000 - p.controlledAt
  let r := max left 50000000
  let t := min (a * 10000 / r) (ceilingW * 1000 : Nat)
  if 0 < p.holdRuns then min t (p.forceW * 1000 : Nat) else t

/-- The excursion that an interval of 50 µs starts, continues or ends. -/
def Power.excurse (p : Power) : Power :=
  let p := { p with holdRuns := p.holdRuns - 1 }
  if p.powerMw ≤ p.forceW * 1000 then { p with excursion := false, overRuns := 0 } else { p with excursion := true, overRuns := p.overRuns + 1 }

/-- Intervals of 50 µs in 50 ms, in 450 ms and in a second. -/
def excursionRuns : Nat := 1000
def heldRuns : Nat := 9000
def secondRuns : Nat := 20000

/-- An excursion has lasted 50 ms: the target is held at the limit for 450 ms from now, and EXCURSION_CUT says so. -/
def cutExcursion (s : State) : State :=
  let p := s.power
  if p.overRuns = excursionRuns then powerEvent 1 noUnit (p.powerMw / 1000) p.forceW { s with power := { p with holdRuns := heldRuns } }
  else s

/-- The largest l whose predicted power meets the target, else 1. -/
def wantedLimit (model : List Nat) (target : Int) : Nat :=
  (((upTo 64).map (fun i => 64 - i)).find? (fun l => decide (((model.getD (l - 1) 0 : Nat) : Int) ≤ target))).getD 1

/-- L_PWR and the engine pace after a run: the pace falls while L_PWR stands at 1 and the target is missed, whatever the model
predicts, and rises before L_PWR does. -/
def Power.steer (p : Power) (want : Nat) (missed : Bool) : Power :=
  if p.lPwr = 1 && missed then { p with pace := max 8 (p.pace - 8) }
  else if p.pace < 64 then { p with lPwr := 1, pace := min 64 (p.pace + 8) }
  else { p with lPwr := if p.lPwr < want then min want (p.lPwr + 8) else want }

/-- UNMET: the target missed at pace 8 for a whole second (14 R446). -/
def noteUnmet (missed : Bool) (s : State) : State :=
  let p := s.power
  if !(missed && p.pace = 8 && p.lPwr = 1) then { s with power := { p with missedRuns := 0, unmet := p.unmet && missed } }
  else
    let s := { s with power := { p with missedRuns := p.missedRuns + 1 } }
    if secondRuns < s.power.missedRuns ∧ p.unmet = false then
      powerEvent 0 noUnit (p.powerMw / 1000) p.forceW { s with power := { s.power with unmet := true } }
    else s

/-- The registers of the last 50 µs. -/
def notePower (s : State) : State :=
  let p := s.power
  let mw := p.meanMw
  let s := { s with power := { p with powerMw := mw, peakW := max p.peakW (mw / 1000), controlledAt := runMoment s.now 50000 } }
  (upTo 8).foldl (fun s t => s.updTpower t (fun x => { x with powerW := s.power.meanOf t / 1000 })) s

/-- POWER_CONTROL: every 50 µs the controller sets L_PWR by the energy left, and the engine pace when needed. -/
def execPowerControl (model : List Nat) (s : State) : Host.Outcome State Fault Refusal :=
  let s := notePower (advanceTo (nextDue s.power.controlledAt 50000) s)
  let s := cutExcursion { s with power := s.power.excurse }
  let target := s.power.target s.variant.ceilingW
  let missed := decide (target < (s.power.powerMw : Nat))
  let s := { s with power := s.power.steer (wantedLimit model target) missed }
  .next (applyLimits (noteUnmet missed s))

/-- Average power of energy over a time, in W. -/
def averageW (energy ns : Nat) : Nat := energy * 10 / max 1 ns

/-- The limit in force (14 R442). -/
def Power.inForce (p : Power) : Nat := min p.limitW p.capW

/-- POWER_SECOND: a whole second of station time ends, at its boundary, and is counted; a changed limit takes effect, and counting
restarts. -/
def execPowerSecond (s : State) : Host.Outcome State Fault Refusal :=
  let p := s.power
  let ends := nextDue p.secondStart 1000000000
  let ns := ends - p.secondStart
  let all := (p.second, ns) :: p.seconds
  let secs := all.take p.forceWin
  let run := averageW ((secs.map (fun e => e.1)).sum) ((secs.map (fun e => e.2)).sum)
  let new := p.inForce
  let kept := if new = p.forceW then keepSeconds all else []
  let put (s : State) : State := { s with power := { p with
    lastS := averageW p.second ns, runW := run, seconds := kept, second := 0, secondStart := ends, forceW := new, forceWin := p.windowS } }
  .next (withCap put (advanceTo ends s))

/-! ### Limits (14 R447, R457; 06 R211) -/

/-- A value that PWR_LIMIT.LIMIT_W or PWR_BMC_CAP takes. -/
def State.wattsOk (s : State) (w : Nat) : Bool := decide (1200 ≤ w) && decide (w ≤ s.maxW)

/-- This package's share of a gang's limit. -/
def State.shareOf (s : State) (limit level : Nat) : Nat :=
  let n := (s.gangMembers level).length
  let gangMax := fieldOf (s.gangCap level) 0x4C 4
  1200 + (limit - 1200 * n) * (s.maxW - 1200) / (gangMax - 1200 * n)

/-- PWR_LIMIT: writes the limit and window of the package, or of this member its share, which never exceeds the highest that the
package can be set to (00 R2). -/
def execPwrLimit (id : CmdId) (s : State) : Host.Outcome State Fault Refusal :=
  runCmd id 0x2801 s (fun e s =>
    let d := (s.ctx id.ctx).desc
    let w := fieldOf e.pkt 0x20 4
    let l := if d.kind = 4 then min s.maxW (s.shareOf w d.index) else w
    if d.kind = 3 ∨ d.kind = 4 then
      ({ s with power := { s.power with limitW := l, windowS := fieldOf e.pkt 0x24 1 } }, .of sOk)
    else (s, .of sBadPacket))

/-- A core's idle mode and threshold from its cycle `c` on; a gap counts its rows first, and zero-gate ends it. -/
def Core.setIdle (k : Core) (warm : Bool) (thresh c : Nat) : Core :=
  let k := if warm then k.countGap c else k.endGap c
  { k with keepWarm := warm, thresh, keepFrom := if warm && !k.keepWarm then c else k.keepFrom }

/-- PWR_IDLE: idle mode and keep-warm threshold of every core in scope. -/
def execPwrIdle (id : CmdId) (s : State) : Host.Outcome State Fault Refusal :=
  runCmd id 0x2802 s (fun e s =>
    let d := (s.ctx id.ctx).desc
    ((s.scopeCores d.kind d.index).foldl (fun s tc =>
      s.updCore tc.1 tc.2 (fun k => k.setIdle (fieldOf e.pkt 0x20 1 == 1) (fieldOf e.pkt 0x22 2) (k.cycle s.clk.ac))) s, .of sOk))

/-- Shutter offsets of PWR_LIMIT and PWR_BMC_CAP (03 R92; 14 R457). -/
def offPwrLimit : Nat := 0x30000
def offBmcCap : Nat := 0x30008

/-- PWR_BMC_CAP_WRITE: a write to PWR_LIMIT, or over I3C to PWR_BMC_CAP. With LIMIT_W out of range PWR_LIMIT is unchanged, with
WINDOW_S out of range that field is (14 R447, R457); the change takes effect at the next whole second. In vestibule mode only the BMC reaches PWR (15 R471). -/
def execPwrBmcCapWrite (via : Via) (off : Nat) (value : Word) (s : State) : Host.Outcome State Fault Refusal :=
  let v := value.toNat
  let w := bits v 15 0
  let n := bits v 19 16
  if s.start.phase == .vestibule && via != .i3c then .next s
  else if off = offPwrLimit then
    if s.wattsOk w then .next { s with power := { s.power with limitW := w, windowS := if 1 ≤ n ∧ n ≤ 10 then n else s.power.windowS } }
    else .next s
  else if off = offBmcCap ∧ via = .i3c ∧ s.wattsOk w = true then .next { s with power := { s.power with capW := w } }
  else .next s

/-! ### Heat and current (14 R449 to R452) -/

/-- L_SILL of a sill temperature in eighths of a °C. -/
def lSillOf (t : Nat) : Nat := if t < 704 then 64 else if t < 760 then max 8 (64 - (t - 704)) else 8

/-- L_DIE follows 105 °C up and 102 °C down. -/
def lDieOf (old t : Nat) : Nat := if 840 ≤ t then 8 else if old = 8 ∧ 816 ≤ t then 8 else 64

/-- The clamps of a reading, and their events. -/
def clampTile (t sill die : Nat) (s : State) : State :=
  let x := s.tpower t
  let ls := lSillOf sill
  let ld := lDieOf x.lDie die
  let s := s.updTpower t (fun x => { x with lSill := ls, lDie := ld, sillTemp := min 255 (sill / 8), dieTemp := min 255 (die / 8) })
  let s := if ls < 64 ∧ x.lSill = 64 then powerEvent 2 t (sill / 8) 88 s else s
  let s := if ld = 8 ∧ x.lDie ≠ 8 then powerEvent 3 t (die / 8) 105 s else s
  applyLimit t s

/-- Note the state of a domain's supply. -/
def setDomain (d : Domain) (live lost : Bool) (s : State) : State :=
  { s with domains := s.domains.filter (fun x => x.dom != d) ++ [⟨d, live, lost⟩] }

/-- An I/O die whose sensor reaches 115 °C shuts down: die 1 as if its domain were lost; with die 0 the package stops (14 R454). -/
def ioHeat (n die : Nat) (s : State) : State :=
  if die < 920 then s
  else if n = 1 ∧ s.powered .io1 = true then powerEvent 7 noUnit 0 0 (ioDie1Off (setDomain .io1 false true s))
  else if n = 0 ∧ s.powered .io0 = true ∧ s.start.phase ≠ .stopped then packageStop 3 s
  else s

/-- THERMAL_READ: the highest readings of a tile's dies set L_SILL and L_DIE; a die too hot shuts down, and a sill of a withdrawn
tile too hot takes its stack with it. 8 and 9 stand for the I/O dies. -/
def execThermalRead (t sill die : Nat) (s : State) : Host.Outcome State Fault Refusal :=
  if t = 8 ∨ t = 9 then .next (ioHeat (t - 8) die s)
  else if !s.variant.hasTile t then .next s
  else
    let s := clampTile t sill die s
    let hot := decide (800 ≤ sill) || decide (880 ≤ die)
    let s := if hot && (s.tile t).inService then
        let s := (withdrawTile t 2 s).updTpower t (fun x => { x with heatOff := true })
        powerEvent 5 t (if 880 ≤ die then die / 8 else sill / 8) (if 880 ≤ die then 110 else 100) s
      else s
    if (s.tile t).withdrawn && (s.tile t).memory && decide (864 ≤ sill) then
      .next (stackLost t ((sillOff t s).updTpower t (fun x => { x with sillOff := true })))
    else .next s

/-- CURRENT_GUARD_TRIP: L_CUR is 8 for 100 µs, from the last trip. -/
def execCurrentGuardTrip (t : Nat) (s : State) : Host.Outcome State Fault Refusal :=
  if !(s.tile t).inService then .next s
  else
    let x := s.tpower t
    let s := s.updTpower t (fun x => { x with guard := true, guardEnd := s.now + 100000, trips := satAdd 16 x.trips 1 })
    .next (powerEvent 4 t x.powerW x.ilim (applyLimit t s))

/-- CURRENT_GUARD_END: the 100 µs end, and L_CUR is 64 again. -/
def execCurrentGuardEnd (t : Nat) (s : State) : Host.Outcome State Fault Refusal :=
  let x := s.tpower t
  if !x.guard then .next s
  else
    let s := advanceTo x.guardEnd s
    .next (applyLimit t (s.updTpower t (fun x => { x with guard := false })))

end Sys2Proof.Machine
end

