-- ==== Sys2Proof/Machine/Tier.lean ====
section
/-! DEFINITION. The tier commands and the tier engines' events (09 R287 to R319). -/

namespace Sys2Proof.Machine

/-! ### Commands on regions (09 R304 to R311) -/

/-- The region of block 0 of a command with its segment. -/
def Entry.region (e : Entry) : Region9 := Region9.parse (e.descs.headD [])

/-- Home pages that the region of a command touches. -/
def Entry.homeRegion (s : State) (e : Entry) : List Nat := homePages s (e.seg e.region.seg) e.region

/-- Direct pages that the region of a command touches. -/
def Entry.directRegion (e : Entry) : List Nat := (e.region.use .none).directPages e.segs

/-- The region lies in a HOME segment. -/
def Entry.regionHome (e : Entry) : Bool := (e.seg e.region.seg).type == 0

/-- A layer of a schedule (09 R310): under policy NONE a schedule places nothing (09 R296). -/
def layerOfRegion (s : State) (e : Entry) (r : Region9) : Layer :=
  let g := e.seg r.seg
  ⟨s.localAddr (g.base + r.off), r.bytes, g.policy != 1⟩

/-- TIER_LAYER_SCHEDULE: a new schedule, or with one empty region none (09 R310, R311). -/
def execTierLayerSchedule (id : CmdId) (s : State) : Host.Outcome State Fault Refusal :=
  runCmd id 0x1C01 s (fun e s =>
    let rs := regionsOf e.descs
    if rs.length = 1 ∧ (rs.headD (Region9.parse [])).bytes = 0 then
      (s.updCtx id.ctx (fun c => { c with layers := [], layer := 0 }), .of sOk)
    else
      let ls := rs.map (layerOfRegion s e)
      ((s.updCtx id.ctx (fun c => { c with layers := ls, layer := ls.length })).prefetchLayers id.ctx, ⟨sOk, 0, rs.length, 0⟩))

/-- An unpinned page of context `c` leaves the Sill for a lower quota, after its relocation where it has one (09 R304,
R314). -/
def State.shedPage (c : Nat) (s : State) (p : Nat) : State :=
  match (s.page p).state with
  | .sill => s.demote p
  | .promoting => s.updPage p TierPage.leave
  | .relocating => s.updPage p (fun g => if g.deferred.contains (.quota c) then g else { g with deferred := g.deferred ++ [.quota c] })
  | .home | .demoting => s

/-- Demote a context's pages, victims first, until its use fits its quota. -/
def State.fitQuota (c : Nat) : Nat → State → State
  | 0, s => s
  | n + 1, s =>
    if s.quotaUse c ≤ (s.ctx c).quota then s
    else match s.victim (fun _ g => g.owner == .ctx c) with
      | some v => State.fitQuota c n (s.demote v)
      | none =>
        match s.pages.find? (fun e => e.2.owner == .ctx c && e.2.pin.isNone && (e.2.state == .sill || e.2.state == .promoting)) with
        | some e => State.fitQuota c n (s.shedPage c e.1)
        | none =>
          -- pages that relocate are demoted once they have moved, as far as that is still needed
          (s.pages.filter (fun e => e.2.owner == .ctx c && e.2.pin.isNone)).foldl (fun s e => s.shedPage c e.1) s

/-- TIER_QUOTA: the quota of a context in bytes of Sill (09 R304). -/
def execTierQuota (id : CmdId) (s : State) : Host.Outcome State Fault Refusal :=
  runCmd id 0x1C02 s (fun e s =>
    let c := fieldOf e.pkt 0x20 2
    let s := s.updCtx c (fun x => { x with quota := fieldOf e.pkt 0x28 8 / 65536 })
    (State.fitQuota c s.pages.length s, .of sOk))

/-- Demote a context's own victim where one more page would not fit its quota (09 R303). -/
def State.makeRoom (s : State) (c : Nat) : State := (s.quotaRoom (.ctx c) true).getD s

/-- Pin a home page for a context, by its state (09 R306, R314). -/
def State.pinPage (c : Nat) (s : State) (p : Nat) : State :=
  let g := s.page p
  if g.pin.isSome then s
  else
    let s := if g.owner == .ctx c && g.placed then s else s.makeRoom c
    match (s.page p).state with
    | .home => (s.placePage p (.ctx c) (some c) false).getD s
    | .demoting => s.keepPage p (some c)
    | _ => s.updPage p (fun g => { g with pin := some c })

/-- Claim a direct page for a context: a releasing one once it is released (09 R291, R295). A victim of the context goes where
the claim would not fit its quota (09 R303). -/
def State.claimPage (c : Nat) (s : State) (p : Nat) : State :=
  match s.directPage p with
  | none => ((s.makeRoom c).claimFrame p (.ctx c)).getD s
  | some d =>
    if d.releasing && d.next.isNone then (s.makeRoom c).setDirect p (some { d with next := some c }) else s

/-- A home page is pinned by the context, or by another one and left to it. -/
def State.pinDone (s : State) (p : Nat) : Bool := (s.page p).pin.isSome

/-- A direct page is claimed by the context and the claim is in place, or it is a mirror page. -/
def State.claimDone (s : State) (c p : Nat) : Bool :=
  match s.directPage p with
  | none => false
  | some d => match d.claim with
    | .mirror _ => !d.releasing
    | .ctx m => m == c && !d.releasing

/-- TIER_PIN: pin the home pages or claim the direct pages of its region. It completes once every page is in place (09 R291,
R295, R306); until then it goes on running. COUNT_A counts the region's pages that the context holds. -/
def execTierPin (id : CmdId) (s : State) : Host.Outcome State Fault Refusal :=
  match s.entry? id with
  | none => .next s
  | some e =>
    if e.phase != .running || e.opcode != 0x1C03 then .next s
    else
      let c := id.ctx
      if e.regionHome then
        let ps := e.homeRegion s
        let s := ps.foldl (State.pinPage c) s
        if ps.all s.pinDone then
          runCmd id 0x1C03 s (fun _ s => (s, ⟨sOk, 0, (ps.filter (fun p => (s.page p).pin == some c)).length, 0⟩))
        else .next s
      else
        let ps := e.directRegion
        let s := ps.foldl (State.claimPage c) s
        if ps.all (s.claimDone c) then
          let mine (s : State) (p : Nat) : Bool := match s.directPage p with
            | some d => d.claim == .ctx c
            | none => false
          runCmd id 0x1C03 s (fun _ s => (s, ⟨sOk, 0, (ps.filter (mine s)).length, 0⟩))
        else .next s

/-- TIER_UNPIN: clear the context's pins, or release its direct pages (09 R295, R307). -/
def execTierUnpin (id : CmdId) (s : State) : Host.Outcome State Fault Refusal :=
  runCmd id 0x1C04 s (fun e s =>
    let c := id.ctx
    if e.regionHome then
      let ps := (e.homeRegion s).filter (fun p => (s.page p).pin == some c)
      (ps.foldl (fun s p => s.unpin p c) s, ⟨sOk, 0, ps.length, 0⟩)
    else
      let ps := e.directRegion.filter (fun p => match s.directPage p with
        | some d => d.claim == .ctx c && !d.releasing
        | none => false)
      (ps.foldl State.startRelease s, ⟨sOk, 0, ps.length, 0⟩))

/-- A page that TIER_EVICT releases, now or after its relocation. -/
def TierPage.evictable (g : TierPage) : Bool :=
  g.pin.isNone && (g.state == .sill || g.state == .promoting || g.state == .relocating)

/-- TIER_EVICT (09 R309). -/
def execTierEvict (id : CmdId) (s : State) : Host.Outcome State Fault Refusal :=
  runCmd id 0x1C05 s (fun e s =>
    let ps := (e.homeRegion s).filter (fun p => (s.page p).evictable)
    (ps.foldl State.releasePage s, ⟨sOk, 0, ps.length, 0⟩))

/-- Place the pages of a prefetch in order until the quota is full: the state and the pages placed (09 R309). It makes no room under the quota,
while a full sill gives up a victim for it as for any placement (09 R301, R303; DESIGN CHOICE, log 120). -/
def State.prefetch (c : Nat) : List Nat → State → Nat → State × Nat
  | [], s, n => (s, n)
  | p :: ps, s, n =>
    if (s.page p).state == .demoting then
      State.prefetch c ps (s.updPage p (fun g => { g with deferred := g.deferred ++ [.prefetch c] })) n
    else if (s.page p).placed then State.prefetch c ps s n
    else match s.quotaRoom (.ctx c) false with
      | none => (s, n)
      | some _ =>
        match s.placePage p (.ctx c) none false with
        | some s => State.prefetch c ps s (n + 1)
        | none => State.prefetch c ps s n

/-- TIER_PREFETCH: a segment of policy NONE has no page placed (09 R296, R309). -/
def execTierPrefetch (id : CmdId) (s : State) : Host.Outcome State Fault Refusal :=
  runCmd id 0x1C06 s (fun e s =>
    let ps := if (e.seg e.region.seg).policy = 1 then [] else e.homeRegion s
    let r := State.prefetch id.ctx ps s 0
    (r.1, ⟨sOk, 0, r.2, 0⟩))

/-! ### Periods (09 R299, R300) -/

/-- The next station-time multiple of a period. -/
def nextMultiple (now period : Nat) : Nat := (now / period + 1) * period

/-- HEAT_DECAY: a DECAY period ends and every heat count halves (09 R299). -/
def execHeatDecay (s : State) : Host.Outcome State Fault Refusal :=
  let s := advanceTo (nextMultiple s.now (10000 * bits s.tierCfg 31 24)) s
  .next (s.pages.foldl (fun s e => s.updPage e.1 (fun g => { g with heat := g.heat / 2 })) s)

/-- A page that a heat promotion wants. -/
def State.hot (s : State) (g : TierPage) : Bool :=
  (g.policy == 0 || g.policy == 2) && decide (bits s.tierCfg 7 0 ≤ g.heat) && decide (0 < g.heat)

/-- Deferred events act on the state that a migration has left (09 R314). -/
def State.runDeferred (s : State) (p : Nat) : State :=
  let g := s.page p
  if g.migrating then s
  else
    let s := s.updPage p (fun g => { g with deferred := [] })
    g.deferred.foldl (fun s d => match d with
      | .promote => if s.hot (s.page p) then s.tryPlace p (s.page p).last false true else s
      | .evict => s.releasePage p
      | .prefetch c => s.tryPlace p (.ctx c) false false
      | .quota c =>
        let h := s.page p
        if h.state == .sill && h.pin.isNone && h.owner == .ctx c && decide ((s.ctx c).quota < s.quotaUse c) then s.demote p else s) s

/-- Insert a page into a list ordered by decreasing heat, then rising address. -/
def insertHot (e : Nat × Nat) : List (Nat × Nat) → List (Nat × Nat)
  | [] => [e]
  | f :: t => if f.2 < e.2 ∨ (f.2 = e.2 ∧ e.1 < f.1) then e :: f :: t else f :: insertHot e t

/-- TIER_SCAN: hot pages that are not placed are promoted, hottest first (09 R300). -/
def execTierScan (s : State) : Host.Outcome State Fault Refusal :=
  let s := advanceTo (nextMultiple s.now (1000 * bits s.tierCfg 23 16)) s
  let s := (s.pages.filter (fun e => !e.2.deferred.isEmpty)).foldl (fun s e => s.runDeferred e.1) s
  let hot := (s.pages.filter (fun e => s.hot e.2)).map (fun e => (e.1, e.2.heat))
  .next ((hot.foldl (fun l e => insertHot e l) []).foldl (fun s e =>
    let g := s.page e.1
    if g.state == .demoting then s.updPage e.1 (fun g => { g with deferred := g.deferred ++ [.promote] })
    else s.tryPlace e.1 g.last false true) s)

/-! ### Migration (09 R313 to R317) -/

/-- The sub-block that a migration copies next, and its round: the first round takes every sub-block that needs moving, four
further rounds those marked again (09 R316). -/
def TierPage.nextCopy (g : TierPage) : Option (Nat × Nat) :=
  if !g.migrating then none
  else match (g.toCopy.filter (fun k => decide (g.next ≤ k))).head? with
    | some k => some (k, g.round)
    | none => if g.round < 4 then g.toCopy.head?.map (fun k => (k, g.round + 1)) else none

/-- A copy from the Sill reads the lines of sub-block `k`. -/
def State.readBlock (s : State) (p k : Nat) : State :=
  if (s.page p).leaving || (s.page p).state == .relocating then s.readSill (p * 65536 + k * 4096) 4096 else s

/-- Sub-block `k` of a migrating page moves, its lines written afresh in the slot that it takes. -/
def State.moveBlock (p : Nat) (s : State) (k : Nat) : State :=
  let s := s.copyBlock p k
  match (s.page p).target[k]? with
  | some t => s.freshLines (frameNumber t.sill t.frame) (64 * t.slot) 64
  | none => s

/-- MIGRATION_COPY: 4 KiB move from source to target, once the slot is free and no edge retrains. A sub-block written back makes its home copy
current. -/
def execMigrationCopy (p : Nat) (s : State) : Host.Outcome State Fault Refusal :=
  let g := s.page p
  match g.nextCopy with
  | none => .next s
  | some (k, r) =>
    if s.stalled || (g.target[k]?).any (fun t => !s.slotReady p t) then .next s
    else
      let s := s.readBlock p k
      if (s.page p).nextCopy != some (k, r) then .next s else
      .next ((s.moveBlock p k).updPage p (fun g => { g with
        copied := g.copied ||| 2 ^ k, recopy := g.recopy &&& (0xFFFF ^^^ 2 ^ k), round := r, next := k + 1 }))

/-- The switch of a migration (09 R316): the page serves from its target. -/
def TierPage.switch (g : TierPage) : TierPage :=
  let done (g : TierPage) : TierPage := { g with epoch := (g.epoch + 1) % 256, copied := 0, recopy := 0, round := 0, next := 0 }
  match g.state with
  | .promoting => done { g with state := .sill, dirty := 0, slots := g.target, target := [] }
  | .relocating => done { g with state := .sill, slots := g.target, target := [] }
  | .demoting => done g.leave
  | _ => g

/-- Length of a freeze in ns: 32 ns for each sub-block still marked, and the wait for accesses at the source, which the spec
leaves open up to the 2 µs bound. -/
def freezeNs (marked v : Nat) : Nat := 32 * marked + v % (2001 - 32 * marked)

/-- The stall of a retrain, at most 40 µs, which lengthens a freeze that meets it (13 R425). -/
def State.stallNs (s : State) (v : Nat) : Nat := if s.stalled then v / 2001 % 40001 else 0

/-- MIGRATION_FREEZE: after the copy rounds the page freezes, recopies what is marked and switches (09 R316); deferred events
then act. -/
def execMigrationFreeze (p : Nat) (s : State) : Host.Outcome State Fault Refusal :=
  let g := s.page p
  if !g.migrating || g.nextCopy.isSome then .next s
  else
    let (v, s) := s.draw
    let s := g.toCopy.foldl (fun s k => (s.readBlock p k).moveBlock p k) s
    let s := { s.updPage p TierPage.switch with moved := s.moved + 1, freezeMax := max s.freezeMax (freezeNs g.toCopy.length v + s.stallNs v) }
    .next (s.runDeferred p)

/-- STALE_EPOCH_FORWARD: a write tagged with an older epoch is forwarded to the current placement and applied there once (09
R317). -/
def execStaleEpochForward (addr epoch : Nat) (data : List Byte) (s : State) : Host.Outcome State Fault Refusal :=
  let g := s.page (addr / 65536)
  if addr ≥ 0x6000000000 ∨ epoch % 256 = g.epoch ∨ s.noRoom (linesOf addr data.length) = true then .next s
  else match s.writeMem addr data with
    | .ok s => .next { s.noteWrites addr data.length with forwarded := satAdd 16 s.forwarded 1 }
    | .error _ => .next s

/-- DIRECT_PAGE_RELEASE: a releasing direct page that no command holds returns its frame (09 R295). -/
def execDirectPageRelease (p : Nat) (s : State) : Host.Outcome State Fault Refusal := .next (s.settleDirect p)

end Sys2Proof.Machine
end

