-- ==== Sys2Proof/Machine/Time.lean ====
section
/-! DEFINITION. Station time (12 R401 to R406; 16 R500, R501; 04 R157): the time commands, the reference inputs, PTP, PTM and the
1PPS output. -/

namespace Sys2Proof.Machine

/-- This package disciplines station time by its own input: it is the gang time source, or in no gang. -/
def State.leads (s : State) : Bool := s.time.isSource || s.outerLevel.isNone

/-- A measured offset from a reference: it may move the role of gang time source, the package that leads time corrects it, and its class
follows from what is left to slew (12 R403 to R405). -/
def discipline (d : Int) (s : State) : State :=
  let s := { s with time := { s.time with offset := BitVec.ofInt 32 d, errBound := 0 } }
  let s := if s.outerLevel.isSome then pickSource s else s
  settleTime (if s.leads then correct d s else s)

/-! ### Commands (04 R157; 12 R402) -/

/-- TIME_MARK: completes with the station time in T_DONE. -/
def execTimeMark (id : CmdId) (s : State) : Host.Outcome State Fault Refusal := runCmd id 0x2401 s (fun _ s => (s, .of sOk))

/-- The inputs of a source are present. -/
def Time.present (t : Time) (src : Nat) : Time :=
  if src = 0 then { t with ppsOk := true, tenOk := true } else if src = 2 then { t with ptmOk := true, ptmFails := 0 } else t

/-- I/O die 1, which takes the pins, has power and is reached (01 R25; 13 R428; 14 R437). -/
def State.io1Up (s : State) : Bool := s.powered .io1 && s.reached.contains (.io 1)

/-- The unit that takes a reference input works: I/O die 1 for the pins, the selected port for PTM (12 R402, R413; 14 R435). -/
def State.inputUp (s : State) (src : Nat) : Bool :=
  if src = 0 then s.io1Up else if src = 2 then (s.port s.time.ptmPort).linkUp && !(s.port s.time.ptmPort).hostDown else true

/-- A package in no gang takes its selected input: its time is set to the reference's, given in TAI ns, and it follows that. -/
def takeSource (src : Nat) (reference : Option Word) (s : State) : State :=
  match reference with
  | some r =>
    if src = 0 ∨ src = 2 then
      let s := setTai r.toNat s.epoch s
      setClass .locked { s with time := { s.time with errBound := 0 } }
    else if src = 3 then setClass .free s else setClass s.loneClass s
  | none => if src = 3 then setClass .free s else setClass s.loneClass s

/-- TIME_SOURCE: selects the package's own input; in a gang only its candidacy changes. -/
def execTimeSource (id : CmdId) (reference : Option Word) (s : State) : Host.Outcome State Fault Refusal :=
  runCmd id 0x2402 s (fun e s =>
    let src := fieldOf e.pkt 0x20 1
    if src = 1 ∧ s.variant = .f8l then (s, .of sAbsent)
    else
      let reference := if s.inputUp src then reference else none
      let t := { s.time with source := src }
      let s := { s with time := if reference.isSome then t.present src else t }
      (if s.outerLevel.isSome then chooseSource s else takeSource src reference s, .of sOk))

/-! ### The pins (12 R402; 16 R500) -/

/-- The edge lies within 1 µs of its expected time, one second after the edge before it. -/
def Time.onTime (t : Time) (at' : Int) : Bool :=
  match t.lastPps with
  | none => true
  | some p => decide ((at' - (p + 1000000000)).natAbs ≤ 1000)

/-- PPS_EDGE: the edge is timed less its cable delay. One on time shows both pins present; where it marks a named second and the
pins are the selected input, station time is disciplined by it. One off its expected time means that the input is lost. -/
def execPpsEdge (stamp : Word) (s : State) : Host.Outcome State Fault Refusal :=
  if !s.io1Up then .next s else
  let s := advanceTo stamp.toNat s
  let t := (stamp.toNat : Int) - s.time.ppsDelay
  let aligned := t + s.clk.slew
  let had := s.time.refOk
  let seen (at' : Int) (ok : Bool) (s : State) : State :=
    { s with time := { s.time with ppsOk := ok, tenOk := ok || s.time.tenOk, lastPps := some at'.toNat, tod := s.time.tod.map (fun n => n + 1) } }
  if !s.time.onTime aligned then
    let s := seen aligned false s
    .next (if had && s.time.source = 0 then lostReference s else s)
  else match s.time.tod with
    | some sec =>
      if s.time.source = 0 then
        let e : Int := ((sec : Int) - s.epoch) * 1000000000
        .next (discipline (e - t) (seen e true s))
      else .next (seen aligned true s)
    | none => .next (seen aligned true s)

/-- The selected pins are lost. -/
def pinsLost (t : Time → Time) (s : State) : State :=
  let had := s.time.refOk && s.time.source == 0
  let s := { s with time := t s.time }
  if had then lostReference s else s

/-- REF10M_LOSS: the 10 MHz input has been absent for 10 µs. -/
def execRef10mLoss (s : State) : Host.Outcome State Fault Refusal :=
  if s.time.tenOk then .next (pinsLost (fun t => { t with tenOk := false }) s) else .next s

/-- PPS_MISSING: 1.1 s have passed since the last edge. -/
def execPpsMissing (s : State) : Host.Outcome State Fault Refusal :=
  if s.time.ppsOk then
    let s := advanceTo (s.time.lastPps.getD 0 + 1100000000) s
    .next (pinsLost (fun t => { t with ppsOk := false, lastPps := none }) s)
  else .next s

/-! ### PTP (12 R404 to R406) -/

/-- The time class of a code. -/
def classOf (c : Nat) : TimeClass :=
  match c with
  | 0 => .locked | 1 => .holdover | 2 => .free | 3 => .isolated | _ => .unset

/-- A Sync comes over the path in use, or over a better one: fewer hops, and of those the lowest link. -/
def Time.follows (t : Time) (k hops : Nat) : Bool :=
  match t.upLink with
  | none => true
  | some u => k == u || decide (hops < t.hops) || (hops == t.hops && decide (k < u))

/-- What a Sync tells of its time source, which holds a reference in class LOCKED, and the last Announce of the members: by it every member
makes the same choice (12 R404, R406). -/
def learnSource (m : SyncMsg) (s : State) : State :=
  let s := s.updPeer m.source (fun p => { p with hasRef := decide (m.cls = 0) })
  let s := m.announces.foldl (fun s a => s.updPeer a.pkg (fun p => { p with priority := a.priority % 256, hasRef := a.hasRef })) s
  chooseSource s

/-- Sizes of PTP messages in bytes: a Sync with its Follow_Up, and an Announce (PRESUMED from IEEE 1588-2019; log 109). -/
def syncBytes : Nat := 88
def announceBytes : Nat := 64

/-- What a Sync or an Announce of this package says: its class, its source and the hops to it, its own priority and whether it has a
reference. -/
def State.timeSays (s : State) : List Byte :=
  bytesOfNat 1 s.time.cls.code ++ bytesOfNat 2 s.time.srcAddr ++ bytesOfNat 1 s.time.hops ++ bytesOfNat 1 s.time.priority
    ++ bytesOfNat 1 (natOfBool s.time.refOk)

/-- A PTP message leaves on every link that is UP but `not`: each link is a PTP port of the boundary clock (12 R406). -/
def State.sendTime (s : State) (not : Option Nat) (size : Nat) : State :=
  ((upTo 32).filter (fun k => (s.link k).state == .up && not != some k)).foldl (fun s k => s.emit k chanMg (s.link k).peerAddr size s.timeSays) s

/-- The offset after the receive direction's asymmetry is added to the delay, in ns. -/
def Link.corrected (l : Link) (m : SyncMsg) : Int := m.offset + l.asym.toInt / 1000

/-- PTP_SYNC: a member that is not the gang time source follows it over the links, up to three hops, and passes its time on over its other
links; the delay of the link is the one that its peer-delay exchange measured. -/
def execPtpSync (k : Nat) (m : SyncMsg) (s : State) : Host.Outcome State Fault Refusal :=
  if (s.link k).state != .up || s.outerLevel.isNone || s.isSelf m.source then .next s
  else
    let s := learnSource m (s.updLink k (fun l => { l with oneWay := m.delayPs % 2 ^ 32 }))
    let hops := m.hops + 1
    if s.time.isSource || s.time.srcAddr != m.source || decide (3 < hops) || !s.time.follows k hops then .next s
    else
      let d := (s.link k).corrected m
      let s := { s with time := { s.time with
        ptpOk := true, hops, upLink := some k, lastSync := s.now, offset := BitVec.ofInt 32 d, errBound := min m.errBound (2 ^ 32 - 1) } }
      .next ((setClass (if m.cls ≤ 2 then classOf m.cls else .isolated) (correct d s)).sendTime (some k) syncBytes)

/-- The sync interval in ns. -/
def Time.interval (t : Time) : Nat := 1000000000 / 2 ^ t.syncLog

/-- PTP_SYNC_LOSS: four intervals without a Sync. A member without a path to the gang time source is ISOLATED. -/
def execPtpSyncLoss (s : State) : Host.Outcome State Fault Refusal :=
  if !s.time.ptpOk then .next s
  else
    let s := advanceTo (s.time.lastSync + 4 * s.time.interval) s
    let s := { s with time := { s.time with ptpOk := false, upLink := none } }
    .next (if s.outerLevel.isSome && !s.time.isSource then setClass .isolated s else s)

/-- PTP_ANNOUNCE: once in 125 ms, over the links that are UP; of the gang time source a Sync goes with it (log 109). -/
def execPtpAnnounce (s : State) : Host.Outcome State Fault Refusal :=
  if (upTo 32).any (fun k => (s.link k).state == .up) then
    let s := advanceTo (nextMultiple s.now 125000000) s
    let s := { s with time := { s.time with announces := s.time.announces + 1 } }.sendTime none announceBytes
    .next (if s.time.isSource then s.sendTime none syncBytes else s)
  else .next s

/-! ### PTM, holdover, the epoch and the output -/

/-- PTM_DIALOGUE: a dialogue that succeeds gives the master time in TAI ns; the fourth failure in a row loses the input. -/
def execPtmDialogue (p : Nat) (master : Option Word) (s : State) : Host.Outcome State Fault Refusal :=
  if !(s.port p).linkUp || (s.port p).hostDown then .next s
  else match master with
    | some tai =>
      let s := s.updPort p (fun q => { q with ptmValid := true })
      if p ≠ s.time.ptmPort then .next s
      else
        let s := { s with time := { s.time with ptmOk := true, ptmFails := 0 } }
        .next (if s.time.source = 2 then discipline ((tai.toNat : Int) - s.epoch * 1000000000 - s.now) s else s)
    | none =>
      if p ≠ s.time.ptmPort then .next s
      else
        let n := s.time.ptmFails + 1
        let lost := decide (4 ≤ n) && s.time.ptmOk
        let s := { s with time := { s.time with ptmFails := n, ptmOk := s.time.ptmOk && decide (n < 4) } }
        .next (if lost && s.time.source = 2 then lostReference s else s)

/-- The error bound of a holdover: it grows by 100 ns per second from the loss (12 R403). -/
def State.errBoundNow (s : State) : Nat :=
  if s.time.cls == .holdover && s.leads then min ((s.now - s.time.lostAt) / 10000000) (2 ^ 32 - 1) else s.time.errBound

/-- HOLDOVER_EXPIRE: the error bound reaches HOLD_NS, and the gang time source free-runs. -/
def execHoldoverExpire (s : State) : Host.Outcome State Fault Refusal :=
  if s.time.cls == .holdover && s.leads then
    let s := advanceTo (s.time.lostAt + s.time.hold * 10000000) s
    .next (settleTime { s with time := { s.time with errBound := s.time.hold } })
  else .next s

/-- TIM_EPOCH_WRITE: outside a gang, the epoch changes and station time counts the same instant from it. -/
def execTimEpochWrite (value : Word) (s : State) : Host.Outcome State Fault Refusal :=
  if s.outerLevel.isSome then .next s
  else
    let new := value.toNat % 2 ^ 48
    let tai := s.now + s.time.epoch * 1000000000
    .next (setTai tai new { s with time := { s.time with epoch := new } })

/-- PPS_OUT_PULSE: at each whole second of station time in classes 0 to 2. -/
def execPpsOutPulse (s : State) : Host.Outcome State Fault Refusal :=
  if s.time.cls.ok then
    let s := advanceTo (nextMultiple s.now 1000000000) s
    .next { s with time := { s.time with ppsPulses := s.time.ppsPulses + 1, ppsAt := some s.now } }
  else .next s

end Sys2Proof.Machine
end

