-- ==== Sys2Proof/Machine/Ports.lean ====
section
/-! DEFINITION. Events of the host ports (12 R413 to R416). -/

namespace Sys2Proof.Machine

/-- The I/O die of a port is out of reset: ports 0 and 1 on die 0, 2 and 3 on die 1 (01 R25; 16 R496). -/
def State.portPower (s : State) (p : Nat) : Bool :=
  if s.resetLow then false
  else if p < 2 then s.domains.any (fun d => d.dom == .io0 && d.live && !d.lost)
  else s.domains.any (fun d => d.dom == .io1 && d.live && !d.lost) && s.reached.contains (.io 1)

/-- PCIE_LINK_UP: the link enters L0 and the host enables bus mastering (log 23). A link that was in L0 has retrained within 1 ms.
CXL is offered on ports 0 and 2 at 64 GT/s. In vestibule mode port 0 alone comes up (15 R471). -/
def execPcieLinkUp (p speed width : Nat) (cxl : Bool) (s : State) : Host.Outcome State Fault Refusal :=
  if !s.portPower p || s.start.phase == .stopped || (s.start.phase == .vestibule && p != 0) then .next s
  else
    let again := (s.port p).linkUp
    .next (s.updPort p (fun q => { q with
      linkUp := true, speed, width, cxl := cxl && decide (p % 2 = 0) && decide (speed = 6), busMaster := true
      evtRetrain := q.evtRetrain || again }))

/-- HOST_DOWN: a hot reset, link disable or PERST#, which take the link out of L0, or a function-level reset, which does not (12 R413,
R414). -/
def execHostDown (h : HostLoss) (s : State) : Host.Outcome State Fault Refusal :=
  .next ((hostDownPort h.port s).updPort h.port (fun q => { q with linkUp := q.linkUp && h.flr, cached := if h.flr then q.cached else [] }))

/-- HOST_LINK_LOSS_TIMEOUT: the link has been out of L0 for 1 ms. -/
def execHostLinkLossTimeout (p : Nat) (s : State) : Host.Outcome State Fault Refusal :=
  if (s.port p).linkUp then .next (hostDownPort p (s.updPort p (fun q => { q with linkUp := false }))) else .next s

/-- VF_FLR: terminates those of the function's 64 contexts whose rings lie in the port's aperture (12 R414). -/
def execVfFlr (p v : Nat) (s : State) : Host.Outcome State Fault Refusal :=
  let s := terminateIf (fun n c => decide (n / 64 = v) && c.onPort p) s
  .next (s.updPort p (fun q => { q with evtFlr := true }))

/-- PCIE_EVT_WRITE: bits written 1 clear; clearing HOST_DOWN lets the port come up again (12 R416). -/
def execPcieEvtWrite (p : Nat) (value : Word) (s : State) : Host.Outcome State Fault Refusal :=
  let v := value.toNat
  .next (s.updPort p (fun q => { q with
    evtDown := q.evtDown && !bit v 0, hostDown := q.hostDown && !bit v 0
    evtRetrain := q.evtRetrain && !bit v 1, evtFlr := q.evtFlr && !bit v 2 }))

end Sys2Proof.Machine
end

