-- ==== Sys2Proof/Machine/Hinges.lean ====
section
/-! DEFINITION. Hinge edges: flits, lane plans, capability words, spares, widths and roles, and their retrains (13 R419 to R428, R432). -/

namespace Sys2Proof.Machine

/-! ### Flits (13 R420) -/

/-- A Svathal flit in native mode: its header and its 60 bytes of messages. -/
structure HingeFlit where
  role   : Nat
  seq    : Nat
  ack    : Nat
  credit : Nat
  body   : List Byte
  deriving DecidableEq, Repr

/-- The 64 bytes of a flit. -/
def HingeFlit.bytes (f : HingeFlit) : List Byte :=
  bytesOfNat 4 (f.role % 8 + f.seq % 4096 * 2 ^ 3 + f.ack % 4096 * 2 ^ 15 + f.credit % 32 * 2 ^ 27) ++ sliceBytes f.body 0 60

/-- The flit that 64 bytes hold. -/
def HingeFlit.parse (b : List Byte) : HingeFlit :=
  let h := fieldOf b 0 4
  { role := bits h 2 0, seq := bits h 14 3, ack := bits h 26 15, credit := bits h 31 27, body := sliceBytes b 4 64 }

/-- The 72 bytes that a flit takes on its lane group: its code word of R327. -/
def HingeFlit.word (f : HingeFlit) : List Byte := f.bytes ++ checkBytes f.bytes

/-- The lane of its group that carries byte `i` of a code word: none of the 32 carries more than 3 of the 72 bytes (log 64). -/
def flitLane (i : Nat) : Nat := i % 32

/-- Bytes of a code word that lane `i` of the group carries. -/
def laneCarries (i : Nat) : Nat := ((upTo 72).filter (fun b => flitLane b == i)).length

/-- Bytes of the standard UCIe flit of compatibility mode, which has a check and a retry of its own. -/
def ucieFlit : Nat := 256

/-- Flits of a lane group's replay buffer. -/
def hingeReplay : Nat := 256

/-- A flit is sent, and kept until it is acknowledged; none while the replay buffer is full. -/
def HingeGroup.send (g : HingeGroup) : Option HingeGroup :=
  if g.unacked.length < hingeReplay then some { g with next := (g.next + 1) % 4096, unacked := g.unacked ++ [g.next] } else none

/-- An acknowledgement names the last flit received in order: the replay buffer keeps those after it. -/
def HingeGroup.acked (g : HingeGroup) (n : Nat) : HingeGroup :=
  if g.unacked.contains n then { g with unacked := g.unacked.drop (g.unacked.idxOf n + 1) } else g

/-- A flit arrives: it is taken where its code corrects it and it is the next one expected, and otherwise discarded and replayed
go-back-N. -/
def HingeGroup.receive (g : HingeGroup) (seq : Nat) (ok : Bool) : HingeGroup × Bool :=
  if ok && seq == g.expected then ({ g with expected := (g.expected + 1) % 4096 }, true) else (g, false)

/-- One flit crosses a group: it is sent, taken or discarded, and what is taken is acknowledged. -/
def HingeGroup.cross (ok : Bool) (g : HingeGroup) : HingeGroup :=
  match g.send with
  | none => g
  | some g' =>
    let (q, taken) := g'.receive g.next ok
    if taken then q.acked g.next else q

/-- `n` flits, one after the other. -/
def HingeGroup.crossAll (ok : Bool) : Nat → HingeGroup → HingeGroup
  | 0, g => g
  | n + 1, g => HingeGroup.crossAll ok n (g.cross ok)

/-- The replay of what the buffer holds: every flit is taken in its order and acknowledged. -/
def HingeGroup.replayAll (g : HingeGroup) : HingeGroup :=
  let g' := g.unacked.foldl (fun q n => (q.receive n true).1) g
  match g.unacked.getLast? with
  | some n => g'.acked n
  | none => g'

/-- Data lanes and spare lanes per direction of an edge (13 R419). -/
def dataLanes (e : Nat) : Nat := if isTileEdge e then 512 else 128
def spareLanes (e : Nat) : Nat := if isTileEdge e then 32 else 8

/-- The data lane that a lane serves as: itself, or the failed one that it replaces; none for a spare lane at rest. -/
def Edge.servesAs (x : Edge) (e dir lane : Nat) : Option Nat :=
  if lane < dataLanes e then some lane
  else (x.lanes.find? (fun f => f.dir == dir && f.spare == some lane)).map (fun f => f.lane)

/-- A failed lane has a good spare in its place. -/
def Edge.replaced (x : Edge) (f : LaneFail) : Bool :=
  match f.spare with
  | some l => !x.lanes.any (fun h => h.dir == f.dir && h.lane == l)
  | none => false

/-- Bytes of a group's code words that dead lanes of a direction carry. -/
def Edge.deadBytes (x : Edge) (e dir g : Nat) : Nat :=
  ((x.lanes.filter (fun f => f.dir == dir && decide (f.lane < dataLanes e) && f.lane / 32 == g && !x.replaced f)).map
    (fun f => laneCarries (f.lane % 32))).sum

/-- What a failed lane costs its group until it is spared, in `n` flits: the code corrects what it can; flits that it cannot, and those
of compatibility mode with its own check and retry, are discarded and replayed, and wait in the replay buffer for the retrain (R420).
The traffic of an edge is no command, so `n` is free. -/
def Edge.mark (x : Edge) (e dir g n : Nat) : Edge :=
  let fixed := !x.compat && decide (x.deadBytes e dir g ≤ correctable)
  let n := if fixed then n % 65536 else n % (hingeReplay + 1)
  let x := { x with flits := Table.upd {} x.flits (16 * dir + g) (HingeGroup.crossAll fixed n) }
  if fixed then { x with corrected := satAdd 16 x.corrected n } else { x with replay := satAdd 16 x.replay n }

/-- After a training every group replays what its buffer holds: no message is lost (R425). -/
def Edge.replayAll (x : Edge) : Edge := { x with flits := x.flits.map (fun q => (q.1, q.2.replayAll)) }

/-- Widths of an edge, widest first; without capability 5 it narrows to the narrowest at once (13 R422, R423, R427). -/
def widthsOf (e agreed : Nat) : List Nat :=
  let n := bit agreed 5
  if isTileEdge e then (if n then [16, 12, 8] else [16, 8]) else if n then [4, 3, 2] else [4, 2]

/-- The widths that a lane plan has rows for, in its order. -/
def planWidths : List Nat := [16, 12, 8, 4, 3, 2]

/-- A plan is valid: every row sums to its width, with a memory group and a coherence group at least. -/
def planValid (plan : List PlanRow) : Bool :=
  (upTo 6).all (fun i =>
    let r := plan.getD i (0, 0, 0)
    r.1 + r.2.1 + r.2.2 == planWidths.getD i 0 && decide (1 ≤ r.1) && decide (1 ≤ r.2.2))

/-- The row of a plan for an edge and a width. -/
def planRow (plan : List PlanRow) (e width : Nat) : PlanRow :=
  plan.getD (if isTileEdge e then (if width = 16 then 0 else if width = 12 then 1 else 2) else if width = 4 then 3 else if width = 3 then 4 else 5)
    (0, 0, 0)

/-- Lane groups without an unreplaced failed lane in either direction, among those that a training has met. -/
def Edge.goodGroups (x : Edge) (e : Nat) : List Nat :=
  (upTo (dataLanes e / 32)).filter (fun g =>
    !x.lanes.any (fun f => f.met && f.spare.isNone && f.lane / 32 == g && decide (f.lane < dataLanes e)))

/-- The widest width that the good groups can form. -/
def Edge.width (x : Edge) (e : Nat) : Option Nat := (widthsOf e x.agreed).find? (fun w => decide (w ≤ (x.goodGroups e).length))

/-- What a lane group carries (13 R421). -/
inductive HingeRole where
  | memory | stream | coherence
  deriving DecidableEq, Repr

/-- The role of a group in service: memory first, then stream, then coherence, in ascending order (13 R422). -/
def Edge.roleOf (x : Edge) (g : Nat) : Option HingeRole :=
  if !x.running.contains g then none
  else
    let i := x.running.idxOf g
    some (if i < x.mem then .memory else if i < x.mem + x.stream then .stream else .coherence)

/-- A message of a class may use a group: its own role's, and for memory messages a stream group for which no stream flit waits (13
R421). -/
def Edge.mayUse (x : Edge) (g : Nat) (m : HingeRole) (streamIdle : Bool) : Bool :=
  x.roleOf g == some m || (m == .memory && x.roleOf g == some .stream && streamIdle)

/-- Spare lanes of a direction that are good and unused, lowest first. -/
def Edge.freeSpares (x : Edge) (e dir : Nat) : List Nat :=
  ((upTo (spareLanes e)).map (fun i => dataLanes e + i)).filter (fun l =>
    !x.lanes.any (fun f => f.dir == dir && (f.lane == l || f.spare == some l)))

/-- HINGE_STAT.SPARES: spare lanes left in the direction that has fewer. -/
def Edge.sparesLeft (x : Edge) (e : Nat) : Nat := min (x.freeSpares e 0).length (x.freeSpares e 1).length

/-- A spare for one failed lane, where it is a data lane without a good one: the lowest-numbered free one (DESIGN CHOICE, log 11). The
ledger records the assignment (13 R426). -/
def spareLane (e : Nat) (s : State) (f : LaneFail) : State :=
  let x := s.edge e
  let set (g : LaneFail → LaneFail) (s : State) : State :=
    s.updEdge e (fun x => { x with lanes := mapIf (fun h => h.dir == f.dir && h.lane == f.lane) g x.lanes })
  let dead := match f.spare with
    | some l => x.lanes.any (fun h => h.dir == f.dir && h.lane == l)
    | none => true
  if dataLanes e ≤ f.lane || !dead then set (fun h => { h with met := true }) s
  else match x.freeSpares e f.dir with
    | [] => set (fun h => { h with spare := none, met := true }) s
    | l :: _ => appendRepair 5 0xFF e (f.lane + f.dir * 2 ^ 10 + l * 2 ^ 16) (set (fun h => { h with spare := some l, met := true }) s)

/-- A training meets the failed lanes of an edge and assigns spares. -/
def assignSpares (e : Nat) (s : State) : State := (s.edge e).lanes.foldl (spareLane e) s

/-- The edge runs at a width, on its lowest-numbered good groups, with the roles of its plan row; the flits that waited are replayed. -/
def Edge.run (x : Edge) (e w : Nat) (plan : List PlanRow) : Edge :=
  let r := planRow plan e w
  { x.replayAll with state := .inService, groups := w, mem := r.1, stream := r.2.1, coh := r.2.2, running := (x.goodGroups e).take w }

/-- The dies of an edge present their capability words: the edge runs with what both have, and with the lower minor version (13
R423). -/
def Edge.present (x : Edge) (t : Training) : Edge :=
  let loc := t.loc % 2 ^ 16
  let peer := t.peer % 2 ^ 16
  let agreed := loc &&& peer
  { x with loc, peer, agreed, minor := min (loc / 256) (peer / 256), compat := !bit agreed 0 }

/-- The edge has a mode to run in (13 R423). -/
def Edge.hasMode (x : Edge) : Bool := bit x.agreed 0 || bit x.agreed 1

/-- Tiles of an edge. -/
def edgeTiles (v : Variant) (e : Nat) : List Nat :=
  match edgeEnds v e with
  | some (a, b) => [a, b].filterMap (fun d => match d with
    | .tile n => some n
    | .io _ => none)
  | none => []

/-- Another edge of one of its tiles retrains (13 R425). -/
def State.edgeWaits (s : State) (e : Nat) : Bool :=
  (upTo 14).any (fun f => f != e && (s.edge f).state == .retraining &&
    (edgeTiles s.variant f).any (edgeTiles s.variant e).contains)

/-- A retrain begins: the dies present their words, spares are assigned, and an edge that cannot form its narrowest width goes out of
service, as does one that no mode is left to. -/
def beginRetrain (e : Nat) (t : Training) (s : State) : State :=
  let s := assignSpares e (s.updEdge e (fun x => x.present t))
  let s := s.updEdge e (fun x => { x with state := .retraining, due := none, retrain := satAdd 8 x.retrain 1 })
  if !(s.edge e).hasMode then settleEdges (s.updEdge e Edge.stop)
  else if ((s.edge e).width e).isNone then edgeOut e t.blamed s else s

/-- A training whose outcome no command gives: the words are those presented last, and the tile that the loopback test blames is
free. -/
def freeTraining (e : Nat) (s : State) : Training × State :=
  let (v, s) := s.draw
  (⟨v % 9, (s.edge e).loc, (s.edge e).peer⟩, s)

/-- LANE_FAILURE: the ledger records it, its group's flits suffer until it is spared, and the edge is to retrain 100 µs later. -/
def execLaneFailure (e dir lane : Nat) (s : State) : Host.Outcome State Fault Refusal :=
  let x := s.edge e
  let on := x.state == .inService || x.state == .retraining
  if !on || decide (dataLanes e + spareLanes e ≤ lane) || x.lanes.any (fun f => f.dir == dir && f.lane == lane) then .next s
  else
    let s := appendRepair 5 0xFF e (lane + dir * 2 ^ 10 + 0x7FF * 2 ^ 16) s
    let (v, s) := s.draw
    .next (s.updEdge e (fun x =>
      let x : Edge := { x with
        lanes := x.lanes ++ [{ dir, lane }], failedCount := satAdd 8 x.failedCount 1
        due := match x.due with
          | some t => some t
          | none => some (s.now + 100000) }
      match x.servesAs e dir lane with
      | some l => x.mark e dir (l / 32) v
      | none => x))

/-- HINGE_RETRAIN: the retrain that is due begins, unless another edge of one of its tiles is in one. -/
def execHingeRetrain (e : Nat) (training : Training) (s : State) : Host.Outcome State Fault Refusal :=
  let x := s.edge e
  match x.due with
  | none => .next s
  | some t =>
    if x.state != .inService || s.edgeWaits e then .next s
    else .next (beginRetrain e training (advanceTo t s))

/-- HINGE_CTRL_RETRAIN: a write of 1 to HINGE_CTRL.RETRAIN; a retrain that has to wait, for one of the same edge or of the same tile,
is due as soon as it may begin (13 R425). -/
def execHingeCtrlRetrain (t : EdgeTraining) (s : State) : Host.Outcome State Fault Refusal :=
  let e := t.edge
  let x := s.edge e
  if x.state == .retraining || (x.state == .inService && s.edgeWaits e) then
    .next (s.updEdge e (fun x => { x with due := some (x.due.getD s.now) }))
  else if x.state == .inService then .next (beginRetrain e t.training s)
  else .next s

/-- A write of 1 to HINGE_CTRL.RETRAIN whose training no command describes. -/
def hingeCtrlWrite (e : Nat) (s : State) : Host.Outcome State Fault Refusal :=
  let (t, s) := freeTraining e s
  execHingeCtrlRetrain ⟨e, t⟩ s

/-- After a retrain a lane that failed meanwhile is handled 100 µs later; a retrain that was asked for meanwhile is due at once. -/
def Edge.dueAfter (x : Edge) (now : Nat) : Option Nat :=
  if x.due.isNone then none else some (if x.lanes.any (fun f => !f.met) then now + 100000 else now)

/-- HINGE_RETRAIN_DONE: the edge resumes at the width that its training fixed; a narrower one is recorded and posted. A lane that
failed meanwhile is handled 100 µs later (13 R427, R432). -/
def execHingeRetrainDone (e : Nat) (s : State) : Host.Outcome State Fault Refusal :=
  let x := s.edge e
  if x.state != .retraining then .next s
  else match x.width e with
    | none => .next (edgeOut e 0xFF s)
    | some w =>
      let s := s.updEdge e (fun x => { x.run e w s.start.image.plan with due := x.dueAfter s.now })
      .next (if w < x.groups then fltPost 4 1 e noUnit 0 w 0 (appendRepair 6 0xFF e w s) else s)

end Sys2Proof.Machine
end

