-- ==== Sys2Proof/Machine/Red.lean ====
section
/-! DEFINITION. Reductions and collectives (chapter 11): slices, send periods, the sampled check, the fallback, the copies,
the barrier and the fencing of charged units. -/

namespace Sys2Proof.Machine

/-! ### A command at work on its slices (11 R354 to R356) -/

/-- A reduction or copy at work: the state, the command, what it met first, and the pages that hint LASTUSE releases. -/
structure RedRun where
  s   : State
  id  : CmdId
  e   : Entry
  err : Option (Nat × Nat × AccErr) := none
  lastUse : List Nat := []

/-- The context names a gang. -/
def RedRun.gang (x : RedRun) : Bool := (x.s.ctx x.id.ctx).desc.kind == 4

/-- Operand `k` of the command: 0 input, 1 output, 2 accumulator. -/
def RedRun.od (x : RedRun) (k : Nat) : Od := Od.parse (x.e.descs.getD k [])

/-- Address of byte `extra` of the slice of rank `r`; `stride` is that of the rank dimension. -/
def RedRun.addr (x : RedRun) (d : Od) (stride : Int) (r : Nat) (extra : Int) : Nat :=
  let base := (x.e.seg d.seg).base
  if x.gang then 2 ^ 55 + x.e.members.getD r 0 * 2 ^ 40 + ((base % 2 ^ 40 + d.off : Nat) + extra).toNat
  else ((base + d.off : Nat) + r * stride + extra).toNat

/-- Read bytes of an operand, whose lines are served by then; the copy engines make the access (09 R297). -/
def RedRun.rd (x : RedRun) (d : Od) (a n : Nat) : RedRun × List Byte :=
  if x.err.isSome then (x, [])
  else
    let g := x.e.seg d.seg
    let hint := hintOf d.where_ g
    match x.s.readMem a n with
    | .error er => ({ x with s := x.s.accessEnds er a n, err := some (d.seg, a, er) }, [])
    | .ok bs =>
      let s := x.s.demandTier x.id.ctx g hint a n
      ({ x with s, lastUse := x.lastUse ++ x.s.lastUsePages g hint a n }, bs)

/-- Write bytes of an operand. -/
def RedRun.wr (x : RedRun) (d : Od) (a : Nat) (bs : List Byte) : RedRun :=
  if x.err.isSome then x
  else
    let g := x.e.seg d.seg
    let hint := hintOf d.where_ g
    match x.s.writeMem a bs with
    | .error er => { x with s := x.s.accessEnds er a 0, err := some (d.seg, a, er) }
    | .ok s =>
      let s := s.noteWrites (s.localAddr a) bs.length
      { x with s := s.demandTier x.id.ctx g hint a bs.length, lastUse := x.lastUse ++ s.lastUsePages g hint a bs.length }

/-- Ranks, and elements of the input slice. -/
def RedRun.ranks (x : RedRun) : Nat := (x.od 0).e1
def RedRun.elems (x : RedRun) : Nat := (x.od 0).e0

/-- The codes of the input slice of rank `r`. -/
def RedRun.input (x : RedRun) (r : Nat) : RedRun × List Nat :=
  let d := x.od 0
  let (x, bs) := x.rd d (x.addr d d.s1 r 0) d.rowBytes
  (x, unpack d.fmt.bits d.e0 (sliceBytes bs 0 d.rowBytes))

/-- The input slices of all ranks. -/
def RedRun.inputs (x : RedRun) : RedRun × List (List Nat) :=
  (upTo x.ranks).foldl (fun (q : RedRun × List (List Nat)) r =>
    let (x, cs) := q.1.input r
    (x, q.2 ++ [cs])) (x, [])

/-- Physical ranges of the slices of an operand with `n` bytes each. -/
def RedRun.ranges (x : RedRun) (k : Nat) : List (Nat × Nat) :=
  let d := x.od k
  (upTo x.ranks).map (fun r => (x.s.localAddr (x.addr d d.s1 r 0), d.rowBytes))

/-- Pairs of different elements of a list. -/
def pairsOf {α : Type} : List α → List (α × α)
  | [] => []
  | a :: t => t.map (fun b => (a, b)) ++ pairsOf t

/-- Where output slices overlap each other or the inputs, the bytes are free (04 R141; 11 R356). -/
def RedRun.freeOverlaps (x : RedRun) : RedRun :=
  let outs := x.ranges 1
  let shared := (pairsOf outs).map (fun p => overlap p.1 p.2) ++ overlaps outs (x.ranges 0)
  if x.err.isSome then x else { x with s := x.s.scramble (shared.filter (fun r => decide (0 < r.2))) }

/-- End of a reduction or copy: an access fault fails it (11 R379; 03 R113), and pages with hint LASTUSE are released. -/
def RedRun.close (x : RedRun) (r : CmdResult) : State × CmdResult :=
  let s := x.lastUse.foldl State.releasePage x.s
  match x.err with
  | some (seg, a, er) => accessFault x.id seg a er s
  | none => (s, r)

/-! ### Contributions and anchors (11 R359, R361, R366) -/

/-- The anchor of an attar-sum reduction: that of an ATTAR operand, else the agreed one of the input values. -/
def RedRun.anchor (x : RedRun) (vals : List Num) : Int :=
  match ((x.e.descs.map Od.parse).find? Od.isAttar) with
  | some d => d.anchor
  | none =>
    match blockLog2 vals with
    | none => 0
    | some l => max (-512) (min 511 l)

/-- The input codes of a rank as attars at anchor `a`: an ATTAR input as it stands, other values entered (05 R173, R174). -/
def RedRun.attars (x : RedRun) (a : Int) (cs : List Nat) : List Attar :=
  let d := x.od 0
  if d.isAttar then cs.map Attar.ofCode else (valuesOf d.fmt d.anchor cs []).map (enter a)

/-- Address of half `h` of the accumulator of rank `r`. -/
def RedRun.half (x : RedRun) (r h : Nat) : Nat :=
  let d := x.od 2
  x.addr d d.s2 r (h * d.s1)

/-- An ATTAR input holds SAT+ or SAT− (05 R191). -/
def RedRun.inSat (x : RedRun) (ins : List (List Nat)) : Bool :=
  (x.od 0).isAttar && ins.any (fun cs => cs.any (fun c => (Attar.ofCode c).isSat))

/-- The sums of a thinning step: each rank's half plus its input, and whether an addition saturated (11 R366). -/
def RedRun.thin (x : RedRun) (k : Nat) (ins : List (List Nat)) : RedRun × List (List Attar) × Bool :=
  let d := x.od 2
  ins.zipIdx.foldl (fun (q : RedRun × List (List Attar) × Bool) e =>
    let (x, acc, sat) := q
    let ts := x.attars d.anchor e.1
    if k = 0 then (x, acc ++ [ts], sat || ts.any Attar.isSat)
    else
      let (x, bs) := x.rd d (x.half e.2 (k % 2)) d.rowBytes
      let prev := (unpack 128 d.e0 (sliceBytes bs 0 d.rowBytes)).map Attar.ofCode
      let r := poolAdd' prev ts
      (x, acc ++ [r.1], sat || r.2)) (x, [], false)
where
  /-- Sums of two rows, and whether one saturated (05 R191). -/
  poolAdd' (ps ts : List Attar) : List Attar × Bool :=
    ((ps.zip ts).map (fun p => Attar.add p.1 p.2), (ps.zip ts).any (fun p => p.2.isSat || Attar.addSaturates p.1 p.2))

/-- Write the halves of a step that does not send. -/
def RedRun.putHalves (x : RedRun) (k : Nat) (cur : List (List Attar)) : RedRun :=
  cur.zipIdx.foldl (fun x e => x.wr (x.od 2) (x.half e.2 ((k + 1) % 2)) (pack 128 (e.1.map Attar.toCode))) x

/-! ### Reducing over the ranks (11 R359, R360, R375) -/

/-- Element by element over the ranks, in rank order. -/
def overRanks {α β : Type} (zero : α) (f : List α → β) (n : Nat) (rows : List (List α)) : List β :=
  (upTo n).map (fun e => f (rows.map (fun r => r.getD e zero)))

/-- The attar sum of one element's contributions, and whether it saturated (05 R175, R191). -/
def attarSum (ts : List Attar) : Attar × Bool :=
  ts.foldl (fun r t => (Attar.add r.1 t, r.2 || t.isSat || Attar.addSaturates r.1 t)) (.num 0, false)

/-- The FP32 sum of one element's contributions in rank order. -/
def fp32Sum (vs : List Num) : Nat :=
  match vs with
  | [] => 0
  | v :: t => t.foldl (fun f w => addFp32 f (toFp32 w)) (toFp32 v)

/-- The maximum of one element's contributions. -/
def maxOf (vs : List Num) : Num :=
  match vs with
  | [] => .zero
  | v :: t => t.foldl Num.max v

/-- The reduced elements as output codes, and whether a sum saturated; an attar sum that saturates with an output that is
not ATTAR falls back to FP32 (11 R375, R376). `at'` are the contributions as attars at anchor `a`, `vs` as exact values. -/
def RedRun.reduce (x : RedRun) (a : Int) (at' : List (List Attar)) (vs : List (List Num)) : List Nat × Bool :=
  let o := x.od 1
  let n := x.elems
  let mode := modeOf x.e.flags 0
  let draw (e : Nat) : Nat := (DrawAt.draw ⟨x.e.seed, 0, 0, []⟩ e)
  let round (ns : List Num) : List Nat := ns.zipIdx.map (fun v => roundNum o.fmt mode (draw v.2) v.1)
  let byFp32 : List Nat := round (overRanks Num.zero (fun l => fp32 (fp32Sum l)) n vs)
  match x.e.redOp with
  | 0 =>
    let sums := overRanks (Attar.num 0) attarSum n at'
    let sat := sums.any (fun r => r.2)
    if o.isAttar then (sums.map (fun r => r.1.toCode), sat)
    else if sat then (byFp32, true)
    else (round (sums.map (fun r => r.1.value a)), false)
  | 1 => (byFp32, false)
  | _ => (round (overRanks Num.zero maxOf n vs), false)

/-! ### The sampled check (11 R369 to R373) -/

/-- Elements of a chunk. -/
def chunkElems : Nat := 4096

/-- Chunk `c` of tensor `t` is checked (11 R369). -/
def chunkChecked (seed t c log2 : Nat) : Bool := mix (mix (m64 seed) ^^^ (t * 2 ^ 32 ||| c)) / 2 ^ (64 - log2) == 0

/-- Kinds of R372 in its order, from 1 on, and FL_UNIT of a unit within its kind (log 20). -/
def unitKind : ChargedUnit → Nat
  | .core _ _ => 1 | .sill _ => 2 | .edge _ => 3 | .link _ => 4
def unitNumber : ChargedUnit → Nat
  | .core t c => 64 * t + c | .sill n => n | .edge e => e | .link k => k

/-- 600 s in ns. -/
def chargeSpan : Nat := 600000000000

/-- Charges of a unit within the last 600 s. -/
def Charge.recent (g : Charge) (now : Nat) : Nat := (g.times.filter (fun t => decide (now < t + chargeSpan))).length

/-- Charge a unit for a chunk, and log it (11 R372). The third charge within 600 s makes it due for a fence. -/
def charge (id : CmdId) (tensor chunk : Nat) (u : ChargedUnit) (s : State) : State :=
  let old := (s.charges.find? (fun g => g.unit == u)).getD ⟨u, [], 0, 0, none⟩
  let g : Charge := { old with times := old.times ++ [s.now], tensor, chunk }
  let g := if g.due.isNone && decide (3 ≤ g.recent s.now) then { g with due := some id } else g
  fltPost 9 1 (unitNumber u) id.ctx 0 tensor chunk { s with charges := s.charges.filter (fun g => g.unit != u) ++ [g] }

/-- What the checks of a send step give: the chunks checked, the mismatching pairs and the chunks not resolved. -/
structure Checks where
  checked : Nat := 0
  chunks  : List Nat := []
  wrong   : Nat := 0
  lost    : List Nat := []

/-- The checks of a reduction of `n` elements: charges, or the record of a chunk that stayed unresolved (11 R371, R372). -/
def RedRun.check (x : RedRun) (faults : List PathFault) : RedRun × Checks :=
  let n := (x.elems + chunkElems - 1) / chunkElems
  let t := x.e.redTensor
  let cs := (upTo n).filter (fun c => chunkChecked x.e.seed t c (x.s.redCfg % 32))
  let one (q : State × Checks) (c : Nat) : State × Checks :=
    let k : Checks := { q.2 with checked := q.2.checked + 1, chunks := q.2.chunks ++ [c] }
    match faults.find? (fun f => f.chunk == c && decide (0 < f.wrong)) with
    | none => (q.1, k)
    | some f =>
      let us := f.units.eraseDups
      if f.wrong < 3 then (us.foldl (fun s u => charge x.id t c u s) q.1, { k with wrong := k.wrong + f.wrong })
      else (us.foldl (fun s u => fltPost 9 3 (unitNumber u) x.id.ctx 0 t c s) q.1, { k with wrong := k.wrong + 3, lost := k.lost ++ [c] })
  let (s, k) := if x.e.redOp = 0 then cs.foldl one (x.s, {}) else (x.s, {})
  ({ x with s := { s with redChecked := s.redChecked + BitVec.ofNat 32 k.checked, redMismatch := satAdd 16 s.redMismatch k.wrong } }, k)

/-! ### Writing the output (11 R358, R360) -/

/-- Part `j` of `n` elements shared out among `k` (11 R360): its first element and its length. -/
def shareOf (n k j : Nat) : Nat × Nat := (j * n / k, (j + 1) * n / k - j * n / k)

/-- The rank that owns an element of the reduction (11 R360). -/
def RedRun.owner (x : RedRun) (e : Nat) : Nat :=
  ((upTo x.ranks).find? (fun r => let p := shareOf x.elems x.ranks r; decide (p.1 ≤ e) && decide (e < p.1 + p.2))).getD 0

/-- First element of rank `r`'s part of the reduced tensor, and its length. -/
def RedRun.part (x : RedRun) (r : Nat) : Nat × Nat :=
  if x.e.opcode = 0x1801 then (0, x.elems) else (r * (x.elems / x.ranks), x.elems / x.ranks)

/-- Write rank `r`'s output slice, without the chunks that are not written. -/
def RedRun.putSlice (x : RedRun) (codes : List Nat) (lost : List Nat) (r : Nat) : RedRun :=
  let o := x.od 1
  let (lo, n) := x.part r
  let cs := if n = 0 then [] else (upTo ((lo + n - 1) / chunkElems - lo / chunkElems + 1)).map (fun i => lo / chunkElems + i)
  (cs.filter (fun c => !lost.contains c)).foldl (fun x c =>
    let a := max lo (c * chunkElems)
    let b := min (lo + n) ((c + 1) * chunkElems)
    x.wr o (x.addr o o.s1 r ((a - lo) * o.fmt.bits / 8 : Nat)) (pack o.fmt.bits ((codes.drop a).take (b - a)))) x

/-- Address of element `e` of the reduced tensor in its owner's output slice. -/
def RedRun.outAddr (x : RedRun) (e : Nat) : Nat :=
  let o := x.od 1
  let r := x.owner e
  x.addr o o.s1 r ((e - (x.part r).1) * o.fmt.bits / 8 : Nat)

/-! ### Staging and messages (11 R362 to R364, R381; 08 R284) -/

/-- The sill whose adders serve an address of this package. -/
def State.sillOf (s : State) (a : Nat) : Option Nat :=
  match regionOf (s.localAddr a) with
  | .home o => some (s.stackOfHome o)
  | .direct o => some (o / 2 ^ 31)
  | _ => none

/-- The tile whose adders serve a tile's stack and Sill: its own, or where they are fenced those of its lowest-numbered neighbour in service
over an edge that is up (13 R429). -/
def State.addersOf (s : State) (t : Nat) : Nat :=
  let near (e : Nat) : Option Nat := match edgeEnds s.variant e with
    | some (.tile a, .tile b) =>
      let n := if a = t then some b else if b = t then some a else none
      if (s.edge e).alive then n.filter (fun n => (s.tile n).inService) else none
    | _ => none
  if (s.tile t).proxied then (((upTo 10).filterMap near).min?).getD t else t

/-- The adders that serve an address of this package. -/
def State.addersAt (s : State) (a : Nat) : Option Nat := (s.sillOf a).map s.addersOf

/-- Ranks of this package's member group: in a gang of level 1 all of them (11 R362). -/
def RedRun.group (x : RedRun) : List Nat :=
  let near := (x.s.gang.levels.headD {}).members
  if (x.s.ctx x.id.ctx).desc.index ≤ 1 then upTo x.ranks else (upTo x.ranks).filter (fun r => near.contains (x.e.members.getD r 0))

/-- Sums of chunks form at the adders of the owner's sill, in its staging SRAM: those of checked chunks, and where the gang has several
member groups those of every chunk (11 R362, R363, R370). -/
def RedRun.stages (x : RedRun) (checked : List Nat) : List Nat :=
  if x.e.redOp ≠ 0 then []
  else if x.gang && decide (x.group.length < x.ranks) then upTo ((x.elems + chunkElems - 1) / chunkElems) else checked

/-- Chunks of 4,096 attars that the 32 MiB of a sill's staging SRAM hold (11 R363). -/
def stagingChunks : Nat := 2 ^ 25 / (16 * chunkElems)

/-- The sums of a chunk stand in the staging SRAM of the sill that forms them. -/
def RedRun.stage (sums : List Attar) (x : RedRun) (c : Nat) : RedRun :=
  match x.s.addersAt (x.outAddr (c * chunkElems)) with
  | some n =>
    let chunk := ((sums.drop (c * chunkElems)).take chunkElems).map Attar.toCode
    { x with s := x.s.updSill n (fun k => { k with staging := (chunk :: k.staging).take stagingChunks }) }
  | none => x

/-- A staging line that reads uncorrectable fails the command (11 R379): the fault names the output that its chunk would give. -/
def RedRun.stagingFault (x : RedRun) (checked : List Nat) (faults : List PathFault) : RedRun :=
  match faults.find? (fun f => f.staging && (x.stages checked).contains f.chunk) with
  | some f => if x.err.isSome then x else { x with err := some ((x.od 1).seg, x.outAddr (f.chunk * chunkElems), .uncorrectable) }
  | none => x

/-- Data goes to a package over the links, in messages of at most a flit's 512 bytes (12 R383); `addr` is where what comes of it stands
there, which the route takes as their offset (12 R395; log 105). -/
def State.sendData (dst addr : Nat) (bs : List Byte) (s : State) : State :=
  (upTo ((bs.length + 511) / 512)).foldl (fun s i =>
    let m := (bs.drop (512 * i)).take 512
    s.requestTo 0 true dst (addr + 512 * i) m.length m) s

/-- Attars go to an owner's adders as accumulates of 80 bytes, four to a line (08 R284). -/
def State.sendLines (dst addr : Nat) (ts : List Attar) (s : State) : State :=
  (upTo ((ts.length + 3) / 4)).foldl (fun s i =>
    s.requestTo 0 true dst (addr + 64 * i) 80 (((ts.drop (4 * i)).take 4).flatMap (fun t => bytesOfNat 16 t.toCode))) s

/-- The rank of this package in a gang collective; none in any other, whose bytes take no link (11 R381). -/
def RedRun.me (x : RedRun) : Option Nat :=
  if x.gang then (upTo x.ranks).find? (fun r => x.s.isSelf (x.e.members.getD r 0)) else none

/-- A part of a list. -/
def partOf {α : Type} (l : List α) (p : Nat × Nat) : List α := (l.drop p.1).take p.2

/-- Elements that rank `q` of the group `near` sums for it: those whose owner has its place in the owner's own group, so that they are
shared evenly over the groups (11 R362, R381; log 20). -/
def RedRun.share (x : RedRun) (near : List Nat) (q : Nat) : List Nat :=
  (upTo x.elems).filter (fun e => x.owner e % near.length == near.idxOf q)

/-- What this package's rank sends for one send step (11 R364, R381): its part of the agreement on the anchor, its contribution to the
elements that each rank of its group sums, its group's sums to the adders of owners in other groups, its contribution to checked
chunks to their owners' adders, after a saturation its contribution as FP32 (11 R375), and the elements that it owns to every rank
that receives them. `mineIn` are the codes of its input, `again` says that the reduction fell back to FP32. -/
def RedRun.exchange (x : RedRun) (a : Int) (at' : List (List Attar)) (vs : List (List Num)) (mineIn codes : List Nat) (again : Bool)
    (k : Checks) : RedRun :=
  match x.me with
  | none => x
  | some r0 =>
    let n := x.elems
    let others := (upTo x.ranks).filter (fun r => r != r0)
    let pkg (r : Nat) : Nat := x.e.members.getD r 0
    let sum := x.e.redOp == 0
    let mine := at'.getD r0 []
    let asFp32 (es : List Nat) : List Byte := es.flatMap (fun e => bytesOfNat 4 (toFp32 ((vs.getD r0 []).getD e .zero)))
    let form (es : List Nat) : List Byte := match x.e.redOp with
      | 0 => es.flatMap (fun e => bytesOfNat 16 (mine.getD e (Attar.num 0)).toCode)
      | 1 => asFp32 es
      | _ => pack (x.od 0).fmt.bits (es.map (fun e => mineIn.getD e 0))
    let near := if sum then x.group else upTo x.ranks
    let to_ (r : Nat) (es : List Nat) (bs : List Byte) (s : State) : State := s.sendData (pkg r) (x.outAddr (es.headD 0)) bs
    let agree (s : State) : State :=
      if sum && !(x.e.descs.map Od.parse).any Od.isAttar then others.foldl (fun s r => to_ r [] (bytesOfNat 2 (a + 512).toNat) s) s else s
    let give (s : State) : State := (near.filter (fun r => r != r0)).foldl (fun s r => to_ r (x.share near r) (form (x.share near r)) s) s
    let sums := (overRanks (Attar.num 0) attarSum n (near.map (fun r => at'.getD r []))).map (fun t => t.1)
    let lines (ts : List Attar) (es : List Nat) (s : State) : State :=
      others.foldl (fun s r =>
        let owned := es.filter (fun e => x.owner e == r)
        s.sendLines (pkg r) (x.outAddr (owned.headD 0)) (owned.map (fun e => ts.getD e (Attar.num 0)))) s
    let cross (s : State) : State := if sum then lines sums ((x.share near r0).filter (fun e => !near.contains (x.owner e))) s else s
    let check (s : State) : State :=
      k.chunks.foldl (fun s c => lines mine ((upTo (min chunkElems (n - c * chunkElems))).map (fun i => c * chunkElems + i)) s) s
    let redo (s : State) : State :=
      if again then others.foldl (fun s r => to_ r (x.share (upTo x.ranks) r) (asFp32 (x.share (upTo x.ranks) r)) s) s else s
    let mineOut := (upTo n).filter (fun e => x.owner e == r0 && !k.lost.contains (e / chunkElems))
    let out := pack (x.od 1).fmt.bits (mineOut.map (fun e => codes.getD e 0))
    let back (s : State) : State := if x.e.opcode = 0x1801 then others.foldl (fun s r => to_ r mineOut out s) s else s
    { x with s := back (redo (check (cross (give (agree x.s))))) }

/-- Record the tensor's step count and period after a command that completes (11 R367). -/
def RedRun.setTensor (x : RedRun) (count : Nat) : RedRun :=
  { x with s := x.s.updCtx x.id.ctx (fun c => { c with tensors := Table.put {} c.tensors x.e.redTensor ⟨x.e.redPeriod, count⟩ }) }

/-- A send step: reduce, check and write (11 R366). -/
def RedRun.send (x : RedRun) (a : Int) (at' : List (List Attar)) (vs : List (List Num)) (ins : List (List Nat)) (sat : Bool)
    (faults : List PathFault) : State × CmdResult :=
  if x.err.isSome then x.close (.of sOk)
  else
    let (codes, sat2) := x.reduce a at' vs
    let (x, k) := x.check faults
    let sums := (overRanks (Attar.num 0) attarSum x.elems at').map (fun t => t.1)
    let x := ((x.stages k.chunks).foldl (RedRun.stage sums) x).stagingFault k.chunks faults
    let x := if x.err.isSome then x else x.exchange a at' vs (ins.getD (x.me.getD 0) []) codes (sat2 && x.e.redOp == 0 && !(x.od 1).isAttar) k
    let x := ((upTo x.ranks).foldl (fun x r => x.putSlice codes k.lost r) x).freeOverlaps
    let st := if k.lost ≠ [] then sUncorrectable else if sat || sat2 then sAnchorSat else if 0 < k.wrong then sCheckMismatch else sOk
    let x := if isCompleted st && x.err.isNone then x.setTensor 0 else x
    x.close ⟨st, 0, k.checked, k.wrong⟩

/-- RED_ALLREDUCE and RED_REDUCE_SCATTER (11 R366). -/
def RedRun.run (x : RedRun) (faults : List PathFault) : State × CmdResult :=
  let t := Table.get {} (x.s.ctx x.id.ctx).tensors x.e.redTensor
  let n := x.e.redPeriod
  if t.count ≠ 0 ∧ n ≠ t.period then (x.s, .of sBadPacket)
  else
    let (x, ins) := x.inputs
    let d := x.od 0
    if n = 1 then
      let vs := ins.map (fun cs => valuesOf d.fmt d.anchor cs [])
      let a := x.anchor vs.flatten
      let at' := ins.map (x.attars a)
      x.send a at' vs ins (x.inSat ins) faults
    else
      let (x, cur, sat) := x.thin t.count ins
      if t.count + 1 < n then
        let x := x.putHalves t.count cur
        let x := if x.err.isNone then x.setTensor (t.count + 1) else x
        x.close (.of (if sat then sAnchorSat else sOk))
      else
        let a := (x.od 2).anchor
        x.send a cur (cur.map (fun r => r.map (Attar.value a))) ins sat faults

/-- What a reduction or copy reads, as segment, address and bytes: its input slices, and where it thins its accumulators' halves (11
R366). -/
def RedRun.reads (x : RedRun) : List (Nat × Nat × Nat) :=
  let d := x.od 0
  let t := Table.get {} (x.s.ctx x.id.ctx).tensors x.e.redTensor
  let thins := x.e.opcode ≤ 0x1802 && x.e.redPeriod != 1 && t.count != 0
  (upTo x.ranks).map (fun r => (d.seg, x.addr d d.s1 r 0, d.rowBytes)) ++
    (if thins then (upTo x.ranks).map (fun r => ((x.od 2).seg, x.half r (t.count % 2), (x.od 2).rowBytes)) else [])

/-- Lines that a command reads still wait in a controller's queue. -/
def State.readsFor (s : State) (id : CmdId) : Bool :=
  let mine (r : PcRead) : Bool := match r.who with
    | .command c _ => c == id
    | _ => false
  s.hbm.any (fun k => k.2.pcs.any (fun p => p.2.reads.any mine))

/-- A reduction or copy asks for the lines that it reads, once. -/
def askReads (id : CmdId) (e : Entry) (s : State) : State :=
  if e.asked then s
  else
    let ask (s : State) (r : Nat × Nat × Nat) : State := match s.readMem r.2.1 r.2.2 with
      | .ok _ => s.takeReads (.command id r.1) r.2.1 r.2.2
      | .error _ => s
    ((RedRun.reads { s, id, e }).foldl ask s).updEntry id (fun e => { e with asked := true })

/-- Another member of the gang started after RELEASE: the record carries LATE (11 R377). -/
def markLate (r : RedAt) (e : Entry) (s : State) : State :=
  if r.late && e.relEn && !e.members.isEmpty then s.updEntry r.id (fun e => { e with late := true }) else s

/-- A dispatched reduction or copy: it asks for its lines, and once all have been served uncorrupted, and its writes find room, it does its
work (10 R328 to R330). -/
def runRed (r : RedAt) (op : Nat) (s : State) (f : RedRun → State × CmdResult) : Host.Outcome State Fault Refusal :=
  match s.entry? r.id with
  | none => .next s
  | some e =>
    if e.phase != .running || e.opcode != op then .next s
    else
      let s := askReads r.id e (markLate r e s)
      if s.readsFor r.id then .next s
      else
        let q := f { s, id := r.id, e }
        .next (if q.1.overfull then s else finishWith r.id q.2 q.1)

/-- RED_ALLREDUCE. -/
def execRedAllreduce (r : RedAt) (faults : List PathFault) (s : State) : Host.Outcome State Fault Refusal :=
  runRed r 0x1801 s (fun x => x.run faults)

/-- RED_REDUCE_SCATTER. -/
def execRedReduceScatter (r : RedAt) (faults : List PathFault) (s : State) : Host.Outcome State Fault Refusal :=
  runRed r 0x1802 s (fun x => x.run faults)

/-! ### Copies (11 R358) -/

/-- This package's rank sends to every other what that takes of its input slice (11 R381): `part` says what rank `r` takes of a slice. -/
def RedRun.sendCopies (x : RedRun) (ins : List (List Nat)) (part : List Nat → Nat → List Nat) : RedRun :=
  match x.me with
  | none => x
  | some r0 =>
    let o := x.od 1
    let at_ (r : Nat) : Nat := x.addr o o.s1 r ((pack o.fmt.bits ((ins.take r0).flatMap (fun q => part q r))).length : Nat)
    let send (s : State) (r : Nat) : State := s.sendData (x.e.members.getD r 0) (at_ r) (pack (x.od 0).fmt.bits (part (ins.getD r0 []) r))
    { x with s := ((upTo x.ranks).filter (fun r => r != r0)).foldl send x.s }

/-- A copy: every rank's output slice is made of what it takes of every input slice, in rank order; an attar that holds a SAT marker is reported
(05 R191, R192). -/
def RedRun.copy (x : RedRun) (part : List Nat → Nat → List Nat) : State × CmdResult :=
  let f (ins : List (List Nat)) (r : Nat) : List Nat := ins.flatMap (fun q => part q r)
  let (x, ins) := x.inputs
  let o := x.od 1
  let x := if x.err.isSome then x else x.sendCopies ins part
  let x := (upTo x.ranks).foldl (fun x r => x.wr o (x.addr o o.s1 r 0) (pack o.fmt.bits (f ins r))) x
  x.freeOverlaps.close (.of (if x.inSat ins then sAnchorSat else sOk))

/-- RED_ALLGATHER. -/
def execRedAllgather (r : RedAt) (s : State) : Host.Outcome State Fault Refusal :=
  runRed r 0x1803 s (fun x => x.copy (fun q _ => q))

/-- RED_ALLTOALL. -/
def execRedAlltoall (r : RedAt) (s : State) : Host.Outcome State Fault Refusal :=
  runRed r 0x1804 s (fun x => x.copy (fun q r => (q.drop (r * (x.elems / x.ranks))).take (x.elems / x.ranks)))

/-- RED_BARRIER completes once every command of its context accepted before it has completed (11 R378); one whose record waits for room
counts as completed (02 R67). -/
def execRedBarrier (r : RedAt) (s : State) : Host.Outcome State Fault Refusal :=
  match s.entry? r.id with
  | some e =>
    let c := s.ctx r.id.ctx
    if e.phase != .running || e.opcode != 0x1805 ||
        c.entries.any (fun f => decide (f.order < e.order) && !c.held.contains (f.ring, f.seq)) then .next s
    else .next (finishWith r.id (.of sOk) (markLate r e s))
  | none => .next s

/-! ### Fencing (11 R373) -/

/-- The tile of a charged unit, 0xFF where none applies. -/
def unitTile : ChargedUnit → Nat
  | .core t _ => t | .sill n => n | .edge _ => 0xFF | .link k => k / 4

/-- The unit's number within its tile. -/
def unitIndex : ChargedUnit → Nat
  | .core _ c => c | .sill n => n | .edge e => e | .link k => k

/-- Commands with accumulates in flight that satisfy a condition are discarded. -/
def discardAccs (p : Acc → Bool) (s : State) : State :=
  ((s.accs.filter (fun a => a.own && p a)).map (fun a => a.cmd)).eraseDups.foldl (fun s id => discard id s) s

/-- Commands whose gather ops wait for rows from packages that satisfy a condition are discarded. -/
def discardRows (p : Nat → Bool) (s : State) : State :=
  let far (a : Nat) : Bool := match regionOf a with
    | .remote q _ => !s.isSelf q && p q
    | _ => false
  let waits (i : Inst) : Bool := i.ops.any (fun o => o.ga.any (fun g => g.poss.any (fun x => x.asked && !x.arrived && x.addr.any far)))
  (((s.cores.flatMap (fun k => k.2.run.toList ++ k.2.held.toList)).filter waits).map (fun i => i.cmd)).eraseDups.foldl (fun s id => discard id s) s

/-- The first link of the route to a package. -/
def State.routedBy (s : State) (k q : Nat) : Bool := (s.routeLinks q).head? == some k

/-- Commands whose traffic crosses the edge between two tiles: an op on the one tile, or an adder for it, that waits for memory of the
other's stack (02 R72; 11 R373). -/
def crossing (a b : Nat) (s : State) : List CmdId :=
  let spans (t n : Nat) : Bool := (t == a && n == b) || (t == b && n == a)
  let reads := s.hbm.flatMap (fun k => k.2.pcs.flatMap (fun p => p.2.reads.filterMap (fun r => match r.who with
    | .op t _ id _ _ _ => if spans t k.1 then some id else none
    | _ => none)))
  let adds := (s.accs.filter (fun x => x.own && (s.sillOf x.addr).any (spans x.tile))).map (fun x => x.cmd)
  (reads ++ adds).eraseDups

/-- Commands at work that may reach a host port of I/O die `d` over one of its edges, as their operands' HOST segments say; whether over the edge
that leaves is free (02 R72; 11 R373). -/
def discardPorts (d : Nat) (s : State) : State :=
  let hosts (e : Entry) : Bool := e.uses.any (fun u => (e.seg u.seg).type == 2 && (e.seg u.seg).hostPort / 2 == d)
  let ids := s.ctxs.flatMap (fun c => (c.2.entries.filter (fun e => e.phase == .running && hosts e)).map (fun e => (⟨c.1, e.ring, e.seq⟩ : CmdId)))
  ids.foldl (fun s id =>
    let (v, s) := s.draw
    if v % 2 = 1 then discard id s else s) s

/-- In-flight commands with work on a unit to be fenced are discarded (02 R72; 11 R373, R379). Runs on a core or a tile go with its
withdrawal. -/
def discardUsers (u : ChargedUnit) (s : State) : State :=
  match u with
  | .core _ _ => s
  | .sill n => discardAccs (fun a => s.addersAt a.addr == some n) s
  | .edge e => match edgeEnds s.variant e with
    | some (.tile a, .tile b) =>
      discardReds (fun d => scopeHas a none d && scopeHas b none d) ((crossing a b s).foldl (fun s id => discard id s) s)
    | some (.io d, _) => discardPorts d s
    | _ => s
  | .link k =>
    let via (a : Nat) : Bool := match regionOf a with
      | .remote q _ => s.routedBy k q
      | _ => false
    discardReds (fun d => d.kind == 4) (discardRows (s.routedBy k) (discardAccs (fun a => via a.addr) s))

/-- What the fence of a unit does to it. -/
def fenceUnit (u : ChargedUnit) (s : State) : State :=
  let s := discardUsers u s
  match u with
  | .core t c => withdrawCore t c 3 s
  | .sill n => withdrawTile n 3 s
  | .edge e => edgeOut e 0xFF s
  | .link k => linkDown k .down (withCap (fun s => s.updLink k (fun l => { l with fenced := true })) s)

/-- UNIT_FENCE: a unit charged three times within 600 s, once the completion record of the command that made the third charge
is written. -/
def execUnitFence (u : ChargedUnit) (s : State) : Host.Outcome State Fault Refusal :=
  match s.charges.find? (fun g => g.unit == u) with
  | none => .next s
  | some g =>
    match g.due with
    | none => .next s
    | some id =>
      if (s.entry? id).isSome then .next s
      else
        let s := { s with charges := s.charges.filter (fun g => g.unit != u), redFenced := satAdd 8 s.redFenced 1 }
        let s := appendRepair 0x11 (unitTile u) (unitIndex u) (unitKind u) s
        let s := fenceUnit u s
        .next (fltPost 9 2 (unitNumber u) id.ctx 0 g.tensor g.chunk s)

end Sys2Proof.Machine
end

