-- ==== Sys2Proof/Machine/SelfTest.lean ====
section
/-! DEFINITION. What the tests of SYS_SELFTEST may use and what a failed one does to its unit (15 R476 to R478, R480). -/

namespace Sys2Proof.Machine

/-- The tile lies in the scope of a self-test. -/
def inScope (d : CtxDesc) (t : Nat) : Bool :=
  match d.kind with
  | 1 => t == d.index / 64
  | 2 => t == d.index
  | _ => true

/-- The logical number that a physical core carries. -/
def State.logicalOf (s : State) (t p : Nat) : Option Nat := (upTo 64).find? (fun c => (s.core t c).inService && (s.core t c).phys == p)

/-- Units of the sensor test on a tile: its temperature sensors, its set of regulators and its current guard (01 R22; 15 R476). -/
def tileSensorUnits : Nat := dieSensors + sillSensors + 2

/-- The unit of an outcome is one that the test may use (01 R22; 15 R476): a core of the scope, in concurrent form a spare or idle one. Where
the scope is a core, that is all; else a copy engine of the tile, numbered after its 72 cores; a frame free in the pool; a pseudo-channel;
an edge of the tile, and a link of its own; a spare Ultur core; in exclusive form alone a sensor, the regulators or the guard. The one SM2
and SM3 engine is the package's. -/
def unitTested (s : State) (d : CtxDesc) (excl : Bool) (r : TestResult) : Bool :=
  let wide := d.kind != 1
  let core := match s.logicalOf r.tile r.unit with
    | some c => (wide || c == d.index % 64) && (excl || (s.core r.tile c).idle)
    | none => wide
  let spareU := decide (r.unit < 10) && !(upTo 8).any (fun u => (s.ucore r.tile u).inService && (s.ucore r.tile u).phys == r.unit)
  match r.test with
  | 0 | 1 | 2 => decide (r.unit < 72) && core
  | 3 => if r.unit < 72 then core else wide && decide (r.unit < 72 + tileCopyEngines)
  | 4 => wide && s.inPool r.tile r.unit
  | 5 => wide && decide (r.unit < 64) && (s.stack r.tile).inService
  | 6 => wide && decide (r.unit < 14) && (edgeTiles s.variant r.unit).contains r.tile && (s.edge r.unit).alive
  | 7 => wide && s.variant.hasLink r.unit && r.unit / 4 == r.tile
  | 8 => wide && spareU
  | 9 => wide && excl && decide (r.unit < tileSensorUnits)
  | _ => decide (d.kind = 3 ∨ d.kind = 4) && decide (r.tile = 0 ∧ r.unit = 0)

/-- The outcomes that a self-test counts: of tests that TESTS names, on units of the scope. -/
def countedResults (s : State) (d : CtxDesc) (excl : Bool) (tests : Nat) (rs : List TestResult) : List TestResult :=
  rs.filter (fun r => bit tests r.test && s.variant.hasTile r.tile && inScope d r.tile && unitTested s d excl r)

/-- A spare matrix core that fails is recorded as failed and never brought in. -/
def failSpare (t p : Nat) (s : State) : State :=
  if 72 ≤ p ∨ (s.tile t).badCores.contains p then s
  else appendRepair 2 t p 4 (s.updTile t (fun x => { x with badCores := insertNat p x.badCores }))

/-- A spare Ultur core that fails is recorded; the cause is free. -/
def failSpareUcore (t p : Nat) (s : State) : State :=
  if 10 ≤ p ∨ (s.tile t).badUcores.contains p then s
  else
    let (v, s) := s.draw
    appendRepair 4 t p (v % 256) (s.updTile t (fun x => { x with badUcores := insertNat p x.badUcores }))

/-- A pseudo-channel fails the HBM test: in a free pool granule a row of it fails, or, in the exclusive form, its interface does. Which is
free, as are the granule and the row. -/
def failHbm (excl : Bool) (n p : Nat) (s : State) : State :=
  let (v, s) := s.draw
  let (w, s) := s.draw
  if excl && v % 2 = 1 then (if (s.pc n p).state == .inService then degrade n p s else s)
  else
    let free := (((upTo (s.variant.poolEnd - s.poolStart)).map (fun i => s.poolStart + i)) ++ s.home.freed).filter s.poolFree
    match free[v / 2 % free.length]? with
    | none => s
    | some d =>
      let lines := s.variant.piecesOn n p d
      match lines[w % lines.length]? with
      | none => s
      | some a => rowFails a none s

/-- What a failed test does to its unit (15 R478). Which lane or wavelength failed the outcome does not say: it is free. -/
def failUnit (excl : Bool) (r : TestResult) (s : State) : State :=
  match r.test with
  | 4 =>
    let (v, s) := s.draw
    retireFrame r.tile r.unit (v % 65536) s
  | 5 => if r.unit < 64 then failHbm excl r.tile r.unit s else s
  | 6 =>
    let (v, s) := s.draw
    if r.unit < 14 then after s (execLaneFailure r.unit (v % 2) (v / 2 % (dataLanes r.unit + spareLanes r.unit)) s) else s
  | 7 =>
    let (v, s) := s.draw
    if r.unit < 32 then after s (execWavelengthFailure r.unit ⟨v % 9, false⟩ s) else s
  | 8 => failSpareUcore r.tile r.unit s
  | 9 | 10 => s
  | _ => match s.logicalOf r.tile r.unit with
    | some c => withdrawCore r.tile c 4 s
    | none => failSpare r.tile r.unit s

/-- A unit fails a test: it is posted and shown in SYS_ST_RESULT (15 R477, R490). -/
def postFailed (test tile unit : Nat) (s : State) : State :=
  fltPost 0x0A 1 (tileUnit tile unit) noUnit 0 test 0 { s with stFailed := s.stFailed ||| 2 ^ test }

/-- Take up one outcome: its failure or its not having run is posted and shown in SYS_ST_RESULT. -/
def takeResult (excl : Bool) (s : State) (r : TestResult) : State :=
  if r.notRun then fltPost 0x0A 2 (tileUnit r.tile r.unit) noUnit 0 r.test 0 { s with stNotRun := s.stNotRun ||| 2 ^ r.test }
  else if r.failed then postFailed r.test r.tile r.unit (failUnit excl r s)
  else s

/-- After neither copy of the repair ledger was good a start runs the tests `tests` in their exclusive form on the whole package, and what
they find is recorded (15 R480). -/
def startTests (tests : Nat) (rs : List TestResult) (s : State) : State :=
  if s.start.ledgerBad then (countedResults s { kind := 3 } true tests rs).foldl (takeResult true) s else s

end Sys2Proof.Machine
end

