-- ==== Sys2Proof/Machine/Start.lean ====
section
/-! DEFINITION. Starts, resets of the pins and supply domains (14 R434 to R437; 15 R458 to R473; 16 R496): the stages of a start,
the start ledger, vestibule mode, and how a start begins and fails. -/

namespace Sys2Proof.Machine

/-! ### The start ledger (15 R469, R470) -/

/-- The newest entry. -/
def Flash.newest (f : Flash) : Option StartEntry := f.starts.head?

/-- The highest stage that an entry shows as completed. -/
def StartEntry.lastStage (e : StartEntry) : Nat := ((upTo 9).filter (fun i => !bit e.progress i)).getLast?.getD 0

/-- Stage ROM closes an entry that a reset or a loss of supply left open, as failed. -/
def closeOpen (s : State) : State :=
  match s.flash.newest with
  | some e => if e.closed then s else closeStart 0x0A e.lastStage s.flash.failsAfter s
  | none => s

/-- Open an entry. The ledger keeps 8,192. -/
def openEntry (cause bank progress : Nat) (s : State) : State :=
  let seq := ((s.flash.newest.map (fun e => e.seq)).getD 0) + 1
  { s with flash := { s.flash with starts := ({ seq, cause, bank, progress : StartEntry } :: s.flash.starts).take 8192 } }

/-- A stage completes: its bit of SL_PROGRESS clears, and the next stage begins. -/
def stageDone (s : State) : State :=
  let n := s.start.stage
  let mark (e : StartEntry) : StartEntry := if bit e.progress n then { e with progress := e.progress - 2 ^ n } else e
  let starts := match s.flash.starts with
    | [] => []
    | e :: t => mark e :: t
  { s with flash := { s.flash with starts }, start := { s.start with stage := n + 1, since := s.now } }

/-- Extend a measurement register (15 R461). -/
def extendMr (i : Nat) (d : List Byte) (s : State) : State :=
  let m := s.start.mrs.getD i (List.replicate 32 0)
  { s with start := { s.start with mrs := setAt s.start.mrs i (sm3 (m ++ d)) } }

/-! ### Stages ROM, IMAGE and LEDGER -/

/-- The bank of 15 R483: bank B, and whether it is a trial start. -/
def BankRecord.choose (b : BankRecord) : Bool × Bool := if b.trial && !b.tried then (!b.activeB, true) else (b.activeB, false)

/-- The bank record after stage IMAGE: a trial bank is marked tried, and one tried and not committed is cleared. -/
def BankRecord.mark (b : BankRecord) : BankRecord :=
  if b.trial && !b.tried then { b with tried := true, count := (b.count + 1) % 2 ^ 32 }
  else if b.trial && b.tried && !b.committed then { b with trial := false, tried := false, count := (b.count + 1) % 2 ^ 32 }
  else b

/-- Stage IMAGE rewrites the record where a mark changes. -/
def Flash.markBank (f : Flash) : Flash := if f.bank.mark = f.bank then f else f.setBank f.bank.mark

/-- A bank is valid (15 R459). -/
def Flash.valid (f : Flash) (v : ImageView) : Bool := v.readable && v.sigOk && decide (f.bank.highest ≤ v.version)

/-- The image of a bank. -/
def Flash.imageOf (f : Flash) (b : Bool) : ImageView := if b then f.imageB else f.imageA

/-- A stage ends with a state, and with a reason and detail where the start fails (15 R466). -/
abbrev StageEnd := State × Option (Nat × Nat)

/-- Registers that a start loads with values of the variant (14 R457). -/
def loadPower (s : State) : State :=
  let w := s.maxW
  { s with power := { s.power with limitW := w, capW := w, forceW := w, forceWin := s.power.windowS } }

/-- Vestibule mode is due: the newest closed entry counts three failed starts or more, and no CLEAR and no update since has set the base to
0 (15 R471, R482). -/
def State.vestibuleDue (s : State) : Bool := decide (3 ≤ s.flash.closedFails) && !(s.start.cleared || s.start.updated)

/-- Stage ROM (15 R464, R470, R471). -/
def stageRom (env : StageEnv) (s : State) : StageEnd :=
  let s := closeOpen s
  let (v, s) := s.draw
  let s := loadPower { s with gang := { s.gang with nonce := v % 2 ^ 64 }, i3c := { s.i3c with strap := env.strap % 16 } }
  let vest := s.vestibuleDue
  let (b, trial) := s.flash.bank.choose
  let s := openEntry s.start.cause (if vest then 0xFC else 0xFC + flagAt b 0 + flagAt trial 1) 0xFFFF s
  if !env.romOk then (s, some (1, 0))
  else if !env.keyOk then (s, some (2, 0))
  else
    let s := stageDone { s with start := { s.start with idKey := some (Config.identityKey s.flash.helper) } }
    if vest then (fltPost 1 3 3 noUnit 0 (((s.flash.newest).map (fun e => e.seq)).getD 0) s.start.cause
      { s with start := { s.start with phase := .vestibule } }, none)
    else (s, none)

/-- Stage IMAGE: the chosen bank, or the other one (15 R483). -/
def stageImage (s : State) : StageEnd :=
  let f := s.flash
  let (b, trial) := f.bank.choose
  let s := { s with flash := f.markBank }
  let bad (x : Bool) (s : State) : State := fltPost 0x0B 3 (natOfBool x) noUnit 0 3 0 s
  let take (x tr : Bool) (s : State) : StageEnd :=
    let v := f.imageOf x
    let s := { s with start := { s.start with image := v, bankB := x, trial := tr } }
    let s := (upTo 3).foldl (fun s i => extendMr i (sliceBytes (v.digests.getD i []) 0 32) s) s
    (stageDone s, none)
  if f.valid (f.imageOf b) then take b trial s
  else
    let s := bad b s
    if f.valid (f.imageOf !b) then take (!b) false s
    else (bad (!b) s, some (3, flagAt (!f.valid f.imageA) 0 + flagAt (!f.valid f.imageB) 1))

/-- Records beyond which the ledger is compacted: 75 % of 1 MiB (15 R481). -/
def compactAt : Nat := 12288

/-- Map-out journals of a ledger, in order: stack, pseudo-channel and done (10 R347). -/
def Flash.journals (f : Flash) : List (Nat × Nat × Bool) :=
  f.repairs.foldl (fun l r =>
    if r.type = 0x0C then (if l.any (fun j => j.1 == r.tile && j.2.1 == r.unit) then l else l ++ [(r.tile, r.unit, false)])
    else if r.type = 0x0D then
      if l.any (fun j => j.1 == r.tile && j.2.1 == r.unit) then
        l.map (fun j => if j.1 == r.tile && j.2.1 == r.unit then (j.1, j.2.1, true) else j)
      else l ++ [(r.tile, r.unit, true)]
    else l) []

/-- A later record `x` supersedes `r` (15 R481): a newer V_MIN, edge, spare or lane record of the same unit, the repair of a row, the end of
a map-out, the spare row of a frame, or the same record again (log 135). -/
def RepairRecord.supersedes (x r : RepairRecord) : Bool :=
  x.tile == r.tile && (match r.type with
    | 0x01 | 0x06 => x.type == r.type && x.unit == r.unit
    | 0x03 => x.type == 3 && x.data == r.data
    | 0x05 => x.type == 5 && x.unit == r.unit && bits x.data 10 0 == bits r.data 10 0
    | 0x09 => x.type == 0x0A && x.unit == r.unit && x.data == r.data
    | 0x0C => x.type == 0x0D && x.unit == r.unit
    | 0x0F => x.type == 0x10 && x.unit == r.unit && x.data == r.data
    | 0x10 => false
    | _ => x.type == r.type && x.unit == r.unit && x.data == r.data)

/-- Each record with whether a later one supersedes it. -/
def markSuperseded : List RepairRecord → List (RepairRecord × Bool)
  | [] => []
  | r :: rs => (r, rs.any (fun x => x.supersedes r)) :: markSuperseded rs

/-- The records in force, and the newest superseded one of each kind (15 R481). -/
def keepInForce : List (RepairRecord × Bool) → List RepairRecord
  | [] => []
  | (r, old) :: rs => if old && rs.any (fun x => x.2 && x.1.type == r.type) then keepInForce rs else r :: keepInForce rs

/-- The chain value after records written as a new prefix. -/
def chainOf (rs : List RepairRecord) : List Byte := rs.foldl (fun c r => sm3 (c ++ r.bytes)) (List.replicate 32 0)

/-- The ledger holds `rs` as a new prefix. -/
def Flash.rewrite (f : Flash) (rs : List RepairRecord) : Flash := { f with repairs := rs, chain := chainOf rs }

/-- The ledger is compacted. -/
def Flash.compact (f : Flash) : Flash := f.rewrite (keepInForce (markSuperseded f.repairs))

/-- The ledger records a row under a type. -/
def Flash.hasRow (f : Flash) (type : Nat) (r : RowId) : Bool :=
  f.repairs.any (fun x => x.type == type && x.tile == r.stack && x.unit == r.pc && x.data == r.bank + 256 * r.row)

/-- What home memory takes from the ledger at a start: its journals, the retired granules, and the rows scheduled and repaired
(10 R336, R341). -/
def readHome (s : State) : State :=
  let f := s.flash
  { s with home := { s.home with
      journals := f.journals
      retired := (f.repairs.filter (fun r => r.type == 0x0B)).foldl (fun l r => insertNat r.data l) []
      failing := s.home.failing.filter (fun x => f.hasRow 9 x.1)
      repaired := s.home.repaired.filter (f.hasRow 0x0A) } }

/-- Stage LEDGER: with no good copy the longest good prefix stays, whose length is free; a ledger more than 75 % full is compacted (15 R480,
R481). -/
def stageLedger (env : StageEnv) (s : State) : StageEnd :=
  let s := if env.ledgerGood = 1 then fltPost 0x0B 1 noUnit noUnit 0 0 0 s else s
  let s := if env.ledgerGood = 0 then
      let (v, s) := s.draw
      fltPost 0x0B 2 noUnit noUnit 0 0 0 { s with
        flash := s.flash.rewrite (s.flash.repairs.take (v % (s.flash.repairs.length + 1)))
        start := { s.start with ledgerBad := true } }
    else s
  let s := if compactAt < s.flash.repairs.length then { s with flash := s.flash.compact } else s
  (stageDone (extendMr 3 s.flash.chain (readHome s)), none)

/-! ### Stages TILES and HINGES -/

/-- A ledger record of a type for a tile, as (unit, data). -/
def Flash.recorded (f : Flash) (type tile : Nat) : List (Nat × Nat) :=
  (f.repairs.filter (fun r => r.type == type && r.tile == tile)).map (fun r => (r.unit, r.data))

/-- The core-rail set point of a tile, in mV; none beyond 860 mV (14 R438). -/
def setPoint (vmin : Nat) : Option Nat := if vmin + 60 ≤ 860 then some (max 620 (vmin + 60)) else none

/-- Rows of a sill that the ledger records last as failing, each with the number of its replacements. -/
def Flash.failingRows (f : Flash) (n : Nat) : List ((Nat × Nat) × Nat) :=
  let fails (r : Nat × Nat) : Bool :=
    ((f.repairs.filter (fun x => (x.type == 0x0F || x.type == 0x10) && x.tile == n && (x.unit, x.data) == r)).getLast?).any
      (fun x => x.type == 0x0F)
  ((f.recorded 0x0F n).eraseDups.filter fails).map (fun r => (r, (f.recorded 0x10 n).count r))

/-- A failing Sill row that a spare row can replace is replaced; a frame with another failing row stays retired (09 R321). -/
def sillRepair (n : Nat) (s : State) : State :=
  (s.flash.failingRows n).foldl (fun s r =>
    if Config.sillSpare n r.1.1 r.1.2 r.2 then appendRepair 0x10 n r.1.1 r.1.2 s
    else s.updSill n (fun k => { k with retired := insertNat r.1.1 k.retired })) s

/-- A tile that stage TILES brings up: its rails, revisions, features, withdrawn units and Sill frames. One withdrawn before serves as
memory only (13 R431), unless heat alone withdrew it, which lasts until the next start (14 R451; log 104). -/
def bringTile (env : StageEnv) (n : Nat) (s : State) : State :=
  let vmin := s.flash.vmin.getD n 0
  if !s.powered (.tile n) || !bit env.tilesUp n || !s.variant.hasTile n then s
  else match setPoint vmin with
    | none => s
    | some mv =>
      let gone := (s.flash.recorded 7 n).any (fun r => r.2 != 2)
      let s := s.updTile n (fun x => { x with
        memory := true, inService := !gone, withdrawn := gone, proxied := (s.flash.recorded 7 n).any (fun r => r.2 == 3)
        feats := env.tileFeats.getD n 0 &&& s.variant.feat
        dieRev := env.dieRev / 16 ^ n % 16, sillRev := env.sillRev / 16 ^ n % 16
        badCores := (s.flash.recorded 2 n).foldl (fun l r => insertNat r.1 l) []
        badUcores := (s.flash.recorded 4 n).foldl (fun l r => insertNat r.1 l) [] })
      sillRepair n (s.updTpower n (fun x => { x with setMv := mv, vminMv := vmin }))

/-- Stage TILES. -/
def stageTiles (env : StageEnv) (s : State) : StageEnd := (stageDone ((upTo 8).foldl (fun s n => bringTile env n s) s), none)

/-- The failed lanes of an edge that the ledger records, with the spare each took last. -/
def Flash.lanesOf (f : Flash) (e : Nat) : List LaneFail :=
  (f.repairs.filter (fun r => r.type == 5 && r.unit == e)).foldl (fun l r =>
    let lane := bits r.data 9 0
    let dir := bits r.data 10 10
    let sp := bits r.data 26 16
    let x : LaneFail := { dir, lane, spare := if sp = 0x7FF then none else some sp, met := true }
    l.filter (fun h => !(h.dir == dir && h.lane == lane)) ++ [x]) []

/-- The ledger records the edge as out of service. -/
def Flash.edgeGone (f : Flash) (e : Nat) : Bool := f.repairs.any (fun r => r.type == 6 && r.unit == e && r.data == 0)

/-- A die of an edge is up. -/
def State.dieUp (s : State) : Die → Bool
  | .tile n => (s.tile n).memory
  | .io 0 => true
  | .io _ => s.powered .io1

/-- Train an edge: capability words, the lanes that the ledger records with their spares, spares for those that have none yet, width
and roles (13 R422 to R427). -/
def trainEdge (env : StageEnv) (e : Nat) (s : State) : State :=
  match edgeEnds s.variant e with
  | none => s
  | some (a, b) =>
    let lanes := s.flash.lanesOf e
    let s := s.updEdge e (fun x =>
      { x.present (env.hinges.getD e ⟨0xFF, 0, 0⟩) with state := .training, lanes, failedCount := min 255 lanes.length })
    if !(s.dieUp a && s.dieUp b && (s.edge e).hasMode) || s.flash.edgeGone e then s.updEdge e Edge.stop
    else
      let s := assignSpares e s
      match (s.edge e).width e with
      | some w => s.updEdge e (fun x => x.run e w s.start.image.plan)
      | none => s

/-- An edge that could not form its narrowest width is out of service, and a tile of it is withdrawn (13 R428). -/
def settleTrained (env : StageEnv) (e : Nat) (s : State) : State :=
  if (s.edge e).state == .training then edgeFails e (env.hinges.getD e ⟨0xFF, 0, 0⟩).blamed s else s

/-- Stage HINGES. -/
def stageHinges (env : StageEnv) (s : State) : StageEnd :=
  if !planValid s.start.image.plan then (s, some (4, 0))
  else
    let s := (upTo 14).foldl (fun s e => trainEdge env e s) s
    let s := (upTo 14).foldl (fun s e => settleTrained env e s) s
    if !(s.edge 10).alive && !(s.edge 11).alive then (s, some (6, 0))
    else (stageDone (dropUnreached s), none)

/-! ### Stage HBM (10 R336, R337, R339, R341, R350, R351) -/

/-- Post-package repair of one scheduled row; a row repaired before, or one whose bank has no resources left, which is free,
retires its device granule. -/
def repairRow (s : State) (f : RowId × Nat) : State :=
  let r := f.1
  let d := f.2
  let (v, s) := s.draw
  let h := { s.home with failing := s.home.failing.filter (fun g => g != f) }
  if h.repaired.contains r || v % 2 = 1 then
    appendRepair 0x0B r.stack 0 d { s with home := { h with retired := insertNat d h.retired } }
  else appendRepair 0x0A r.stack r.pc (r.bank + 256 * r.row) { s with home := { h with repaired := h.repaired ++ [r] } }

/-- A granule that waited for repair returns to the pool once none of its rows is scheduled any more, unless it is retired. -/
def settleRepaired (s : State) (d : Nat) : State :=
  if s.home.failing.any (fun f => f.2 == d) then s
  else
    let h := { s.home with waiting := s.home.waiting.filter (fun x => x != d) }
    { s with home := if h.retired.contains d then h else h.give d (s.granuleInPool d) }

/-- The lanes of a stack that failed the test of this training. -/
def trainedLanes (env : StageEnv) (n : Nat) : List HbmLane :=
  (env.hbmLanes.filter (fun l => l.1 == n)).map (fun l => ⟨l.2.1, l.2.2.1, l.2.2.2⟩)

/-- The stacks that trained, with their lanes, their refresh rate and the pseudo-channels that the ledger records as mapped out or
degrading. A stack above 105 °C is shut down (10 R333, R339, R351). -/
def bringStack (env : StageEnv) (n : Nat) (s : State) : State :=
  if !s.variant.hasTile n || !(s.tile n).memory || !bit env.stacksUp n then s
  else
    let temp : Int := (env.stackTemp / 256 ^ n % 256 : Nat)
    let r := refreshUp temp
    let s := s.updStack n (fun k => { k with inService := r != 3, refresh := r, temp, lanes := trainedLanes env n, trainedAt := s.now, trainedTemp := temp })
    let s := if r = 3 then powerEvent 6 n temp.toNat 105 s else s
    let s := (s.flash.recorded 0x0E n).foldl (fun s r => s.updPc n r.1 (fun q => { q with state := .degrading })) s
    match s.home.journals.find? (fun j => j.1 == n) with
    | some j =>
      let s := s.updStack n (fun k => { k with mapPc := some j.2.1, mapState := 4 })
      s.updPc n j.2.1 (fun q => { q with state := .mappedOut })
    | none => s

/-- Pseudo-channels of a stack with a failed lane that no spare replaces (10 R339). -/
def Stack.unspared (k : Stack) : List Nat := ((k.lanes.filter (fun l => l.spare.isNone)).map (fun l => l.pc)).eraseDups

/-- Pseudo-channels whose lanes have no spare left are degrading (10 R344). -/
def degradeUnspared (s : State) : State :=
  (upTo 8).foldl (fun s n => (s.stack n).unspared.foldl (fun s p =>
    if (s.stack n).inService && (s.pc n p).state == .inService then degrade n p s else s) s) s

/-- The lines of home granule `g` read uncorrectable. -/
def poisonGranule (g : Nat) (s : State) : State :=
  let lo := g * 2 ^ 21
  let hi := lo + 2 ^ 21
  { s with poison := s.poison.filter (fun l => decide (l < lo)) ++ (upTo 32768).map (fun i => lo + 64 * i)
              ++ s.poison.filter (fun l => decide (hi ≤ l)) }

/-- The granules that were being moved at a warm reset read uncorrectable where they hold home lines (10 R350). -/
def poisonLost (s : State) : State :=
  s.home.lost.foldl (fun s d => match s.homeGranule d with
    | some g => poisonGranule g s
    | none => s) { s with home := { s.home with lost := [] } }

/-- An open map-out journal is completed before home memory is offered. -/
def finishJournals (s : State) : State :=
  (s.home.journals.filter (fun j => !j.2.2)).foldl (fun s j =>
    let s := appendRepair 0x0D j.1 j.2.1 0 s
    let s := { s with home := { s.home with journals := s.home.journals.map (fun k => if k == j then (j.1, j.2.1, true) else k) } }
    fltPost 3 5 j.1 noUnit 0 j.2.1 4 s) s

/-- A map-out that the pool could not take is journaled at the start, where a cold start has no home granule to move (10 R345); of several
degrading pseudo-channels of a stack the one that the ledger records first (DESIGN CHOICE, log 122). -/
def journalWaiting (s : State) : State :=
  s.variant.positions.foldl (fun s n =>
    match (s.flash.recorded 0x0E n).head? with
    | none => s
    | some r =>
      if s.home.journals.any (fun j => j.1 == n) || (s.start.warm && !s.poolTakes n r.1) then s
      else memoryEvent 5 n r.1 1 0
        (appendRepair 0x0C n r.1 0 { s with home := { s.home with journals := s.home.journals ++ [(n, r.1, false)] } })) s

/-- The end of the pool granules that the assignment of 10 R337 gives to home granules. -/
def State.poolBuilt (s : State) : Nat :=
  if s.home.granules = 0 then 0
  else
    let d := s.built (s.home.granules - 1)
    if s.variant.pool0 ≤ d then d + 1 else 0

/-- At a warm start home granules leave device granules that are retired or withdrawn, as spill granules do (10 R341, R347). -/
def leaveGranules (s : State) : State :=
  let out (s : State) (g : Nat) : Bool := s.onWithdrawn g || s.home.retired.contains (s.deviceGranule g)
  let gs := if s.journaled || !s.home.retired.isEmpty then upTo s.home.granules else []
  (gs.foldl (fun s g => if out s g then s.moveGranule g else s) s).clearSpill

/-- Home granules that a warm start no longer offers: their device granules join the pool (10 R347). -/
def dropGranules (u : Nat) (s : State) : State :=
  ((upTo s.home.granules).drop u).foldl (fun s g =>
    let d := s.deviceGranule g
    let h := { s.home with remap := Table.put 0 s.home.remap g 0 }
    { s with home := if s.home.retired.contains d || (s.journaled && s.variant.withdraws d) then h else h.give d (s.granuleInPool d) }) s

/-- The home granules offered: what the last start left, of which a lower U drops the last, or at a cold start a new assignment. -/
def offerHome (s : State) : State :=
  let all := s.variant.positions.all (fun n => (s.stack n).inService)
  let u := if all then s.nextGranules else 0
  if s.start.warm then
    let s := if all then dropGranules u (leaveGranules s) else s
    let s := finishJournals s
    { s with home := { s.home with granules := u } }
  else
    let s := finishJournals { s with home := { s.home with granules := u } }
    let s := { s with home := { s.home with builtRetired := s.home.retired, builtWithdrawn := s.journaled, builtEnd := 0 } }
    let s := { s with home := { s.home with builtEnd := s.poolBuilt } }
    s.clearSpill

/-- A device granule holds a home or a spill granule. -/
def State.granuleInUse (s : State) (d : Nat) : Bool := (s.homeGranule d).isSome || (s.spillAt (d * 2 ^ 21)).isSome

/-- Post-package repair of every scheduled row; at a warm start, of those whose device granule holds no home or spill granule, the others
waiting for the next cold start (10 R341; 15 R468). -/
def repairRows (s : State) : State :=
  let s := (s.home.failing.filter (fun f => !s.start.warm || !s.granuleInUse f.2)).foldl repairRow s
  s.home.waiting.foldl settleRepaired s

/-- Stage HBM. A warm start finds the home granules that the last one offered. -/
def stageHbm (env : StageEnv) (s : State) : StageEnd :=
  let s := if s.start.warm then poisonLost { s with home := { s.home with granules := s.home.kept } } else s
  let s := journalWaiting (repairRows s)
  let s := (upTo 8).foldl (fun s n => bringStack env n s) s
  (stageDone (degradeUnspared (offerHome s)), none)

/-! ### Stages CORES, LINKS and READY -/

/-- The physical core that carries a logical number by the ledger: the last spare brought in for it, or the core of that number. -/
def Flash.physOf (f : Flash) (type2 : Bool) (t c : Nat) : Nat :=
  (((f.recorded 3 t).filter (fun r => bits r.2 15 0 == c && bit r.2 16 == type2)).getLast?.map (fun r => r.1)).getD c

/-- Stage CORES, matrix cores of a tile: cores failing their test are recorded, the spares among them first. -/
def bringCores (bad : List Nat) (t : Nat) (s : State) : State :=
  let limit := s.limitOf t
  let s := (upTo 64).foldl (fun s c =>
    let p := s.flash.physOf false t c
    s.setCore t c { phys := p, inService := !(s.tile t).badCores.contains p, limit, target := limit }) s
  let used := s.physUsed t
  let spares := bad.filter (fun p => !used.contains p && decide (p < 72) && !(s.tile t).badCores.contains p)
  let s := spares.foldl (fun s p => appendRepair 2 t p 4 (s.updTile t (fun x => { x with badCores := insertNat p x.badCores }))) s
  (upTo 64).foldl (fun s c =>
    if (s.core t c).inService && bad.contains (s.core t c).phys then withdrawCore t c 4 s
    else if !(s.core t c).inService then
      match s.spareCore t with
      | some p => appendRepair 3 t p c (s.updCore t c (fun k => { k with phys := p, inService := true }))
      | none => s
    else s) s

/-- The lowest-numbered spare Ultur core of a tile. -/
def State.spareUcore (s : State) (t : Nat) : Option Nat :=
  let used := ((upTo 8).filter (fun u => (s.ucore t u).inService)).map (fun u => (s.ucore t u).phys)
  (upTo 10).find? (fun p => decide (8 ≤ p) && !(s.tile t).badUcores.contains p && !used.contains p)

/-- Stage CORES, Ultur cores of a tile. The cause of a withdrawal by test is free: the spec numbers causes for matrix cores only. -/
def bringUcores (bad : List Nat) (t : Nat) (s : State) : State :=
  let fresh := bad.filter (fun p => decide (p < 10) && !(s.tile t).badUcores.contains p)
  let s := fresh.foldl (fun s p =>
    let (v, s) := s.draw
    appendRepair 4 t p (v % 256) (s.updTile t (fun x => { x with badUcores := insertNat p x.badUcores }))) s
  let s := (upTo 8).foldl (fun s u =>
    let p := s.flash.physOf true t u
    s.updUcore t u (fun x => { x with phys := p, inService := !(s.tile t).badUcores.contains p })) s
  (upTo 8).foldl (fun s u =>
    if (s.ucore t u).inService then s
    else match s.spareUcore t with
      | some p => appendRepair 3 t p (u + 2 ^ 16) (s.updUcore t u (fun x => { x with phys := p, inService := true }))
      | none => s) s

/-- Stage CORES: cores tested, spares brought in, failures posted with a test bit that is free, capability blocks written and measured. After
neither ledger copy was good it runs tests 4 to 6 too (15 R464, R480). -/
def stageCores (env : StageEnv) (s : State) : StageEnd :=
  let badOf (l : List (Nat × Nat)) (t : Nat) : List Nat := (l.filter (fun e => e.1 == t)).map (fun e => e.2)
  let up := s.tilesUp
  let s := up.foldl (fun s t => bringUcores (badOf env.ucoresBad t) t (bringCores (badOf env.coresBad t) t s)) s
  let s := (env.coresBad.filter (fun e => up.contains e.1 && decide (e.2 < 72))).foldl (fun s e =>
    let (v, s) := s.draw
    postFailed (v % 4) e.1 e.2 s) s
  let s := (env.ucoresBad.filter (fun e => up.contains e.1 && decide (e.2 < 10))).foldl (fun s e => postFailed 8 e.1 e.2 s) s
  if up.isEmpty then (s, some (5, 0))
  else
    let s := startTests 0x70 env.found (withCap (fun s => { s with capLive := true }) s)
    (stageDone (extendMr 4 (sm3 s.packageCap) s), none)

/-- A link as stage LINKS enables it, with the failed wavelengths and fences that the ledger records (12 R389; 11 R373). -/
def bringLink (k : Nat) (s : State) : State :=
  if !s.variant.hasLink k then s
  else
    let waves := (s.flash.repairs.filter (fun r => r.type == 8 && r.unit == k)).foldl (fun l r => insertNat (bits r.data 3 0) l) []
    let fenced := s.flash.repairs.any (fun r => r.type == 0x11 && r.unit == k && bits r.data 7 0 == unitKind (.link k))
    s.updLink k (fun l => { l with
      state := if (s.laser (k / 4)).present then .down else .disabled
      failed := waves, spareUsed := !waves.isEmpty, fenced, retryAt := s.now })

/-- Stage LINKS; after neither ledger copy was good, with test 7 at its end (15 R480). -/
def stageLinks (env : StageEnv) (s : State) : StageEnd :=
  let lasers (s : State) : State := (s.variant.positions.filter (fun n => s.variant.hasLink (4 * n))).foldl (fun s n =>
    s.updLaser n (fun m => { m with
      present := bit env.lasers n, ready := bit env.lasers n && s.powered (.laser n), sources := if bit env.lasers n then 0x1FF else 0 })) s
  (stageDone (startTests 0x80 env.found (withCap (fun s => (upTo 32).foldl (fun s k => bringLink k s) (lasers s)) s)), none)

/-- Stage READY: the entry is closed as a success, contexts are accepted, FAULT_N is released (16 R498), and a package without an I3C
address asks to join (12 R396). -/
def stageReady (env : StageEnv) (s : State) : StageEnd :=
  match env.firmwareBad with
  | some t => (s, some (0x0B, t))
  | none =>
    let s := closeStart 0 0 0 (stageDone s)
    let seq := (s.flash.newest.map (fun e => e.seq)).getD 0
    let s := { s with faultLow := false, start := { s.start with phase := .ready }, i3c := { s.i3c with hotJoin := s.i3c.dynamic.isNone } }
    (fltPost 1 1 3 noUnit 0 seq s.start.cause s, none)

/-! ### The commands of a start -/

/-- The current stage's work. -/
def runStage (env : StageEnv) (s : State) : StageEnd :=
  match s.start.stage with
  | 0 => stageRom env s
  | 1 => stageImage s
  | 2 => stageLedger env s
  | 3 => stageTiles env s
  | 4 => stageHinges env s
  | 5 => stageHbm env s
  | 6 => stageCores env s
  | 7 => stageLinks env s
  | _ => stageReady env s

/-- A start is running: I/O die 0 has power, and PKG_RESET_N is high. -/
def State.starting (s : State) : Bool := s.start.phase == .running && s.powered .io0 && !s.resetLow

/-- START_STAGE: the current stage completes its work, or fails the start. -/
def execStartStage (env : StageEnv) (s : State) : Host.Outcome State Fault Refusal :=
  if !s.starting then .next s
  else
    let r := runStage env s
    match r.2 with
    | none => .next r.1
    | some (reason, detail) => .next (stopPackage reason detail r.1)

/-- Bounds of the stages in ms (15 R464, R480). -/
def State.stageBound (s : State) : Nat :=
  let openJournal := s.home.journals.any (fun j => !j.2.2)
  match s.start.stage with
  | 0 => 50
  | 1 => 600
  | 2 => if compactAt < s.flash.repairs.length then 2500 else 200
  | 3 => 300
  | 4 => 100
  | 5 => if openJournal then 22000 else 2000
  | 6 => if s.start.ledgerBad then 1000 else 300
  | 7 => if s.start.ledgerBad then 40 else 20
  | _ => 100

/-- START_STAGE_TIMEOUT: a stage that exceeds its bound fails the start with reason 0x08. -/
def execStartStageTimeout (s : State) : Host.Outcome State Fault Refusal :=
  if !s.starting then .next s
  else
    let n := s.start.stage
    let s := advanceTo (s.start.since + s.stageBound * 1000000) s
    .next (stopPackage 8 n (if n = 0 then (openEntry s.start.cause 0xFC 0xFFFF (closeOpen s)) else s))

/-- The start that follows a stop; a CLEAR or an update while the package was stopped still counts (15 R471). -/
def retry (s : State) : State :=
  let r := (advanceTo s.start.retryAt s).restart false 6
  { r with start := { r.start with cleared := s.start.cleared, updated := s.start.updated } }

/-- START_RETRY: one second after a failed start or a package stop, with cause 6 (15 R467). -/
def execStartRetry (s : State) : Host.Outcome State Fault Refusal :=
  if s.start.phase == .stopped && s.powered .io0 && !s.resetLow then .next (retry s) else .next s

/-- WATCHDOG: the chief-steward watchdog expires and the package starts again with cause 4 (15 R469). -/
def execWatchdog (s : State) : Host.Outcome State Fault Refusal :=
  if (s.start.phase == .ready || s.start.phase == .running) && s.powered .io0 && !s.resetLow then .next (s.restart false 4) else .next s

/-- CLEAR: the base of SL_FAILS is 0 (15 R472). -/
def execClear (s : State) : Host.Outcome State Fault Refusal := .next { s with start := { s.start with cleared := true } }

/-- RESTART: in vestibule mode, closes its entry and starts cold with cause 5; ignored otherwise (15 R471, R489). -/
def execRestart (s : State) : Host.Outcome State Fault Refusal :=
  if s.start.phase == .vestibule then
    let before := s.flash.closedFails
    let fails := if s.start.cleared || s.start.updated then 0 else before
    .next ((closeStart 0x0C 0 fails s).restart false 5)
  else .next s

/-! ### Resets and supplies (14 R435 to R437; 15 R473; 16 R496) -/

/-- PKG_RESET: a low pulse on PKG_RESET_N. One under 1 µs is ignored, one of 10 µs or more is a pin reset, and between them
`taken` says. The package is held in reset until I/O die 0 leaves it (DOMAIN_POWER_GOOD). -/
def execPkgReset (lowNs : Nat) (taken : Bool) (s : State) : Host.Outcome State Fault Refusal :=
  if lowNs < 1000 ∨ (lowNs < 10000 ∧ taken = false) then .next s
  else .next { s.restart false 2 with resetLow := true }

/-- The variant has the domain. -/
def Variant.hasDomain (v : Variant) : Domain → Bool
  | .tile n => v.hasTile n
  | .laser n => v.hasLink (4 * n)
  | _ => true

/-- A laser module's supply has risen: the module is handled as an insertion (16 R504). -/
def laserPowered (n : Nat) (s : State) : State :=
  if (s.laser n).present && s.linksOn then
    (moduleLinks n).foldl (fun s k => wakeLink k s) (s.updLaser n (fun m => { m with ready := true }))
  else s

/-- DOMAIN_POWER_GOOD: the inputs of a domain have been good for 2 ms. With I/O die 0 a start begins: after a pin reset with
cause 2, after a loss of supply with cause 1. A domain lost in service stays in reset until the next start. -/
def execDomainPowerGood (d : Domain) (s : State) : Host.Outcome State Fault Refusal :=
  if !s.variant.hasDomain d || s.domains.any (fun x => x.dom == d && x.lost) then .next s
  else match d with
    | .io0 =>
      if s.resetLow then .next { (setDomain .io0 true false s) with resetLow := false, taps := s.taps.map Tap.released }
      else if s.powered .io0 then .next s
      else .next ((setDomain .io0 true false s).restart false 1)
    | .laser n => .next (laserPowered n (withCap (setDomain d true false) s))
    | _ => .next (withCap (setDomain d true false) s)

/-- A laser module loses its supply, as a module removed without draining (14 R437). -/
def laserLost (n : Nat) (s : State) : State :=
  let s := s.updLaser n (fun m => { m with ready := false, drained := false })
  (moduleLinks n).foldl (fun s k =>
    (stopLink k (if (s.link k).state == .disabled then .disabled else .down) s).updLink k (fun l => { l with lastFlit := s.now })) s

/-- DOMAIN_LOST: a domain's input has been low for 10 µs. -/
def execDomainLost (d : Domain) (s : State) : Host.Outcome State Fault Refusal :=
  if !s.powered d then .next s
  else match d with
    | .io0 => .next (setDomain .io0 false false (match s.start.phase with
        | .ready => tearClose (packageStop 2 s)
        | .stopped => s
        | _ => supplyGone s))
    | .tile n => .next (powerEvent 7 n 0 0 (tileLost n (withCap (setDomain d false true) s)))
    | .io1 => .next (powerEvent 7 noUnit 0 0 (ioDie1Off (setDomain d false true s)))
    | .laser n => .next (powerEvent 7 noUnit 0 0 (laserLost n (withCap (setDomain d false true) s)))

end Sys2Proof.Machine
end

