-- ==== Sys2Proof/Machine/Security.lean ====
section
/-! DEFINITION. Firmware update, measurement, attestation and the FLT head (15 R461 to R463, R482, R483, R488). -/

namespace Sys2Proof.Machine

/-! ### Firmware update (15 R482, R483) -/

/-- The source of an update is backed; in vestibule mode it lies in port 0's aperture. -/
def State.fwSourceOk (s : State) : Bool :=
  let vest := match regionOf s.start.fwSrc with
    | .aperture 0 _ => true
    | _ => s.start.phase != .vestibule
  vest && decide (1 ≤ s.start.fwLen) && decide (s.start.fwLen ≤ 16777216) && s.backed s.start.fwSrc s.start.fwLen

/-- SEC_FW_CTRL.RESULT of an update that does not begin. -/
def State.fwResult (s : State) (img : ImageView) : Option Nat :=
  if s.start.fwBusy then some 5
  else if !s.fwSourceOk || !img.readable then some 3
  else if !img.sigOk then some 1
  else if img.version < s.flash.bank.highest then some 2
  else none

/-- FW_UPDATE_START: the image is checked before anything is written; then the other bank is erased. -/
def execFwUpdateStart (img : ImageView) (s : State) : Host.Outcome State Fault Refusal :=
  match s.fwResult img with
  | some r => .next { s with start := { s.start with fwResult := r } }
  | none => .next { s with
      start := { s.start with fwBusy := true, fwImage := img }
      flash := s.flash.setInactive ⟨false, false, 0, [], [], []⟩ }

/-- FW_UPDATE_DONE: the bank is written and read back, and becomes the trial bank. -/
def execFwUpdateDone (ok : Bool) (s : State) : Host.Outcome State Fault Refusal :=
  if !s.start.fwBusy then .next s
  else if !ok then .next { s with start := { s.start with fwBusy := false, fwResult := 4 } }
  else
    let f := s.flash.setInactive s.start.fwImage
    let b := f.bank.asTrial
    .next { s with start := { s.start with fwBusy := false, fwResult := 0, updated := true }, flash := f.setBank b }

/-- COMMIT: during a trial start, the trial bank becomes the active bank and its version the highest accepted. -/
def execCommit (s : State) : Host.Outcome State Fault Refusal :=
  let b := s.flash.bank
  if s.start.trial && b.trial && b.tried && !b.committed then
    let b := { b with activeB := !b.activeB, committed := true, highest := max b.highest s.start.image.version, count := (b.count + 1) % 2 ^ 32 }
    .next { s with flash := s.flash.setBank b }
  else .next s

/-- MR_EXTEND: a write to SEC_MR_EXT_CTRL extends MR5 to MR7 with the digest in SEC_MR_EXT. -/
def execMrExtend (value : Word) (s : State) : Host.Outcome State Fault Refusal :=
  let i := bits value.toNat 1 0
  if bit value.toNat 8 && decide (i < 3) then .next (extendMr (5 + i) s.start.mrExt s) else .next s

/-! ### Attestation (15 R462, R463) -/

/-- SL_SEQ of the current start. -/
def State.startSeq (s : State) : Nat := (s.flash.newest.map (fun e => e.seq)).getD 0

/-- Bytes 0x000 to 0x17F of an attestation report. -/
def reportBytes (s : State) (nonce : Nat) : List Byte :=
  let flags := flagAt s.start.bankB 0 + flagAt s.start.trial 1 + flagAt s.start.warm 2 + flagAt s.time.cls.ok 3
  bytesOfNat 2 1 ++ bytesOfNat 1 s.variant.part ++ bytesOfNat 1 flags ++ bytesOfNat 4 s.startSeq ++ bytesOfNat 8 nonce
    ++ bytesOfNat 8 s.gang.nonce ++ bytesOfNat 8 s.now ++ bytesOfNat 2 s.fabricField ++ bytesOfNat 2 s.start.image.version
    ++ bytesOfNat 28 0 ++ s.start.mrs.flatten ++ s.flash.chain ++ sm3 s.packageCap

/-- The ranks of a gang context's members in order of address, or this package alone (11 R355). -/
def State.secMembers (s : State) (c : Ctx) : List (Option Nat) :=
  if c.desc.kind = 4 then (s.gangMembers c.desc.index).map some else [s.gang.addr]

/-- Write the members' outputs at 2,048-byte boundaries; what another member writes is free. -/
def writeOutputs (id : CmdId) (seg base : Nat) (self : Option Nat) (own : List Byte) (len : State → Nat × State) :
    List (Option Nat) → Nat → Nat → State → State × CmdResult
  | [], _, total, s => (s, ⟨sOk, 0, total, 0⟩)
  | m :: ms, k, total, s =>
    let (n, s) := if m == self then (own.length, s) else len s
    let (bs, s) := if m == self then (own, s) else s.freeBytes n
    match s.writeMem (base + 2048 * k) bs with
    | .error e => accessFault id seg (base + 2048 * k) e (s.accessEnds e (base + 2048 * k) 0)
    | .ok s => writeOutputs id seg base self own len ms (k + 1) (total + n) s

/-- SEC_ATTEST: the report, signed by the identity key; the signature is free. -/
def execSecAttest (id : CmdId) (s : State) : Host.Outcome State Fault Refusal :=
  runCmd id 0x2C01 s (fun e s =>
    let r := e.region
    let (sig, s) := s.freeBytes 64
    let own := reportBytes s (fieldOf e.pkt 0x30 8) ++ sig
    writeOutputs id r.seg ((e.seg r.seg).base + r.off) s.gang.addr own (fun s => (448, s)) (s.secMembers (s.ctx id.ctx)) 0 0 s)

/-- SEC_CERT: the identity certificate. -/
def execSecCert (id : CmdId) (s : State) : Host.Outcome State Fault Refusal :=
  runCmd id 0x2C02 s (fun e s =>
    let r := e.region
    let len (s : State) : Nat × State := (s.draw.1 % 2049, s.draw.2)
    writeOutputs id r.seg ((e.seg r.seg).base + r.off) s.gang.addr s.flash.cert len (s.secMembers (s.ctx id.ctx)) 0 0 s)

/-! ### The FLT head (15 R488) -/

/-- FLT_HEAD_WRITE: software has consumed records, and held ones take the room. -/
def execFltHeadWrite (value : Word) (s : State) : Host.Outcome State Fault Refusal :=
  let s := { s with flt := { s.flt with head := value.setWidth 32 } }
  .next (fltDrainHeld s.flt.held.length s)

end Sys2Proof.Machine
end

