-- ==== Sys2Proof/Machine/Registers.lean ====
section
/-! DEFINITION. The Shutter space (03 R92 to R94; 00 R6, R14 to R16): what each register reads as, what a read clears, and what a
write does. Registers are 8 bytes; an access of 4 bytes reaches one half. -/

namespace Sys2Proof.Machine

/-! ### Fields -/

/-- The bits of `old` outside the mask, and those of `v` inside it. -/
def merge (old mask v : Nat) : Nat := (old ^^^ (old &&& mask)) ||| (v &&& mask)

/-- A RW field after a write: a value outside its range leaves it unchanged. -/
def rwField (old hi lo mask v : Nat) (ok : Nat → Bool) : Nat :=
  let n := bits (merge (old * 2 ^ lo) mask v) hi lo
  if ok n then n else old

/-- A field that takes any value. -/
def anyValue (_ : Nat) : Bool := true

/-- The access touches some bit of a field. -/
def touches (mask hi lo : Nat) : Bool := bits mask hi lo != 0

/-- The eight bytes at an offset of a block of bytes. -/
def word8 (bs : List Byte) (o : Nat) : Nat := fieldOf bs o 8

/-! ### SYS (02, 03 R126, 04 R154, 11, 15) -/

/-- The gang registers (12); on the F8L they read as zero. -/
def gangRead (s : State) (o : Nat) : Nat :=
  let g := s.gang
  if !s.variant.gangs then 0
  else if 0xD00 ≤ o ∧ o < 0xD80 then word8 g.rx (o - 0xD00)
  else match o with
    | 0xC00 => g.addr.getD 0 + flagAt g.addr.isSome 15 + (g.levels.filter (fun l => l.formed)).length * 2 ^ 16
    | 0xC08 => g.nonce
    | 0xC10 => flagAt g.busy 1 + flagAt g.rxValid 2 + g.result * 2 ^ 8
    | 0xC28 => Table.get 0 g.routes g.routeSel
    | _ => 0

/-- Change the gang registers. -/
def State.setGang (s : State) (f : Gang → Gang) : State := { s with gang := f s.gang }

/-- A write to a gang register; the answer to a message that SEND sends is free. -/
def gangWrite (o mask v : Nat) (s : State) : State :=
  if !s.variant.gangs then s
  else if 0xC80 ≤ o ∧ o < 0xD00 then
    let i := o - 0xC80
    let w := merge (word8 s.gang.tx i) mask v
    s.setGang (fun g => { g with tx := g.tx.take i ++ bytesOfNat 8 w ++ g.tx.drop (i + 8) })
  else if o = 0xC20 ∧ touches mask 14 0 then s.setGang (fun g => { g with routeSel := rwField g.routeSel 14 0 mask v anyValue })
  else if o = 0xC10 then
    let s := s.setGang (fun g => { g with rxValid := g.rxValid && !bit v 2 })
    if bit v 0 then
      let (a, s) := s.draw
      after s (execGangSend (a % 7) s)
    else s
  else s

/-- SYS registers. -/
def sysRead (s : State) (o : Nat) : Nat :=
  if 0x100 ≤ o ∧ o < 0x200 then word8 s.packageCap (o - 0x100)
  else if 0x400 ≤ o ∧ o < 0x700 then word8 (s.gangCap (o / 0x100 - 3)) (o % 0x100)
  else if 0xC00 ≤ o ∧ o < 0x1000 then gangRead s o
  else if 0x1000 ≤ o ∧ o < 0x1080 then Table.get 0 s.privs ((o - 0x1000) / 8)
  else match o with
    | 0x800 => s.ctxTable
    | 0x810 => s.ctxStat
    | 0x900 => s.cplTimeout
    | 0xA00 => s.redCfg
    | 0xA08 => s.redChecked.toNat + s.redMismatch * 2 ^ 32 + s.redFenced * 2 ^ 48
    | 0xB00 => s.stCtrl
    | 0xB08 => s.stFailed + s.stNotRun * 2 ^ 16
    | _ => 0

/-- A write to SYS_CTX_CMD. The operations 0 and 4 to 7 perform no action: SYS_CTX_STAT names them with RESULT 0. -/
def ctxCmd (v : Nat) (s : State) : State :=
  let n := bits v 9 0
  match bits v 18 16 with
  | 1 => after s (execEnable n s)
  | 2 => after s (execDisable n s)
  | 3 => after s (execTerminate n s)
  | op => if ctxCmdIgnored s then s else setCtxStat n op 0 false s

/-- The bits of SYS_CTX_TABLE that hold something. -/
def ctxTableMask : Nat := 0x00FFFFFFFFF00001

/-- A write to a SYS register. -/
def sysWrite (o mask v : Nat) (s : State) : State :=
  if 0xC00 ≤ o ∧ o < 0x1000 then gangWrite o mask v s
  else if 0x1000 ≤ o ∧ o < 0x1080 then { s with privs := Table.upd 0 s.privs ((o - 0x1000) / 8) (fun x => merge x mask v) }
  else match o with
    | 0x800 => { s with ctxTable := merge s.ctxTable mask v &&& ctxTableMask }
    | 0x808 => if touches mask 18 0 then ctxCmd v s else s
    | 0x900 => { s with cplTimeout := rwField s.cplTimeout 19 0 mask v (fun x => decide (50 ≤ x) && decide (x ≤ 1000000)) }
    | 0xA00 => { s with redCfg := rwField s.redCfg 4 0 mask v (fun x => decide (x ≤ 16)) }
    | 0xB00 => { s with stCtrl := rwField s.stCtrl 13 0 mask v (fun x => decide (1 ≤ x) && decide (x ≤ 10000)) }
    | _ => s

/-- RC fields of SYS. -/
def sysClear (o mask : Nat) (s : State) : State :=
  match o with
  | 0xA08 => { s with redMismatch := if touches mask 47 32 then 0 else s.redMismatch
                      redFenced := if touches mask 55 48 then 0 else s.redFenced }
  | 0xB08 => { s with stFailed := if touches mask 10 0 then 0 else s.stFailed
                      stNotRun := if touches mask 26 16 then 0 else s.stNotRun }
  | _ => s

/-! ### TIM (12) -/

/-- TIM registers. -/
def timRead (s : State) (o : Nat) : Nat :=
  let t := s.time
  match o with
  | 0x00 => t.source + t.ptmPort * 2 ^ 2 + flagAt t.ppsFall 4 + t.priority * 2 ^ 8 + t.syncLog * 2 ^ 16
  | 0x08 => s.now % 2 ^ 64
  | 0x10 => t.cls.code + flagAt t.isSource 3 + flagAt t.ppsOk 4 + flagAt t.tenOk 5 + flagAt t.ptmOk 6 + flagAt t.ptpOk 7
      + t.srcAddr * 2 ^ 8 + min t.hops 3 * 2 ^ 24
  | 0x18 => t.offset.toNat + min s.errBoundNow (2 ^ 32 - 1) * 2 ^ 32
  | 0x20 => t.epoch
  | 0x30 => t.hold
  | 0x38 => t.ppsDelay
  | _ => 0

/-- A write to TIM_CTRL: in a gang, a new priority is a new candidacy (12 R404). -/
def timCtrlWrite (mask v : Nat) (s : State) : State :=
  let t := s.time
  let t' := { t with
    ptmPort := rwField t.ptmPort 3 2 mask v anyValue
    ppsFall := rwField (natOfBool t.ppsFall) 4 4 mask v anyValue == 1
    priority := rwField t.priority 15 8 mask v anyValue
    syncLog := rwField t.syncLog 19 16 mask v (fun x => decide (3 ≤ x) && decide (x ≤ 10)) }
  let s := { s with time := t' }
  if t'.priority ≠ t.priority ∧ s.outerLevel.isSome then chooseSource s else s

/-- A write to a TIM register. -/
def timWrite (o mask v : Nat) (s : State) : State :=
  let t := s.time
  match o with
  | 0x00 => timCtrlWrite mask v s
  | 0x20 => if touches mask 47 0 then after s (execTimEpochWrite (BitVec.ofNat 64 (rwField t.epoch 47 0 mask v anyValue)) s) else s
  | 0x28 => if touches mask 47 0 then { s with time := { t with tod := some (rwField (t.tod.getD 0) 47 0 mask v anyValue) } } else s
  | 0x30 => { s with time := { t with hold := rwField t.hold 19 0 mask v (fun x => decide (100 ≤ x) && decide (x ≤ 1000000)) } }
  | 0x38 => { s with time := { t with ppsDelay := rwField t.ppsDelay 15 0 mask v anyValue } }
  | _ => s

/-! ### PWR (14 R457) -/

/-- Registers of a tile in PWR. -/
def pwrTileRead (s : State) (n o : Nat) : Nat :=
  let x := s.tpower n
  if !s.variant.hasTile n then 0
  else match o with
    | 0x00 => min x.powerW 0xFFFF + x.lSill * 2 ^ 16 + x.lDie * 2 ^ 23 + flagAt x.guard 30 + flagAt x.heatOff 31
        + x.sillTemp * 2 ^ 32 + x.dieTemp * 2 ^ 40
    | 0x08 => x.setMv + x.vminMv * 2 ^ 10 + x.droop * 2 ^ 20
    | 0x10 => x.trips + x.droops * 2 ^ 16
    | _ => x.ilim

/-- PWR registers. Powers of 65,536 W or more read as the highest value. -/
def pwrRead (s : State) (o : Nat) : Nat :=
  let p := s.power
  let w (x : Nat) : Nat := min x 0xFFFF
  if 0x100 ≤ o ∧ o < 0x200 then pwrTileRead s ((o - 0x100) / 0x20) (o % 0x20)
  else match o with
    | 0x00 => p.limitW + p.windowS * 2 ^ 16
    | 0x08 => p.capW
    | 0x10 => p.forceW + w (p.powerMw / 1000) * 2 ^ 16 + p.lPwr * 2 ^ 32 + p.pace * 2 ^ 39 + flagAt p.excursion 46 + flagAt p.unmet 47
    | 0x18 => w p.lastS + w p.runW * 2 ^ 16 + w p.peakW * 2 ^ 32
    | 0x20 => p.energy / 100000 % 2 ^ 64
    | 0x28 => p.laserW
    | 0x30 => p.evt
    | _ => 0

/-- A write to a PWR register. -/
def pwrWrite (via : Via) (o mask v : Nat) (s : State) : State :=
  if 0x100 ≤ o ∧ o < 0x200 then
    let n := (o - 0x100) / 0x20
    if s.variant.hasTile n && decide (o % 0x20 = 0x18) then
      s.updTpower n (fun x => { x with ilim := rwField x.ilim 11 0 mask v (fun i => decide (400 ≤ i) && decide (i ≤ 720)) })
    else s
  else match o with
    | 0x00 => if touches mask 19 0 then after s (execPwrBmcCapWrite via offPwrLimit (BitVec.ofNat 64 v) s) else s
    | 0x08 => if touches mask 15 0 then after s (execPwrBmcCapWrite via offBmcCap (BitVec.ofNat 64 v) s) else s
    | 0x30 => { s with power := { s.power with evt := s.power.evt ^^^ (s.power.evt &&& v) } }
    | _ => s

/-- RC fields of PWR. -/
def pwrClear (o mask : Nat) (s : State) : State :=
  if 0x100 ≤ o ∧ o < 0x200 then
    s.updTpower ((o - 0x100) / 0x20) (fun x => match o % 0x20 with
      | 0x08 => { x with droop := if touches mask 29 20 then 0 else x.droop }
      | 0x10 => { x with trips := if touches mask 15 0 then 0 else x.trips, droops := if touches mask 31 16 then 0 else x.droops }
      | _ => x)
  else if o = 0x18 ∧ touches mask 47 32 then { s with power := { s.power with peakW := 0 } }
  else s

/-! ### TIER (09) and SEG (03 R107) -/

/-- Slots of sill `n` that hold placed pages, and those of pinned ones. -/
def State.residentSlots (s : State) (n : Nat) (pinned : Bool) : Nat :=
  ((s.pages.filter (fun e => e.2.placed && (!pinned || e.2.pin.isSome))).map
    (fun e => (e.2.slots.filter (fun x => x.sill == n)).length)).sum

/-- TIER registers. -/
def tierRead (s : State) (o : Nat) : Nat :=
  if 0x100 ≤ o ∧ o < 0x140 then
    let n := (o - 0x100) / 8
    if s.sillUp n then s.framesOf n + (s.claimed n).length * 2 ^ 16 + (s.sill n).retired.length * 2 ^ 32 else 0
  else if 0x200 ≤ o ∧ o < 0x240 then
    let n := (o - 0x200) / 8
    if s.sillUp n then s.freeSlots n + s.residentSlots n true * 2 ^ 20 + s.residentSlots n false * 2 ^ 40 else 0
  else if 0x1000 ≤ o ∧ o < 0x3000 then (s.ctx ((o - 0x1000) / 8)).quota
  else if 0x3000 ≤ o ∧ o < 0x5000 then
    let c := (o - 0x3000) / 8
    s.tierUse c + s.tierPins c * 2 ^ 19
  else match o with
    | 0x00 => s.tierCfg
    | 0x08 => s.sharedQuota
    | 0x10 => s.schedAhead
    | 0x18 => s.moved.toNat + s.freezeMax * 2 ^ 32 + s.forwarded * 2 ^ 48
    | _ => 0

/-- A write to TIER_CFG. -/
def tierCfgWrite (old mask v : Nat) : Nat :=
  let f (hi lo : Nat) (ok : Nat → Bool) : Nat := rwField (bits old hi lo) hi lo mask v ok * 2 ^ lo
  f 7 0 (fun x => x != 0) + f 15 8 anyValue + f 23 16 (fun x => decide (10 ≤ x)) + f 31 24 (fun x => x != 0)

/-- A write to TIER_SCHED_AHEAD. -/
def schedAheadWrite (old mask v : Nat) : Nat :=
  let f (hi lo : Nat) (ok : Nat → Bool) : Nat := rwField (bits old hi lo) hi lo mask v ok * 2 ^ lo
  f 3 0 (fun x => decide (1 ≤ x) && decide (x ≤ 8)) + f 23 8 (fun x => x != 0)

/-- A write to a TIER register. -/
def tierWrite (o mask v : Nat) (s : State) : State :=
  match o with
  | 0x00 => { s with tierCfg := tierCfgWrite s.tierCfg mask v }
  | 0x08 => { s with sharedQuota := rwField s.sharedQuota 18 0 mask v (fun x => decide (x ≤ 262144)) }
  | 0x10 => { s with schedAhead := schedAheadWrite s.schedAhead mask v }
  | _ => s

/-- RC fields of TIER. -/
def tierClear (o mask : Nat) (s : State) : State :=
  if o = 0x18 then
    { s with freezeMax := if touches mask 47 32 then 0 else s.freezeMax, forwarded := if touches mask 63 48 then 0 else s.forwarded }
  else s

/-- SEG registers. -/
def segRead (s : State) (o : Nat) : Nat :=
  if 0x2000 ≤ o ∧ o < 0x4000 then (s.ctx ((o - 0x2000) / 8)).gen.toNat
  else if 0x4000 ≤ o ∧ o < 0x6000 then (s.ctx ((o - 0x4000) / 8)).pend
  else 0

/-- A write to a SEG register: SEG_FAULT_PEND bits written 1 clear. -/
def segWrite (o v : Nat) (s : State) : State :=
  if 0x4000 ≤ o ∧ o < 0x6000 then s.updCtx ((o - 0x4000) / 8) (fun c => { c with pend := c.pend ^^^ (c.pend &&& v) }) else s

/-! ### FLT (15 R486, R488) -/

/-- FLT registers and the record ring. -/
def fltRead (s : State) (o : Nat) : Nat :=
  let f := s.flt
  if 0x10000 ≤ o ∧ o < 0x20000 then word8 (Table.get [] f.ring ((o - 0x10000) / 64)) (o % 64)
  else match o with
    | 0x00 => f.classEn
    | 0x08 => f.msiAddr
    | 0x10 => f.msiData
    | 0x18 => f.head.toNat
    | 0x20 => f.tail.toNat
    | 0x28 => f.lost + flagAt (!f.held.isEmpty) 16
    | _ => 0

/-- A write to an FLT register. -/
def fltWrite (o mask v : Nat) (s : State) : State :=
  let f := s.flt
  match o with
  | 0x00 => { s with flt := { f with classEn := rwField f.classEn 11 0 mask v anyValue } }
  | 0x08 => { s with flt := { f with msiAddr := rwField f.msiAddr 55 0 mask v anyValue } }
  | 0x10 => { s with flt := { f with msiData := rwField f.msiData 31 0 mask v anyValue } }
  | 0x18 => if touches mask 31 0 then after s (execFltHeadWrite (BitVec.ofNat 64 v) s) else s
  | _ => s

/-- RC fields of FLT. -/
def fltClear (o mask : Nat) (s : State) : State :=
  if o = 0x28 ∧ touches mask 15 0 then { s with flt := { s.flt with lost := 0 } } else s

/-! ### HBM (10 R352) -/

/-- Registers of stack `n`. -/
def hbmRead (s : State) (n o : Nat) : Nat :=
  let k := s.stack n
  if !s.variant.hasTile n then 0
  else if 0x100 ≤ o ∧ o < 0x300 then
    let p := k.pc ((o - 0x100) / 8)
    p.state.code + p.recals * 2 ^ 8 + p.ce * 2 ^ 16
  else match o with
    | 0x00 => 1 + flagAt k.inService 1 + k.refresh * 2 ^ 2 + flagAt k.mapPc.isSome 4 + k.mapPc.getD 0 * 2 ^ 5 + k.mapState * 2 ^ 11
        + unsigned 8 k.temp * 2 ^ 16
    | 0x08 => s.nextGranules + s.poolCount * 2 ^ 32
    | 0x10 => k.ce + k.ue * 2 ^ 16 + k.rowsFound * 2 ^ 24
    | 0x18 => k.ueAddr
    | 0x20 => k.done + k.total * 2 ^ 24 + k.pace * 2 ^ 48
    | 0x28 => k.capped + k.aged * 2 ^ 32
    | 0x30 => k.rdBytes.toNat
    | 0x38 => k.wrBytes.toNat
    | _ => 0

/-- A write to a register of a stack: the pace of a map-out. -/
def hbmWrite (n o mask v : Nat) (s : State) : State :=
  if s.variant.hasTile n && decide (o = 0x20) then
    s.updStack n (fun k => { k with pace := rwField k.pace 63 48 mask v (fun x => decide (10 ≤ x) && decide (x ≤ 10000)) })
  else s

/-- RC fields of a stack. -/
def hbmClear (n o mask : Nat) (s : State) : State :=
  let z (hi lo x : Nat) : Nat := if touches mask hi lo then 0 else x
  if !s.variant.hasTile n then s
  else if 0x100 ≤ o ∧ o < 0x300 then
    s.updPc n ((o - 0x100) / 8) (fun p => { p with recals := z 15 8 p.recals, ce := z 31 16 p.ce })
  else match o with
    | 0x10 => s.updStack n (fun k => { k with ce := z 15 0 k.ce, ue := z 23 16 k.ue, rowsFound := z 31 24 k.rowsFound })
    | 0x28 => s.updStack n (fun k => { k with capped := z 31 0 k.capped, aged := z 63 32 k.aged })
    | _ => s

/-! ### Tiles (06, 07 R249) -/

/-- SEQ_STAT.STATE. -/
def CoreState.code : CoreState → Nat
  | .idle => 0 | .running => 1 | .resuming => 2 | .stopping => 3

/-- SEQ_STAT of a core. While an instance is restored it shows as the running one (DESIGN CHOICE, log 119). -/
def Core.seqStat (k : Core) : Nat :=
  k.state.code + flagAt k.held.isSome 2 + ((k.run.map (fun i => i.cmd.ctx)).getD 0) * 2 ^ 4
    + ((k.held.map (fun i => i.cmd.ctx)).getD 0) * 2 ^ 16 + ((k.run.map (fun i => i.pc)).getD 0) * 2 ^ 32

/-- PANE_STAT of a core. -/
def Core.paneStat (k : Core) : Nat :=
  let sash := k.run.bind (fun i => i.sash)
  flagAt k.warm 0 + flagAt sash.isSome 1 + flagAt ((sash.map (fun p => p.dirty)).getD false) 2
    + flagAt ((k.run.map (fun i => i.shadowFull)).getD false) 3 + k.limit * 2 ^ 8 + ((sash.map (fun p => p.rows)).getD 0) * 2 ^ 16
    + ((k.run.map (fun i => i.queued .mx)).getD 0) * 2 ^ 24

/-- Registers of a core, by the block of registers that holds them. -/
def coreRead (s : State) (t c blk : Nat) : Nat :=
  let k := s.core t c
  if !s.coreLive t c then 0
  else match blk with
    | 0x1000 => k.seqStat
    | 0x2000 => k.lsCe + k.lsUe * 2 ^ 16 + k.lsUeAddr / 64 * 64 * 2 ^ 32
    | 0x3000 => k.spilledCount.toNat + k.restoredCount.toNat * 2 ^ 32
    | 0x4000 => natOfBool k.keepWarm + k.thresh * 2
    | 0x4200 => k.paneStat
    | 0x4400 => k.rows.toNat
    | 0x4600 => (k.dummyAt (k.cycle s.clk.ac)).toNat
    | _ => 0

/-- The block of core registers at an offset of a tile block, and the core. -/
def coreBlock (o : Nat) : Option (Nat × Nat) :=
  ([0x1000, 0x2000, 0x3000, 0x4000, 0x4200, 0x4400, 0x4600].find? (fun b => decide (b ≤ o) && decide (o < b + 0x200))).map
    (fun b => (b, (o - b) / 8))

/-- TILE_INFO. -/
def State.tileInfo (s : State) (n : Nat) : Nat :=
  let x := s.tile n
  n + flagAt x.inService 3 + x.dieRev * 2 ^ 8 + x.sillRev * 2 ^ 12 + s.coresOf n * 2 ^ 16

/-- Registers of tile `n`. -/
def tileRead (s : State) (n o : Nat) : Nat :=
  if !s.variant.hasTile n then 0
  else if o = 0 then s.tileInfo n
  else if 0x100 ≤ o ∧ o < 0x200 then word8 (s.tileCap n) (o - 0x100)
  else if 0x8000 ≤ o ∧ o < 0xC000 then word8 (s.coreCap n ((o - 0x8000) / 0x100)) (o % 0x100)
  else match coreBlock o with
    | some (b, c) => coreRead s n c b
    | none => 0

/-- A write to a tile block: PANE_IDLE (06). -/
def tileWrite (n o mask v : Nat) (s : State) : State :=
  match coreBlock o with
  | some (0x4000, c) =>
    let k := s.core n c
    if s.variant.hasTile n && s.coreLive n c then
      let warm := rwField (natOfBool k.keepWarm) 0 0 mask v anyValue == 1
      let thresh := rwField k.thresh 7 1 mask v (fun x => decide (1 ≤ x) && decide (x ≤ 64))
      s.setCore n c (k.setIdle warm thresh (k.cycle s.clk.ac))
    else s
  | _ => s

/-- RC fields of a tile block: LS_ERR (07). -/
def tileClear (n o mask : Nat) (s : State) : State :=
  match coreBlock o with
  | some (0x2000, c) =>
    if s.variant.hasTile n && s.coreLive n c then
      s.updCore n c (fun k => { k with lsCe := if touches mask 15 0 then 0 else k.lsCe, lsUe := if touches mask 23 16 then 0 else k.lsUe })
    else s
  | _ => s

/-! ### Links and laser modules (12) -/

/-- Registers of link `k`; the block of link 4n also holds those of laser module n. -/
def linkRead (s : State) (k o : Nat) : Nat :=
  let l := s.link k
  let m := s.laser (k / 4)
  if !s.variant.hasLink k then 0
  else match o with
    | 0x00 => l.stat
    | 0x08 => natOfBool l.enable
    | 0x10 => l.crcFail + l.replay * 2 ^ 16 + l.retrain * 2 ^ 32
    | 0x18 => l.fec.toNat
    | 0x20 => l.oneWay + l.asym.toNat * 2 ^ 32
    | 0x28 => l.peerId
    | 0x30 => l.tx.toNat
    | 0x38 => l.rx.toNat
    | 0x800 =>
      if k % 4 = 0 then flagAt m.present 0 + flagAt m.ready 1 + flagAt m.drained 2 + m.sources * 2 ^ 3 + m.temp * 2 ^ 16 else 0
    | 0x808 => if k % 4 = 0 then natOfBool m.drain else 0
    | _ => 0

/-- A write to LINK_CTRL: ENABLE first, then RETRAIN. -/
def linkCtrlWrite (k v : Nat) (s : State) : State :=
  let s := if (s.link k).enable == bit v 0 then s else after s (execLinkEnable k (bit v 0) s)
  if bit v 1 then after s (execLinkRetrain k s) else s

/-- A write to a link block. -/
def linkWrite (k o mask v : Nat) (s : State) : State :=
  if !s.variant.hasLink k then s
  else match o with
    | 0x08 => if touches mask 1 0 then linkCtrlWrite k v s else s
    | 0x20 => if touches mask 63 32 then s.updLink k (fun l => { l with asym := BitVec.ofNat 32 (rwField l.asym.toNat 63 32 mask v anyValue) }) else s
    | 0x808 =>
      if decide (k % 4 = 0) && touches mask 0 0 && (s.laser (k / 4)).drain != bit v 0 then after s (execLaserDrain (k / 4) (bit v 0) s) else s
    | _ => s

/-- RC fields of a link block: LINK_ERR. -/
def linkClear (k o mask : Nat) (s : State) : State :=
  let z (hi lo x : Nat) : Nat := if touches mask hi lo then 0 else x
  if s.variant.hasLink k && decide (o = 0x10) then
    s.updLink k (fun l => { l with crcFail := z 15 0 l.crcFail, replay := z 31 16 l.replay, retrain := z 39 32 l.retrain })
  else s

/-! ### Hinges (13 R433) -/

/-- HINGE_STAT.STATE. -/
def EdgeState.code : EdgeState → Nat
  | .absent => 0 | .training => 1 | .inService => 2 | .retraining => 3 | .out => 4

/-- Registers of edge `e`. -/
def hingeRead (s : State) (e o : Nat) : Nat :=
  let x := s.edge e
  if (edgeEnds s.variant e).isNone then 0
  else match o with
    | 0x00 => x.state.code + flagAt x.compat 3 + x.groups * 2 ^ 4 + x.sparesLeft e * 2 ^ 9 + x.mem * 2 ^ 16 + x.stream * 2 ^ 20
        + x.coh * 2 ^ 24
    | 0x08 => x.loc + x.peer * 2 ^ 16 + x.agreed * 2 ^ 32
    | 0x10 => x.corrected + x.replay * 2 ^ 16 + x.retrain * 2 ^ 32 + x.failedCount * 2 ^ 40
    | _ => 0

/-- A write to an edge's block: HINGE_CTRL.RETRAIN. -/
def hingeWrite (e o v : Nat) (s : State) : State :=
  if (edgeEnds s.variant e).isSome && decide (o = 0x18) && bit v 0 then after s (hingeCtrlWrite e s) else s

/-- RC fields of an edge's block: HINGE_ERR. -/
def hingeClear (e o mask : Nat) (s : State) : State :=
  let z (hi lo x : Nat) : Nat := if touches mask hi lo then 0 else x
  if (edgeEnds s.variant e).isSome && decide (o = 0x10) then
    s.updEdge e (fun x => { x with corrected := z 15 0 x.corrected, replay := z 31 16 x.replay, retrain := z 39 32 x.retrain })
  else s

/-! ### Host ports (12) -/

/-- Registers of port `p`. -/
def portRead (s : State) (p o : Nat) : Nat :=
  let q := s.port p
  match o with
  | 0x00 => flagAt q.linkUp 0 + q.speed * 2 + q.width * 2 ^ 4 + flagAt q.cxl 9 + flagAt q.hostDown 10 + flagAt q.ptmValid 11
  | 0x08 => q.base
  | 0x10 => q.size
  | 0x18 => flagAt q.evtDown 0 + flagAt q.evtRetrain 1 + flagAt q.evtFlr 2
  | _ => 0

/-- PCIE_APER_SIZE takes a multiple of 2 MiB up to 48 GiB. -/
def aperSizeOk (x : Nat) : Bool := decide (x % 2 ^ 21 = 0) && decide (x ≤ 0xC00000000)

/-- A write to a port's block. -/
def portWrite (p o mask v : Nat) (s : State) : State :=
  match o with
  | 0x08 => s.updPort p (fun q => { q with base := merge q.base mask v / 4096 * 4096 })
  | 0x10 => s.updPort p (fun q => { q with size := rwField q.size 35 0 mask v aperSizeOk })
  | 0x18 => after s (execPcieEvtWrite p (BitVec.ofNat 64 v) s)
  | _ => s

/-! ### SEC (15 R489) -/

/-- SL_REASON of a closed entry: one whose close was torn failed with reason 0x0A, whatever its fields read (15 R470). -/
def StartEntry.reasonRead (e : StartEntry) : Nat := if e.torn.isSome then 0x0A else e.reason

/-- The newest entry that closed as failed. -/
def Flash.newestFailed (f : Flash) : Option StartEntry := f.starts.find? (fun e => e.closed && e.reasonRead != 0 && e.reasonRead != 0x0C)

/-- SEC_START_STAT. -/
def State.startStat (s : State) : Nat :=
  let x := s.start
  let bad := s.flash.newestFailed
  (x.stage - 1) + flagAt (x.phase == .vestibule) 4 + flagAt x.bankB 5 + flagAt x.trial 6 + flagAt x.warm 7
    + ((bad.map (fun e => e.reasonRead)).getD 0) * 2 ^ 8 + ((bad.map (fun e => e.detail % 16)).getD 0) * 2 ^ 16
    + s.flash.closedFails * 2 ^ 20 + s.startSeq % 2 ^ 32 * 2 ^ 28

/-- SEC registers. -/
def secRead (s : State) (o : Nat) : Nat :=
  let x := s.start
  if 0x100 ≤ o ∧ o < 0x200 then word8 (x.mrs.getD ((o - 0x100) / 0x20) []) (o % 0x20)
  else if 0x400 ≤ o ∧ o < 0x600 then
    match s.flash.starts[(o - 0x400) / 0x20]? with
    | some e => word8 e.bytes (o % 0x20)
    | none => 0
  else match o with
    | 0x00 => s.startStat
    | 0x10 => x.fwSrc
    | 0x18 => x.fwLen
    | 0x20 => flagAt x.fwBusy 2 + x.fwResult * 2 ^ 3
    | _ => 0

/-- What the check of an image through registers finds: nothing the device holds says it, and it is free. -/
def freeImage (s : State) : ImageView × State :=
  let (a, s) := s.draw
  let (ver, s) := s.draw
  let (k, s) := s.draw
  let (d0, s) := s.freeBytes 32
  let (d1, s) := s.freeBytes 32
  let (d2, s) := s.freeBytes 32
  let (p, s) := s.draw
  let plan := (upTo 6).map (fun i => (bits p (15 * i + 4) (15 * i), bits p (15 * i + 9) (15 * i + 5), bits p (15 * i + 14) (15 * i + 10)))
  let keys := (upTo (a / 8 % 5)).map (fun i => (bits k (512 * i + 255) (512 * i), bits k (512 * i + 511) (512 * i + 256)))
  (⟨bit a 0, bit a 1, ver % 2 ^ 16, plan, keys, [d0, d1, d2]⟩, s)

/-- A write to SEC_FW_CTRL. -/
def fwCtrlWrite (v : Nat) (s : State) : State :=
  let s := if bit v 0 then
      let (img, s) := freeImage s
      after s (execFwUpdateStart img s)
    else s
  if bit v 1 then after s (execCommit s) else s

/-- A write to SEC_START_CTRL: CLEAR, then RESTART. -/
def startCtrlWrite (v : Nat) (s : State) : State :=
  let s := if bit v 0 then after s (execClear s) else s
  if bit v 1 then after s (execRestart s) else s

/-- A write to a SEC register. -/
def secWrite (o mask v : Nat) (s : State) : State :=
  let x := s.start
  if 0x200 ≤ o ∧ o < 0x220 then
    let i := o - 0x200
    { s with start := { x with mrExt := x.mrExt.take i ++ bytesOfNat 8 (merge (word8 x.mrExt i) mask v) ++ x.mrExt.drop (i + 8) } }
  else match o with
    | 0x08 => startCtrlWrite v s
    | 0x10 => { s with start := { x with fwSrc := rwField x.fwSrc 55 0 mask v anyValue } }
    | 0x18 => { s with start := { x with fwLen := rwField x.fwLen 24 0 mask v anyValue } }
    | 0x20 => fwCtrlWrite v s
    | 0x220 => after s (execMrExtend (BitVec.ofNat 64 v) s)
    | _ => s

/-! ### Doorbell pages (02) -/

/-- Registers of the doorbell page of context `n`. -/
def bellRead (s : State) (n o : Nat) : Nat :=
  let c := s.ctx n
  if 0x80 ≤ o ∧ o < 0x100 then (c.ring ((o - 0x80) / 8)).head.toNat
  else if 0x800 ≤ o then
    let t := Table.get {} c.tokens ((o - 0x800) / 8)
    t.count.toNat + flagAt t.poison 32
  else match o with
    | 0x100 => c.cqHead.toNat
    | 0x108 => c.cqTail.toNat
    | 0x110 => c.cqArm.toNat
    | 0x118 => c.event
    | 0x120 => c.inflight
    | _ => 0

/-- A write to a doorbell page. -/
def bellWrite (n o mask v : Nat) (s : State) : State :=
  let w : Word := BitVec.ofNat 64 v
  if !touches mask 31 0 ∧ o ≠ 0x118 then s
  else if o < 0x80 then after s (execDoorbell n (o / 8) 4 w s)
  else match o with
    | 0x100 => after s (execDbCqHeadWrite n w s)
    | 0x110 => after s (execDbCqArmWrite n w s)
    | 0x118 => s.updCtx n (fun c => { c with event := c.event ^^^ (c.event &&& v) })
    | _ => s

/-! ### The whole space (03 R92) -/

/-- A block of the Shutter space and the offset within it. -/
inductive ShutterAt where
  | sys (o : Nat)
  | tim (o : Nat)
  | pwr (o : Nat)
  | tier (o : Nat)
  | seg (o : Nat)
  | flt (o : Nat)
  | hbm (n o : Nat)
  | tile (n o : Nat)
  | link (k o : Nat)
  | hinge (e o : Nat)
  | port (p o : Nat)
  | sec (o : Nat)
  | bell (n o : Nat)
  | none
  deriving DecidableEq, Repr

/-- The block that holds an offset (03 R92). -/
def shutterAt (o : Nat) : ShutterAt :=
  if o < 0x20000 then .sys o
  else if o < 0x30000 then .tim (o - 0x20000)
  else if o < 0x40000 then .pwr (o - 0x30000)
  else if o < 0x50000 then .tier (o - 0x40000)
  else if o < 0x60000 then .seg (o - 0x50000)
  else if o < 0x80000 then .flt (o - 0x60000)
  else if o < 0x88000 then .hbm ((o - 0x80000) / 0x1000) (o % 0x1000)
  else if o < 0x100000 then .none
  else if o < 0x180000 then .tile ((o - 0x100000) / 0x10000) (o % 0x10000)
  else if o < 0x200000 then .none
  else if o < 0x220000 then .link ((o - 0x200000) / 0x1000) (o % 0x1000)
  else if o < 0x300000 then .none
  else if o < 0x300E00 then .hinge ((o - 0x300000) / 0x100) (o % 0x100)
  else if o < 0x400000 then .none
  else if o < 0x404000 then .port ((o - 0x400000) / 0x1000) (o % 0x1000)
  else if o < 0x500000 then .none
  else if o < 0x510000 then .sec (o - 0x500000)
  else if o < 0x1000000 then .none
  else if o < 0x1400000 then .bell ((o - 0x1000000) / 0x1000) (o % 0x1000)
  else .none

/-- The blocks that a path reaches: over I3C those of 12 R396; in vestibule mode through BAR0 those of 15 R471. -/
def reaches (s : State) (via : Via) (o : Nat) : Bool :=
  match via with
  | .i3c => match shutterAt o with
    | .sys o => (decide (0x100 ≤ o) && decide (o < 0x200)) || (decide (0x400 ≤ o) && decide (o < 0x700))
    | .tim _ | .pwr _ | .flt _ | .sec _ => true
    | _ => false
  | _ => match shutterAt o with
    | .sys _ | .flt _ | .sec _ => true
    | .port p _ => s.start.phase != .vestibule || p == 0
    | _ => s.start.phase != .vestibule

/-- The registers that a path may write: the BMC writes PWR_LIMIT, PWR_BMC_CAP and PWR_EVT only (12 R396; 14 R457). -/
def mayWrite (s : State) (via : Via) (o : Nat) : Bool :=
  match via with
  | .i3c => match shutterAt o with
    | .pwr 0x00 | .pwr 0x08 | .pwr 0x30 => true
    | _ => false
  | _ => reaches s via o

/-- A path to the registers works: host cores run and BAR0 answers once the start has ended (15 R464, R465, R471); the I3C
target whenever I/O die 0 is out of reset. -/
def pathOpen (s : State) (via : Via) : Bool :=
  match via with
  | .core => s.start.phase == .ready
  | .bar0 => s.start.phase == .ready || s.start.phase == .vestibule
  | .i3c => s.i3cOn

/-- The 8-byte register at an offset. -/
def shutterRead (s : State) (o : Nat) : Nat :=
  match shutterAt o with
  | .sys o => sysRead s o
  | .tim o => timRead s o
  | .pwr o => pwrRead s o
  | .tier o => tierRead s o
  | .seg o => segRead s o
  | .flt o => fltRead s o
  | .hbm n o => hbmRead s n o
  | .tile n o => tileRead s n o
  | .link k o => linkRead s k o
  | .hinge e o => hingeRead s e o
  | .port p o => portRead s p o
  | .sec o => secRead s o
  | .bell n o => bellRead s n o
  | .none => 0

/-- What a read of the bits `mask` of a register clears (00 R14, RC). -/
def shutterClear (o mask : Nat) (s : State) : State :=
  match shutterAt o with
  | .sys o => sysClear o mask s
  | .pwr o => pwrClear o mask s
  | .tier o => tierClear o mask s
  | .flt o => fltClear o mask s
  | .hbm n o => hbmClear n o mask s
  | .tile n o => tileClear n o mask s
  | .link k o => linkClear k o mask s
  | .hinge e o => hingeClear e o mask s
  | _ => s

/-- A write of the bits `mask` of a register; `v` has no bit outside the mask. -/
def shutterWrite (via : Via) (o mask v : Nat) (s : State) : State :=
  match shutterAt o with
  | .sys o => sysWrite o mask v s
  | .tim o => timWrite o mask v s
  | .pwr o => pwrWrite via o mask v s
  | .tier o => tierWrite o mask v s
  | .seg o => segWrite o v s
  | .flt o => fltWrite o mask v s
  | .hbm n o => hbmWrite n o mask v s
  | .tile n o => tileWrite n o mask v s
  | .link k o => linkWrite k o mask v s
  | .hinge e o => hingeWrite e o v s
  | .port p o => portWrite p o mask v s
  | .sec o => secWrite o mask v s
  | .bell n o => bellWrite n o mask v s
  | .none => s

/-- The bits of its 8-byte register that an access of `width` bytes at an offset reaches. -/
def accessMask (o width : Nat) : Nat := (2 ^ (8 * width) - 1) * 2 ^ (8 * (o % 8))

/-- A read of `width` bytes: the value, and the state after the RC fields it touches have cleared. -/
def readShutter (via : Via) (o width : Nat) (s : State) : Nat × State :=
  if !reaches s via o then (0, s)
  else (shutterRead s (o / 8 * 8) / 2 ^ (8 * (o % 8)) % 2 ^ (8 * width), shutterClear (o / 8 * 8) (accessMask o width) s)

/-- A store of 1 or 2 bytes is ignored and logged (03 R94). -/
def narrowStore (o : Nat) (s : State) : State :=
  let n := match shutterAt o with
    | .bell n _ => n
    | _ => noUnit
  fltPost 7 4 noUnit n (shutterBase + o) 0 0 s

/-- A write of 4 or 8 bytes. -/
def writeShutter (via : Via) (o width value : Nat) (s : State) : State :=
  if !mayWrite s via (o / 8 * 8) then s
  else shutterWrite via (o / 8 * 8) (accessMask o width) (value % 2 ^ (8 * width) * 2 ^ (8 * (o % 8))) s

/-- REGISTER_WRITE. A misaligned access is no register access (03 R94). -/
def execRegisterWrite (via : Via) (o width : Nat) (value : Word) (s : State) : Host.Outcome State Fault Refusal :=
  if !pathOpen s via || o % width != 0 then .next s
  else if width < 4 then .next (narrowStore o s)
  else .next (writeShutter via o width value.toNat s)

/-- REGISTER_READ_CLEAR: the data goes to the reader, and RC fields clear in the same access. -/
def execRegisterReadClear (via : Via) (o width : Nat) (s : State) : Host.Outcome State Fault Refusal :=
  if !pathOpen s via || o % width != 0 then .next { s with busError := true }
  else
    let r := readShutter via o width s
    .next { r.2 with bus := r.1, busError := false }

/-- SHUTTER_NARROW_STORE: ignored and logged; a misaligned one is an access fault instead (03 R94). -/
def execShutterNarrowStore (o width : Nat) (_value : Word) (s : State) : Host.Outcome State Fault Refusal :=
  if s.start.phase != .ready || 4 ≤ width || o % width != 0 then .next s else .next (narrowStore o s)

end Sys2Proof.Machine
end

