-- ==== Sys2Proof/Machine/Access.lean ====
section
/-! DEFINITION. What hosts and the BMC reach from outside: requests through the BARs and CXL.mem (12 R409, R410, R465) and I3C
private transfers (12 R396). -/

namespace Sys2Proof.Machine

/-! ### Host requests (12 R410) -/

/-- Where a host request goes: to a register, to memory at a device address, to the configuration space, or nowhere. -/
inductive TlpTarget where
  | reg (off : Nat)
  | mem (addr : Nat)
  | config
  | unsupported
  deriving DecidableEq, Repr

/-- The bytes that a request covers. -/
def tlpSize (q : Tlp) : Nat := if q.isWrite then q.data.length else q.len

/-- The window that a request falls in. -/
def tlpTarget (s : State) (p : Nat) (q : Tlp) : TlpTarget :=
  let n := tlpSize q
  if q.mem then (if (s.port p).cxl && decide (q.off + n ≤ 0x6000000000) then .mem q.off else .unsupported)
  else match q.vf, q.bar with
    | none, 0 => if q.off + n ≤ 0x10000000 then .reg q.off else .unsupported
    | none, 2 => if q.off + n ≤ 0x8000000000 then .mem q.off else .unsupported
    | none, 4 => if q.off + n ≤ 0x400000000 then .mem (directBase + q.off) else .unsupported
    | _, 7 => .config
    | some v, 0 => if q.off + n ≤ 0x40000 ∧ v < 16 then .reg (0x1000000 + 0x40000 * v + q.off) else .unsupported
    | _, _ => .unsupported

/-- An access that the register rule of 03 R94 knows: 1, 2, 4 or 8 bytes, naturally aligned. -/
def regAccessOk (off n : Nat) : Bool := (n == 1 || n == 2 || n == 4 || n == 8) && off % n == 0

/-- A request to a register. -/
def tlpReg (p : Nat) (q : Tlp) (off : Nat) (s : State) : State :=
  let n := tlpSize q
  if !regAccessOk off n then tlpError p s
  else if !q.isWrite then
    let r := readShutter .bar0 off n s
    { r.2 with bus := r.1, busError := false }
  else
    let s := { s with busError := false }
    if n < 4 then narrowStore off s else writeShutter .bar0 off n (natOfBytes q.data) s

/-- A request to memory: a write is applied whole or not at all, and an unbacked address is unsupported. -/
def tlpMem (p : Nat) (q : Tlp) (a : Nat) (s : State) : State :=
  let n := tlpSize q
  if q.isWrite then
    match s.writeMem a q.data with
    | .ok _ => { landWrite none a q.data s with busError := false }
    | .error _ => tlpError p s
  else
    match s.readMem a n with
    | .ok bs => s.readFor (.tlp p s.freshTag a q.mem bs) a n (tlpData p a q.mem bs)
    | .error .uncorrectable => tlpError p ((s.demandShared a n).readFailed a n)
    | .error _ => tlpError p s

/-- A port answers requests once the start has ended, port 0 alone in vestibule mode (15 R465, R471). -/
def State.portOpen (s : State) (p : Nat) : Bool :=
  (s.port p).linkUp && (s.start.phase == .ready || (s.start.phase == .vestibule && p == 0))

/-- A configuration request is answered with Configuration Request Retry Status until the port answers normally (15 R465); what the space
holds the spec does not say, so a read then answers a free value. -/
def tlpConfig (p : Nat) (q : Tlp) (s : State) : State :=
  let s := s.updPort p (fun r => { r with crs := !s.portOpen p })
  if !s.portOpen p || q.isWrite then { s with busError := false }
  else
    let (v, s) := s.draw
    { s with bus := v % 2 ^ (8 * tlpSize q), busError := false }

/-- HOST_TLP. -/
def execHostTlp (p : Nat) (q : Tlp) (s : State) : Host.Outcome State Fault Refusal :=
  match tlpTarget s p q with
  | .config => .next (if (s.port p).linkUp then tlpConfig p q s else s)
  | .reg off => .next (if s.portOpen p then tlpReg p q off s else s)
  | .mem a => .next (if s.portOpen p then tlpMem p q a s else s)
  | .unsupported => .next (if s.portOpen p then tlpError p s else s)

/-! ### I3C private transfers (12 R396) -/

/-- The target answers at its dynamic address. -/
def State.i3cAt (s : State) (addr : Nat) : Bool := s.i3cOn && s.i3c.dynamic == some addr

/-- An offset names a register of the Shutter space. -/
def isRegister (o : Nat) : Bool := decide (o < 0x10000000) && o % 8 == 0

/-- I3C_PRIVATE_WRITE: the offset is kept; eight bytes of data, if any follow, are written there. -/
def execI3cPrivateWrite (addr offset : Nat) (data : Option Word) (s : State) : Host.Outcome State Fault Refusal :=
  if !s.i3cAt addr then .next s
  else
    let o := offset % 2 ^ 32
    let s := { s with i3c := { s.i3c with offset := o } }
    match data with
    | some w => .next (if isRegister o then writeShutter .i3c o 8 w.toNat s else s)
    | none => .next s

/-- I3C_PRIVATE_READ: the 8 bytes at the offset last written. -/
def execI3cPrivateRead (addr : Nat) (s : State) : Host.Outcome State Fault Refusal :=
  if !s.i3cAt addr then .next s
  else
    let r := if isRegister s.i3c.offset then readShutter .i3c s.i3c.offset 8 s else (0, s)
    .next { r.2 with bus := r.1, busError := false }

end Sys2Proof.Machine
end

