-- ==== Sys2Proof/Machine/Panes.lean ====
section
/-! DEFINITION. Events of the panes: check faults, Louvre admission, issue limits and idle modes (06 R211 to R217, R222). -/

namespace Sys2Proof.Machine

/-- PANE_CHECK_FAULT: a fault of the matrix core. In-flight commands with work on it are discarded, a held partial is dropped,
the core is withdrawn and a spare brought in (06 R222; 15 R478). -/
def execPaneCheckFault (t c : Nat) (s : State) : Host.Outcome State Fault Refusal := .next (withdrawCore t c 1 s)

/-- Waiting cores of a wave of a die: logical cores 8w to 8w + 7 (06 R215). -/
def State.wave (s : State) (t w : Nat) : List Nat :=
  ((upTo 8).map (fun i => 8 * w + i)).filter (fun c => (s.core t c).waiting.isSome)

/-- The wave that a die admits in slot `n` of its count: (n + d) mod 8, or the next wave with waiting cores. -/
def State.waveAt (s : State) (t n : Nat) : List Nat :=
  (((upTo 8).map (fun j => s.wave t ((n + t + j) % 8))).find? (fun l => !l.isEmpty)).getD []

/-- LOUVRE_SLOT: the die's next slot begins and its wave is admitted (06 R214, R215). -/
def execLouvreSlot (t : Nat) (s : State) : Host.Outcome State Fault Refusal :=
  let x := s.tile t
  let at' := max (slotAt s.now) x.louvreNext
  let s := advanceTo at' s
  let s := s.updTile t (fun x => { x with louvreNext := at' + 32 })
  match x.louvreFrom with
  | none => .next s
  | some f =>
    if at' < f then .next s
    else .next ((s.waveAt t ((at' - f) / 32)).foldl (fun s c => s.updCore t c (fun k => { k with admitted := true, waiting := none })) s)

/-- ISSUE_LIMIT_STEP: a rising limit takes its next step of 8/64, one a slot (06 R216). -/
def execIssueLimitStep (t c : Nat) (s : State) : Host.Outcome State Fault Refusal :=
  let k := s.core t c
  if k.limit < k.target then
    let at' := max (slotAt s.now) k.stepAt
    .next ((advanceTo at' s).updCore t c (fun k => { k.countGap (k.cycle (advanceTo at' s).clk.ac) with limit := min k.target (k.limit + 8), stepAt := at' + 32 }))
  else .next s

/-- KEEP_WARM_GAP: eight cycles have passed with no real row, and dummy rows issue from there at the rate of the rows before. A gap
after another number of rows than the core has issued does not begin (06 R213). -/
def execKeepWarmGap (t c rows : Nat) (s : State) : Host.Outcome State Fault Refusal :=
  let k := s.core t c
  match k.gapFrom with
  | some g =>
    if k.keepWarm && k.warm && k.gap.isNone && k.inService && rows == k.rowsBefore g then
      .next ((advanceToCycle k g s).setCore t c { k with gap := some (g, k.gapRate g, g) })
    else .next s
  | none => .next s

/-- CORE_COLD: 128 cycles have passed with no row, real or dummy. In keep-warm mode a gap has begun before, and the core falls cold 128
cycles after its threshold (06 R213). -/
def execCoreCold (t c : Nat) (s : State) : Host.Outcome State Fault Refusal :=
  let k := s.core t c
  match k.coldAt with
  | some d =>
    if k.warm then .next (((advanceToCycle k d s).setCore t c { k.endGap d with warm := false }).settleCore t c)
    else .next s
  | none => .next s

end Sys2Proof.Machine
end

