-- ==== Sys2Proof/Machine/Ultur.lean ====
section
/-! DEFINITION. The memory side of the Ultur cores (03 R116 to R130): loads and the lines they fill, the store buffer, atomic
operations, the outstanding-write tracker, fences, completion timeouts and the bus-error interrupt. The stores of one core become
visible in program order (R117). -/

namespace Sys2Proof.Machine

/-! ### What a core implements (03 R116) -/

/-- What every Ultur core implements: the profile beside its memory side. -/
structure UlturProfile where
  profiles   : List String
  hypervisor : Bool
  vlen       : Nat
  elen       : Nat
  ztso       : Bool
  svpbmt     : Bool
  satpModes  : List Nat
  cboBytes   : Nat
  maxMhz     : Nat
  l1iBytes   : Nat
  l1dBytes   : Nat
  l2Bytes    : Nat
  lineBytes  : Nat
  storeBuffer : Nat
  tracker    : Nat
  /-- Guest files of the IMSIC, and identities of each of its files. -/
  geilen     : Nat
  identities : Nat
  deriving DecidableEq, Repr

/-- The table of R116. The instructions of the profile itself are no commands of this block (log 33). -/
def ulturProfile : UlturProfile where
  profiles := ["RVA23U64", "RVA23S64"]
  hypervisor := true
  vlen := 256
  elen := 64
  ztso := true
  svpbmt := true
  satpModes := [39, 48, 57]
  cboBytes := 64
  maxMhz := 3000
  l1iBytes := 65536
  l1dBytes := 65536
  l2Bytes := 2097152
  lineBytes := 64
  storeBuffer := 64
  tracker := 16
  geilen := 7
  identities := 255

/-- Entries of the store buffer and of the tracker. -/
def storeBuffer : Nat := ulturProfile.storeBuffer
def trackerSize : Nat := ulturProfile.tracker

/-- A running SYS_RESET has a scope that includes the cores of a tile (03 R129; 15 R474). -/
def Entry.resets (t : Nat) (e : Entry) : Bool :=
  let scope := fieldOf e.pkt 0x20 2
  e.opcode == 0x0005 && e.phase == .running && e.asked && (scope % 8 == 3 || (scope % 8 == 2 && scope / 8 == t))

/-- The core issues: it is in service, the package has started, and no reset of its scope waits for its stores (03 R129). -/
def State.ucoreRuns (s : State) (t u : Nat) : Bool :=
  (s.ucore t u).inService && s.start.phase == .ready && !s.ctxs.any (fun c => c.2.entries.any (Entry.resets t))

/-- The cause of an access fault (03 R89; log 33): load and load-reserved 5, fetch 1, store, store-conditional and AMO 7. -/
def faultCause (store : Bool) : AccKind → Nat
  | .fetch => 1
  | .amo _ | .sc => 7
  | .plain | .vector | .lr => if store then 7 else 5

/-- An access takes a precise exception. -/
def takeTrap (t u cause addr : Nat) (s : State) : State := s.updUcore t u (fun x => { x with trap := some (cause, addr) })

/-- AMO, LR and SC. -/
def isAtomic : AccKind → Bool
  | .amo _ | .lr | .sc => true
  | .plain | .fetch | .vector => false

/-- The attributes of R90 forbid the access: AMO and LR/SC outside home and Sill direct memory; vector accesses and fetches from the
Shutter space (R94); misaligned accesses to it and to an aperture, and misaligned atomic ones (log 33). -/
def forbidden (a width : Nat) (kind : AccKind) : Bool :=
  match regionOf a with
  | .home _ | .direct _ => isAtomic kind && a % width != 0
  | .remote _ _ => isAtomic kind
  | .aperture _ _ => isAtomic kind || a % width != 0
  | .shutter _ => kind != .plain || a % width != 0
  | .none => true

/-! ### Lines of the caches (03 R90, R118; 10 R328, R329) -/

/-- The core takes a line into its caches; one that is uncorrectable it only learns of. -/
def takeFill (t u line : Nat) (s : State) : State :=
  if s.poison.contains line then s.updUcore t u (fun x => { x with badFills := insertNat line x.badFills }) else hostFill t u line s

/-- A line that the core needs and does not hold: one of home memory is asked for at its controller, one that the Sill serves is read,
`errs` bytes of its code word being in error. -/
def fillLine (t u errs : Nat) (s : State) (line : Nat) : State :=
  let x := s.ucore t u
  if x.lines.contains line || x.fills.contains line || (x.badFills.contains line && s.poison.contains line) then s
  else
    let s := s.updUcore t u (fun x => { x with badFills := x.badFills.erase line })
    if s.atHome line then
      let s := s.enqueueRead { line, who := .host t u, since := s.now }
      if s.linesPending (.host t u) line 64 then s.updUcore t u (fun x => { x with fills := x.fills ++ [line] }) else takeFill t u line s
    else takeFill t u line (readCode line errs s)

/-- What the core finds of lines that it needs. -/
inductive LineState where
  | ready | bad | waits
  deriving DecidableEq, Repr

def UCore.linesAre (x : UCore) (ls : List Nat) : LineState :=
  if ls.any x.badFills.contains then .bad else if ls.all x.lines.contains then .ready else .waits

/-- The core has met the uncorrectable lines of an access. -/
def forgetBad (t u : Nat) (ls : List Nat) (s : State) : State :=
  s.updUcore t u (fun x => { x with badFills := x.badFills.filter (fun l => !ls.contains l) })

/-- The core asks for the lines of an access to local home or Sill direct memory. -/
def needLines (t u errs : Nat) (ls : List Nat) (s : State) : State := ls.foldl (fillLine t u errs) s

/-- Lines of a range that the core neither holds nor has asked for: what of a load is a demand access (09 R299). -/
def State.missing (s : State) (t u : Nat) (ls : List Nat) : List Nat :=
  let x := s.ucore t u
  ls.filter (fun l => !x.lines.contains l && !x.fills.contains l && !x.badFills.contains l)

/-! ### Loads (03 R117, R119, R120, R124, R128) -/

/-- The youngest buffered store that holds a byte, by the address of the store: a home address and this package's own address of the same byte
(03 R87) do not forward to each other (DESIGN CHOICE, log 115). -/
def youngest (l : List UStore) (a : Nat) : Option Nat :=
  ((upTo l.length).filter (fun i => match l[i]? with
    | some x => decide (x.addr ≤ a) && decide (a < x.addr + x.width)
    | none => false)).getLast?

/-- The buffered store that gives each byte of a load. -/
def forwards (l : List UStore) (a width : Nat) : List (Option Nat) := (upTo width).map (fun i => youngest l (a + i))

/-- A load needs bytes from two or more buffered stores. -/
def needsDrain (f : List (Option Nat)) : Bool := decide (2 ≤ ((f.filterMap id).eraseDups).length)

/-- The bytes of a load, each from its buffered store or from memory. -/
def loadBytes (l : List UStore) (f : List (Option Nat)) (a : Nat) (mem : List Byte) : List Byte :=
  ((upTo f.length).zip f).map (fun p => match p.2 with
    | none => mem.getD p.1 0
    | some i => match l[i]? with
      | some x => BitVec.ofNat 8 (x.value / 2 ^ (8 * (a + p.1 - x.addr)))
      | none => 0)

/-- A load takes its value; a load-reserved reserves its line. -/
def takeValue (t u v : Nat) (s : State) : State := s.updUcore t u (fun x => { x with loaded := v, trap := none })

/-- Lines that the core has used last, in its L1 I for a fetch and else in its L1 D. -/
def UCore.touch (fetch : Bool) (ls : List Nat) (x : UCore) : UCore :=
  let put (l : List Nat) : List Nat := (ls ++ l.filter (fun k => !ls.contains k)).take l1Lines
  if fetch then { x with l1i := put x.l1i } else { x with l1d := put x.l1d }

/-- The value of a load whose bytes `f` says where to take. -/
def giveLoad (t u a width : Nat) (kind : AccKind) (f : List (Option Nat)) (s : State) : State :=
  let s := takeValue t u (natOfBytes (loadBytes (s.ucore t u).buffer f a (s.peek a width))) s
  if kind = .lr then s.updUcore t u (fun x => { x with resv := some (lineOf a) }) else s

/-- A load of local home or Sill direct memory waits for its lines; it takes a hardware error for one that is uncorrectable. Lines that it
reaches by the package's fabric address, or under a PBMT of NC, are not kept (03 R87, R91). -/
def loadLocal (t u a width : Nat) (l : LoadOf) (f : List (Option Nat)) (s : State) : State :=
  let ls := linesOf (s.localAddr a) width
  let new := s.missing t u ls
  let s := new.foldl (fun s l => s.demandShared l 64) s
  let s := needLines t u l.errs ls s
  match (s.ucore t u).linesAre ls with
  | .waits => s
  | .bad => takeTrap t u 19 a (forgetBad t u ls s)
  | .ready =>
    let s := giveLoad t u a width l.kind f s
    if s.localAddr a = a && !l.nc then s.updUcore t u (UCore.touch (l.kind == .fetch) ls)
    else s.updUcore t u (fun x => { x with lines := x.lines.filter (fun k => !ls.contains k || (x.l1i ++ x.l1d).contains k) })

/-- A load from another package or from an aperture; one that gets no answer ends at the completion timeout (03 R126). -/
def loadFar (t u a width : Nat) (kind : AccKind) (f : List (Option Nat)) (s : State) : State :=
  match s.accessErr a width with
  | none => giveLoad t u a width kind f (s.requestLines (tileUnit t u) a width)
  | some .timeout => takeTrap t u (faultCause false kind) a (advanceTo (s.now + s.timeoutNs) (s.requestLines (tileUnit t u) a width))
  | some _ => takeTrap t u (faultCause false kind) a s

/-- A load from home, Sill direct or remote memory, or from an aperture. Lines of this package that it reaches by its fabric address
are not kept: it has the remote attributes of R90. One whose every byte the store buffer holds asks no remote target (log 102), but meets
the loss of a local address's backing like any other. -/
def loadMemory (t u a width : Nat) (l : LoadOf) (f : List (Option Nat)) (s : State) : State :=
  let all := f.all Option.isSome
  match regionOf (s.localAddr a) with
  | .home _ | .direct _ =>
    if (s.accessErr a width).isSome then takeTrap t u (faultCause false l.kind) a s
    else if all then giveLoad t u a width l.kind f s else loadLocal t u a width l f s
  | .none => takeTrap t u (faultCause false l.kind) a s
  | _ => if all then giveLoad t u a width l.kind f s else loadFar t u a width l.kind f s

/-- A tracked store is to a byte that the load takes from no buffered store: the load waits until it is globally visible (03 R117). -/
def UCore.tracks (x : UCore) (a : Nat) (f : List (Option Nat)) : Bool :=
  ((upTo f.length).zip f).any (fun p =>
    p.2.isNone && x.tracker.any (fun y => decide (y.addr ≤ a + p.1) && decide (a + p.1 < y.addr + y.width)))

/-- No store of the core is outstanding. -/
def UCore.noStores (x : UCore) : Bool := x.buffer.isEmpty && x.tracker.isEmpty

/-- HOST_LOAD. A load from the Shutter space or an aperture waits for the store buffer to empty, and never forwards; a load that
needs bytes of two buffered stores waits for them; a fetch takes no byte from the buffer; a load-reserved waits for the core's
stores. -/
def execHostLoad (t u a width : Nat) (l : LoadOf) (s : State) : Host.Outcome State Fault Refusal :=
  let kind := l.kind
  let x := s.ucore t u
  let none_ : List (Option Nat) := List.replicate width none
  if !s.ucoreRuns t u then .next s
  else if forbidden a width kind then .next (takeTrap t u (faultCause false kind) a s)
  else match regionOf a with
    | .shutter o =>
      if !x.buffer.isEmpty then .next s
      else
        let r := readShutter .core o width s
        .next (takeValue t u r.1 r.2)
    | .aperture _ _ => if x.buffer.isEmpty && !x.tracks a none_ then .next (loadMemory t u a width l none_ s) else .next s
    | _ =>
      let f := if kind == .fetch then none_ else forwards x.buffer a width
      if needsDrain f || x.tracks a f || (kind == .lr && !x.noStores) then .next s
      else .next (loadMemory t u a width l f s)

/-! ### Stores (03 R117, R118, R120, R125, R128, R129) -/

/-- A store to a local address that is unbacked when it commits takes a precise access fault (03 R89). One to a host that is
declared down completes with error when it leaves the buffer instead (03 R128). -/
def storeUnbacked (s : State) (a width : Nat) : Bool :=
  match regionOf a with
  | .remote _ _ | .shutter _ => false
  | .aperture p _ => !((s.port p).hostDown || (s.port p).evtDown) && !s.backed a width
  | _ => !s.backed a width

/-- A store goes through the tracker: to a remote address, be it this package's own, or to an aperture (03 R87, R118). -/
def isTracked (a : Nat) : Bool :=
  match regionOf a with
  | .remote _ _ | .aperture _ _ => true
  | _ => false

/-- KIND of a store that ends with an access error (03 R125): a target that serves a tracked store refuses uncorrectable data with an
error response. -/
def AccErr.busKind (tracked : Bool) : AccErr → Nat
  | .peerDown _ => 1
  | .hostDown => 2
  | .timeout => 0
  | .refused => 3
  | .uncorrectable => if tracked then 3 else 4

/-- A store within one direct page lands: in home or Sill direct memory, at another package or at a host. One to an unclaimed direct
page is discarded and logged (09 R294); one that meets uncorrectable data is dropped (03 R124). A core keeps the line it wrote. -/
def landPart (t u : Nat) (x : UStore) (s : State) : State :=
  let kept := (linesOf x.addr x.width).filter (s.ucore t u).lines.contains
  match s.writeMem x.addr (bytesOfNat x.width x.value) with
  | .error e => busError t u x.addr (e.busKind (isTracked x.addr)) s
  | .ok s' =>
    match regionOf x.addr with
    | .direct o =>
      let s' := if (s.directPage (o / 65536)).isNone then fltPost 7 5 noUnit noUnit x.addr 0 0 s else s'
      kept.foldl (fun s l => takeFill t u l s) s'
    | .home _ => kept.foldl (fun s l => takeFill t u l s) ((s'.noteWrites x.addr x.width).demandShared x.addr x.width)
    | .remote p _ => if s.isSelf p then (s'.noteWrites (s.localAddr x.addr) x.width).demandShared x.addr x.width else s'
    | .aperture p _ => s'.updPort p Port.confirm
    | _ => s'

/-- A store lands. Of a misaligned one that crosses into another direct page, each page's bytes land as its page has them. -/
def landStore (t u : Nat) (x : UStore) (s : State) : State :=
  let n := 65536 - x.addr % 65536
  match regionOf x.addr with
  | .direct _ =>
    if x.width ≤ n then landPart t u x s
    else
      let lo : UStore := { x with width := n, value := x.value % 2 ^ (8 * n) }
      let hi : UStore := { x with addr := x.addr + n, width := x.width - n, value := x.value / 2 ^ (8 * n) }
      landPart t u hi (landPart t u lo s)
  | _ => landPart t u x s

/-- The value that an AMO of `width` bytes writes (03 R90, R116; log 33). -/
def amoValue (op : AmoOp) (width old v : Nat) : Nat :=
  let n := 8 * width
  let (x, y) := (old % 2 ^ n, v % 2 ^ n)
  let (i, j) := (signed n x, signed n y)
  match op with
  | .swap => y
  | .add => (x + y) % 2 ^ n
  | .and => x &&& y
  | .or => x ||| y
  | .xor => x ^^^ y
  | .min => if i ≤ j then x else y
  | .max => if i ≤ j then y else x
  | .minu => Nat.min x y
  | .maxu => Nat.max x y

/-- An AMO on lines that the core owns: one indivisible read and write. -/
def landAmo (t u a width : Nat) (op : AmoOp) (v : Nat) (s : State) : State :=
  let old := natOfBytes (s.peek a width)
  takeValue t u old (landStore t u { addr := a, width, value := amoValue op width old v } s)

/-- A store-conditional writes only while its line is reserved; its result is 0, or 1 where it does not write. -/
def landSc (t u a width v : Nat) (s : State) : State :=
  if (s.ucore t u).resv = some (lineOf a) then
    let s := landStore t u { addr := a, width, value := v } s
    takeValue t u 0 (s.updUcore t u (fun x => { x with resv := none }))
  else takeValue t u 1 (s.updUcore t u (fun x => { x with resv := none }))

/-- An AMO or a store-conditional waits until the core's stores are visible and it owns the line. -/
def atomicStore (t u a width : Nat) (land : State → State) (s : State) : State :=
  if !(s.ucore t u).noStores then s
  else
    let ls := linesOf a width
    let s := (s.missing t u ls).foldl (fun s l => s.demandShared l 64) s
    let s := needLines t u 0 ls s
    match (s.ucore t u).linesAre ls with
    | .waits => s
    | .bad => takeTrap t u 19 a (forgetBad t u ls s)
    | .ready => if s.noRoom ls then s else land s

/-- A store commits and enters the buffer; with 64 stores in it, it waits. -/
def commitStore (t u a width v : Nat) (nc : Bool) (s : State) : State :=
  if storeBuffer ≤ (s.ucore t u).buffer.length then s
  else s.updUcore t u (fun x => { x with buffer := x.buffer ++ [{ addr := a, width, value := v % 2 ^ (8 * width), nc }], trap := none })

/-- HOST_STORE. -/
def execHostStore (t u a width : Nat) (k : StoreOf) (value : Word) (s : State) : Host.Outcome State Fault Refusal :=
  let kind := k.kind
  if !s.ucoreRuns t u then .next s
  else if forbidden a width kind || storeUnbacked s a width then .next (takeTrap t u (faultCause true kind) a s)
  else match kind with
    | .amo op => .next (atomicStore t u a width (landAmo t u a width op value.toNat) s)
    | .sc => .next (atomicStore t u a width (landSc t u a width (value.toNat % 2 ^ (8 * width))) s)
    | _ => .next (commitStore t u a width value.toNat k.nc s)

/-- The package or port that tracked stores go to. -/
def targetOf (a : Nat) : Region :=
  match regionOf a with
  | .remote p _ => .remote p 0
  | .aperture p _ => .aperture p 0
  | r => r

/-- The target of a tracked store is down, or nothing reaches it: the store completes with error as it leaves the buffer
(03 R128; 12 R393). -/
def targetDown (s : State) (a width : Nat) : Option AccErr :=
  match s.accessErr a width with
  | some (.peerDown p) => some (.peerDown p)
  | some .hostDown => some .hostDown
  | _ => none

/-- The oldest store leaves the buffer. -/
def popStore (t u : Nat) (s : State) : State := s.updUcore t u (fun y => { y with buffer := y.buffer.drop 1 })

/-- A store to local home or Sill direct memory leaves the buffer when the core owns its lines; one whose line fill met uncorrectable
data is dropped (03 R118, R124). Under a PBMT of NC it takes no line, and lands at the memory (03 R91). -/
def drainLocal (t u : Nat) (x : UStore) (s : State) : State :=
  if (s.accessErr x.addr x.width).isSome || x.nc then landStore t u x (popStore t u s)
  else
    let ls := linesOf x.addr x.width
    let s := needLines t u 0 ls s
    match (s.ucore t u).linesAre ls with
    | .waits => s
    | .bad => busError t u x.addr 4 (forgetBad t u ls (popStore t u s))
    | .ready => landStore t u x (popStore t u s)

/-- STORE_DRAIN: the oldest buffered store leaves the buffer. A tracked store waits for room and for older stores to any other
target (12 R388); any other store waits until the tracker is empty, so that stores become visible in order (03 R117, R120). -/
def execStoreDrain (t u : Nat) (s : State) : Host.Outcome State Fault Refusal :=
  let y := s.ucore t u
  match y.buffer with
  | [] => .next s
  | x :: _ =>
    if isTracked x.addr then
      match targetDown s x.addr x.width with
      | some e => .next (busError t u x.addr (e.busKind true) (popStore t u s))
      | none =>
        if decide (y.tracker.length < trackerSize) && y.tracker.all (fun z => targetOf z.addr == targetOf x.addr) then
          let s := (popStore t u s).requestWrites (tileUnit t u) true x.addr (bytesOfNat x.width x.value)
          .next (s.updUcore t u (fun y => { y with tracker := y.tracker ++ [{ x with since := s.now }] }))
        else .next s
    else if !y.tracker.isEmpty then .next s
    else match regionOf x.addr with
      | .shutter o =>
        let s := popStore t u s
        .next (if x.width < 4 then narrowStore o s else writeShutter .core o x.width x.value s)
      | _ => .next (if s.noRoom (linesOf (s.localAddr x.addr) x.width) then s else drainLocal t u x s)

/-! ### The tracker (03 R118, R126, R127) -/

/-- When the links to the target of a tracked store have been silent for 2 ms, and its peer is declared down (03 R127; 12 R392). -/
def State.silentAt (s : State) (a : Nat) : Option Nat :=
  match regionOf a with
  | .remote p _ => if s.isSelf p then none else ((s.routeLinks p).map (fun k => (s.link k).lastFlit + 2000000)).max?
  | _ => none

/-- The end that comes to a tracked store which nothing acknowledges: its station time and KIND (03 R127). -/
def UStore.bound (x : UStore) (s : State) : Nat × Nat :=
  let t := x.since + s.timeoutNs
  match s.silentAt x.addr with
  | some d => if d ≤ t then (d, 1) else (t, 0)
  | none => (t, 0)

/-- The oldest tracked store leaves the tracker. -/
def popTracked (t u : Nat) (s : State) : State :=
  let s := ((s.ucore t u).tracker.take 1).foldl (fun s x => (linesOf x.addr x.width).foldl (fun s l => s.unkeep (max l x.addr)) s) s
  s.updUcore t u (fun y => { y with tracker := y.tracker.drop 1 })

/-- A tracked store ends at its bound. -/
def expireStore (t u : Nat) (x : UStore) (s : State) : State :=
  let b := x.bound s
  busError t u x.addr b.2 (popTracked t u (advanceTo b.1 s))

/-- WRITE_ACK: the oldest tracked store is acknowledged, with an error response where the target refuses it; a target that does not
answer acknowledges nothing, and a store whose completion timeout has passed, or whose peer has been down since, has ended with it. -/
def execWriteAck (t u k : Nat) (s : State) : Host.Outcome State Fault Refusal :=
  match (s.ucore t u).tracker with
  | [] => .next s
  | x :: _ =>
    if k ≠ 0 then .next s
    else if (x.bound s).1 ≤ s.now then .next (expireStore t u x s)
    else if s.accessErr x.addr x.width = some .timeout then .next s
    else .next (landStore t u x (popTracked t u s))

/-- FENCE: with W in its predecessor set, or O and any store outstanding, it completes only when buffer and tracker are empty
(03 R121). -/
def execFence (t u : Nat) (predW predO : Bool) (s : State) : Host.Outcome State Fault Refusal :=
  let x := s.ucore t u
  if !s.ucoreRuns t u || ((predW || predO) && !x.noStores) then .next s
  else .next (s.updUcore t u (fun x => { x with fences := x.fences + 1 }))

/-! ### Completion timeouts (03 R126, R127; 08 R282) -/

/-- The row read of a gather position times out: the op fails. -/
def timeoutRow (t c pos : Nat) (s : State) : State :=
  let k := s.core t c
  match k.run with
  | none => s
  | some i =>
    match s.entry? i.cmd, i.gathering with
    | some e, some o =>
      match o.ga with
      | none => s
      | some g =>
        match g.poss[pos]? with
        | none => s
        | some p =>
          match p.addr with
          | none => s
          | some a =>
            if !p.asked || p.arrived || !isTracked a then s
            else
              let x := Exec.of (advanceTo (p.askedAt + s.timeoutNs) s) k i t c e o
              ((x.failMem (whereSeg (x.table 0).t.where_) a .timeout).closeGather o g).settleCore t c
    | _, _ => s

/-- An accumulate toward another package times out; whether it was applied is undetermined (08 R282): a free value decides. -/
def timeoutAcc (n : Nat) (s : State) : State :=
  match s.accs[n]? with
  | none => s
  | some a =>
    if !a.own || !isTracked a.addr then s
    else
      let s := advanceTo (a.since + s.timeoutNs) s
      let (v, s) := (({ s with accs := s.accs.eraseIdx n }.unkeep a.addr).dropOneRead .adder a.addr).draw
      let s := if v % 2 = 1 then s.poke a.addr (a.apply (s.peek a.addr 64)).1 else s
      ackAccumulate a false (some .timeout) s

/-- The address lies in a segment of the command, toward another package or a host: in the segment itself, or in the slice that it names in
a member of the command's gang (11 R355). -/
def Entry.reachesFar (e : Entry) (seg a : Nat) : Bool :=
  let g := e.seg seg
  let inside := match regionOf a with
    | .remote p o => decide (g.base ≤ a) && decide (a < g.limit) ||
        e.members.contains p && decide (g.base % 2 ^ 40 ≤ o) && decide (o < g.base % 2 ^ 40 + (g.limit - g.base))
    | _ => decide (g.base ≤ a) && decide (a < g.limit)
  isTracked a && inside && e.uses.any (fun u => u.seg == seg)

/-- A copy or reduction of a running command times out: it fails, with a fault record; of a tile program, the run at work fails. -/
def timeoutCommand (id : CmdId) (seg a since : Nat) (s : State) : State :=
  match s.entry? id with
  | none => s
  | some e =>
    if e.phase != .running || !e.reachesFar seg a then s
    else
      let s := advanceTo (max e.startedAt (min since s.now) + s.timeoutNs) s
      if e.isTileWork then
        match s.busyCores.findSome? (fun tc => (s.core tc.1 tc.2).run.bind (fun i => if i.cmd == id then some i.index else none)) with
        | some i => failCommand id i sTimeout 0 (faultRecord id.ctx id.ring id.seq seg 5 a s)
        | none => s
      else
        let r := accessFault id seg a .timeout s
        finishWith id r.2 r.1

/-- COMPLETION_TIMEOUT. Of tracked stores the oldest reaches its timeout first, and completes with error; one whose peer is declared
down before does not reach it. -/
def execCompletionTimeout (who : TimeoutOf) (s : State) : Host.Outcome State Fault Refusal :=
  match who with
  | .store t u k =>
    match (s.ucore t u).tracker with
    | [] => .next s
    | x :: _ => if k ≠ 0 ∨ (x.bound s).2 ≠ 0 then .next s else .next (expireStore t u x s)
  | .row t c pos => .next (timeoutRow t c pos s)
  | .accumulate k => .next (timeoutAcc k s)
  | .command id seg a since => .next (timeoutCommand id seg a since s)

/-! ### The bus-error CSRs and machine checks (03 R125; 15 R478) -/

/-- The core takes local interrupt 16 where it stands and mie bit 16 enables it, in S-mode where mideleg bit 16 delegates it. -/
def UCore.takeIrq (x : UCore) : UCore := { x with irq := if x.mip16 && x.mie16 then some x.mideleg16 else none }

/-- A write to UBERR_INFO: VALID and OVERFLOW are W1C; clearing VALID clears mip bit 16. -/
def UCore.clearInfo (v : Nat) (x : UCore) : UCore :=
  { x with errValid := x.errValid && !bit v 0, errOver := x.errOver && !bit v 1, mip16 := x.mip16 && !bit v 0 }

/-- UBERR_INFO_WRITE: a write to UBERR_INFO, from S-mode only where the interrupt is delegated; the other accesses to the interrupt's CSRs
read one, or set bit 16 of mie or mideleg. -/
def execUberrInfoWrite (t u : Nat) (o : CsrOp) (s : State) : Host.Outcome State Fault Refusal :=
  let x := s.ucore t u
  if !s.ucoreRuns t u then .next s
  else match o with
    | .info smode v => .next (if smode && !x.mideleg16 then s else s.updUcore t u (fun x => (x.clearInfo v).takeIrq))
    | .read smode n => .next (match x.csr smode n with
      | some v => takeValue t u v s
      | none => s)
    | .mie on => .next (s.updUcore t u (fun x => { x with mie16 := on }.takeIrq))
    | .mideleg on => .next (s.updUcore t u (fun x => { x with mideleg16 := on }.takeIrq))

/-- ULTUR_MACHINE_CHECK: the core is withdrawn and stopped; a spare takes its number at the next start. Its committed stores drain
(03 R129). The cause is free: the ledger's table numbers none for Ultur cores. -/
def execUlturMachineCheck (t u : Nat) (s : State) : Host.Outcome State Fault Refusal :=
  let p := (s.ucore t u).phys
  if !s.ucoreRuns t u then .next s
  else
    let (v, s) := s.draw
    let s := appendRepair 4 t p (v % 256) s
    let s := s.updTile t (fun x => { x with badUcores := insertNat p x.badUcores })
    let s := withCap (fun s => s.updUcore t u (fun x => { x with inService := false })) s
    .next (fltPost 2 1 (tileUnit t u) noUnit 0 4 (v % 256) s)

end Sys2Proof.Machine
end

