-- ==== Sys2Proof/Machine/Reset.lean ====
section
/-! DEFINITION. SYS_RESET and SYS_SELFTEST (15 R473 to R478). -/

namespace Sys2Proof.Machine

/-! ### SYS_RESET (15 R473 to R475; 03 R129, R130; 09 R318) -/

/-- Stores of an Ultur core drain before a warm reset, each completing with or without error: one whose target does not answer ends at its
bound, and one that waits for a line stays. -/
def drainStores (t u : Nat) : Nat → State → State
  | 0, s => s
  | n + 1, s =>
    match (s.ucore t u).tracker with
    | x :: _ =>
      if s.accessErr x.addr x.width = some .timeout then drainStores t u n (expireStore t u x s)
      else drainStores t u n (after s (execWriteAck t u 0 s))
    | [] => if (s.ucore t u).buffer.isEmpty then s else drainStores t u n (after s (execStoreDrain t u s))

/-- Drain every Ultur core of a tile: at most one step for each store to leave the buffer and one to leave the tracker. -/
def drainTile (t : Nat) (s : State) : State := (upTo 8).foldl (fun s u => drainStores t u (2 * (storeBuffer + trackerSize)) s) s

/-- The stores of the cores of a tile are drained. -/
def State.tileDrained (s : State) (t : Nat) : Bool := (upTo 8).all (fun u => (s.ucore t u).noStores)

/-- No store of a scope's cores is outstanding (03 R129). -/
def State.scopeDrained (s : State) (kind index : Nat) : Bool :=
  match kind with
  | 2 => s.tileDrained index
  | 3 => (upTo 8).all s.tileDrained
  | _ => true

/-- A matrix core after its reset: no run, both weight sets +0, no tags, an empty spill frame. -/
def resetCore (t c : Nat) (s : State) : State := s.updCore t c (fun k => { k.clear (k.cycle s.clk.ac) with save := [], acFrom := s.clk.ac, nextRow := 0, keepFrom := 0 })

/-- Before the reset of a sill its dirty sub-blocks are written back; then every tier page with a slot in it is dropped, pinned or
not, and every direct page claimed in it released (09 R318). -/
def resetSill (n : Nat) (s : State) : State :=
  let ps := (s.pages.filter (fun e => (e.2.slots ++ e.2.target).any (fun x => x.sill == n))).map (fun e => e.1)
  releaseSill n (ps.foldl State.demoteNow s)

/-- A core's registers in the tile block at their reset values; its place stays, and it leaves reset in AC cycle `ac`. -/
def Core.fresh (k : Core) (ac : Nat) : Core := { phys := k.phys, inService := k.inService, acFrom := ac }

/-- A tile after its reset: its sill is emptied, its cores are fresh, under the limits that act, and its Ultur cores restart. -/
def resetTile (t : Nat) (s : State) : State :=
  let s := resetSill t s
  let s := applyLimit t ((upTo 64).foldl (fun s c => s.updCore t c (fun k => k.fresh s.clk.ac)) s)
  (upTo 8).foldl (fun s u => s.updUcore t u (fun x => { inService := x.inService, phys := x.phys })) s

/-- Discard every unfinished command but one. -/
def discardOthers (id : CmdId) (p : Nat → Bool) (s : State) : State :=
  discardIf (fun n e => p n && decide (({ ctx := n, ring := e.ring, seq := e.seq } : CmdId) ≠ id)) s

/-- The completion records of every finished command are written, as far as their rings have room. -/
def writeRecords (s : State) : State :=
  s.ctxs.foldl (fun s c => c.2.entries.foldl (fun s e => finishEntry ⟨c.1, e.ring, e.seq⟩ s) s) s

/-- The contexts scoped to a gang level. -/
def State.gangScoped (s : State) (level n : Nat) : Bool := (s.ctx n).desc.kind == 4 && (s.ctx n).desc.index == level

/-- Steps 2 and 3 of R474: what the scope holds is discarded, and its Ultur cores' stores drain. The commands that a package reset
discards have their records written. -/
def quiesceScope (id : CmdId) (kind index : Nat) (s : State) : State :=
  match kind with
  | 1 => discardCore (index / 64) (index % 64) s
  | 2 => drainTile index (discardTile index s)
  | 3 => (upTo 8).foldl (fun s t => drainTile t s) (writeRecords (discardOthers id (fun _ => true) s))
  | _ => discardOthers id (s.gangScoped index) s

/-- A self-test in progress ends with S_DISCARDED at a reset (15 R475). -/
def stopSelftest (s : State) : State :=
  match s.selftest with
  | some x => discard x.cmd s
  | none => s

/-- The event SYS_RESET done (15 R487). -/
def resetDone (scope : Nat) (s : State) : State := fltPost 1 2 scope noUnit 0 s.startSeq s.start.cause s

/-- Step 5 of R474: the scope is reset. A package starts warm with cause 3; the contexts scoped to a gang are terminated, in this
member. The event follows where the log is not itself reset. -/
def resetScope (scope kind index : Nat) (s : State) : State :=
  match kind with
  | 1 => resetDone scope (resetCore (index / 64) (index % 64) s)
  | 2 => resetDone scope (resetTile index s)
  | 3 => s.restart true 3
  | _ => resetDone scope (terminateIf (fun n _ => s.gangScoped index n) s)

/-- Another SYS_RESET runs: this one is held until it completes (15 R475). -/
def State.resetRuns (s : State) (id : CmdId) : Bool :=
  s.ctxs.any (fun c => c.2.entries.any (fun e =>
    e.opcode == 0x0005 && e.phase == .running && e.asked && decide (({ ctx := c.1, ring := e.ring, seq := e.seq } : CmdId) ≠ id)))

/-- Steps 1 to 3 of R474: the reset runs from then on. -/
def beginReset (id : CmdId) (kind index : Nat) (s : State) : State :=
  (quiesceScope id kind index (stopSelftest s)).updEntry id (fun e => { e with asked := true })

/-- SYS_RESET: the scope must name a unit in service; one withdrawn while the reset runs is left out of it (R475). The reset waits until the stores of the scope's Ultur cores, which issue no more,
have drained (03 R129). Its own completion record is written before the scope is reset (R474); while the completion ring has no room
for it, the reset waits (log 24). -/
def execSysReset (id : CmdId) (s : State) : Host.Outcome State Fault Refusal :=
  match s.entry? id with
  | none => .next s
  | some e =>
    let scope := fieldOf e.pkt 0x20 2
    let kind := scope % 8
    let index := scope / 8
    let up := scopeOk kind index && s.scopeUp kind index
    if e.phase != .running || e.opcode != 0x0005 || s.resetRuns id then .next s
    else if !e.asked && !up then .next (finishWith id (.of sAbsent) s)
    else
      let s := beginReset id kind index s
      if !s.scopeDrained kind index then .next s else
      let s' := finishEntry id (finishWith id (.of sOk) s)
      if (s'.entry? id).isSome then .next s else .next (if up then resetScope scope kind index s' else resetDone scope s')

/-! ### SYS_SELFTEST (15 R476 to R478) -/

/-- In exclusive form the Sill test follows the demotion of every unpinned placed page; edges and links of the scope retrain (15 R476). -/
def exclusiveWork (d : CtxDesc) (tests : Nat) (s : State) : State :=
  let wide := d.kind != 1
  let hit (g : TierPage) : Bool := wide && g.placed && g.pin.isNone && g.slots.any (fun x => inScope d x.sill)
  let edges (s : State) : List Nat := (upTo 14).filter (fun e => wide && (edgeTiles s.variant e).any (inScope d))
  let s := if bit tests 4 then ((s.pages.filter (fun e => hit e.2)).map (fun e => e.1)).foldl State.demoteNow s else s
  let s := if bit tests 6 then
      (edges s).foldl (fun s e => let s := after s (hingeCtrlWrite e s); after s (execHingeRetrainDone e s)) s
    else s
  if bit tests 7 then ((upTo 32).filter (fun k => wide && inScope d (k / 4))).foldl (fun s k => after s (execLinkRetrain k s)) s else s

/-- Other members of a gang run the tests too; what they count is free. -/
def memberCounts : List Nat → Nat × Nat → State → (Nat × Nat) × State
  | [], c, s => (c, s)
  | _ :: ms, (a, b), s =>
    let (v, s) := s.draw
    let (w, s) := s.draw
    let n := v % 2 ^ 16
    memberCounts ms (a + n, b + w % (n + 1)) s

/-- Run the tests and complete. -/
def runTests (id : CmdId) (d : CtxDesc) (excl : Bool) (tests : Nat) (rs : List TestResult) (s : State) : State :=
  let s := if excl then exclusiveWork d tests s else s
  let rs := countedResults s d excl tests rs
  let ran := rs.filter (fun r => !r.notRun)
  let others := if d.kind = 4 then (s.gangMembers d.index).filter (fun m => !s.isSelf m) else []
  let s := rs.foldl (takeResult excl) s
  let ((a, b), s) := memberCounts others (ran.length, (ran.filter (fun r => r.failed)).length) s
  finishWith id ⟨sOk, 0, a % 2 ^ 32, b % 2 ^ 32⟩ s

/-- No command of a scope is unfinished but this one. -/
def drained (id : CmdId) (s : State) : Bool :=
  s.ctxs.all (fun c => !sharesCores c.2.desc (s.ctx id.ctx).desc ||
    c.2.entries.all (fun e => e.isFinished || decide (({ ctx := c.1, ring := e.ring, seq := e.seq } : CmdId) = id)))

/-- SYS_SELFTEST: one runs at a time. In exclusive mode acceptance stops and the scope drains before the tests run. -/
def execSysSelftest (id : CmdId) (rs : List TestResult) (s : State) : Host.Outcome State Fault Refusal :=
  match s.entry? id with
  | none => .next s
  | some e =>
    let d := (s.ctx id.ctx).desc
    let excl := fieldOf e.pkt 0x20 1 == 1
    let tests := fieldOf e.pkt 0x24 4
    if e.phase != .running || e.opcode != 0x0003 || s.selftest.any (fun x => x.cmd != id) then .next s
    else if excl && !drained id s then
      if s.selftest.isSome then .next s
      else .next { s with selftest := some ⟨id, s.now + s.stCtrl * 1000000⟩ }
    else .next (runTests id d excl tests rs s)

/-- SELFTEST_DRAIN_TIMEOUT: DRAIN_MS after it began to drain, the commands that remain in the scope are discarded. -/
def execSelftestDrainTimeout (s : State) : Host.Outcome State Fault Refusal :=
  match s.selftest with
  | none => .next s
  | some x =>
    let s := advanceTo x.deadline s
    let d := (s.ctx x.cmd.ctx).desc
    .next (discardOthers x.cmd (fun n => sharesCores (s.ctx n).desc d) s)

end Sys2Proof.Machine
end

