-- ==== Sys2Proof/Machine/Dispatch.lean ====
section
/-! DEFINITION. One arm per command. -/

namespace Sys2Proof.Machine

/-- The effect of a command on everything but the queue. -/
def exec (i : Instr) (s : State) : Host.Outcome State Fault Refusal :=
  match i with
  | .enable ctx => Sys2Proof.Machine.execEnable ctx s
  | .disable ctx => Sys2Proof.Machine.execDisable ctx s
  | .terminate ctx => Sys2Proof.Machine.execTerminate ctx s
  | .doorbell ctx ring width value => Sys2Proof.Machine.execDoorbell ctx ring width value s
  | .packetFetch => Sys2Proof.Machine.execPacketFetch s
  | .slotReread ctx ring => Sys2Proof.Machine.execSlotReread ctx ring s
  | .descBlockReread ctx ring => Sys2Proof.Machine.execDescBlockReread ctx ring s
  | .progImageReread ctx ring => Sys2Proof.Machine.execProgImageReread ctx ring s
  | .releaseTime id => Sys2Proof.Machine.execReleaseTime id s
  | .commandDispatch id tile core => Sys2Proof.Machine.execCommandDispatch id tile core s
  | .preemptRelease tile core => Sys2Proof.Machine.execPreemptRelease tile core s
  | .instanceStart id idx tile core => Sys2Proof.Machine.execInstanceStart id idx tile core s
  | .instanceEnd tile core => Sys2Proof.Machine.execInstanceEnd tile core s
  | .tileOpComplete tile core eng => Sys2Proof.Machine.execTileOpComplete tile core eng s
  | .progTokenWaitSatisfied tile core => Sys2Proof.Machine.execProgTokenWaitSatisfied tile core s
  | .progTokenHoldTimeout tile core => Sys2Proof.Machine.execProgTokenHoldTimeout tile core s
  | .tileStepWait tile core eng => Sys2Proof.Machine.execTileStepWait tile core eng s
  | .commandFinish id => Sys2Proof.Machine.execCommandFinish id s
  | .tokenWaitTimeout id => Sys2Proof.Machine.execTokenWaitTimeout id s
  | .dbCqHeadWrite ctx value => Sys2Proof.Machine.execDbCqHeadWrite ctx value s
  | .dbCqArmWrite ctx value => Sys2Proof.Machine.execDbCqArmWrite ctx value s
  | .registerWrite via off width value => Sys2Proof.Machine.execRegisterWrite via off width value s
  | .registerReadClear via off width => Sys2Proof.Machine.execRegisterReadClear via off width s
  | .shutterNarrowStore off width value => Sys2Proof.Machine.execShutterNarrowStore off width value s
  | .sysNop id => Sys2Proof.Machine.execSysNop id s
  | .sysTokenSet id => Sys2Proof.Machine.execSysTokenSet id s
  | .sysSelftest id results => Sys2Proof.Machine.execSysSelftest id results s
  | .selftestDrainTimeout => Sys2Proof.Machine.execSelftestDrainTimeout s
  | .sysReset id => Sys2Proof.Machine.execSysReset id s
  | .segSync id => Sys2Proof.Machine.execSegSync id s
  | .progRun id => Sys2Proof.Machine.execProgRun id s
  | .progNop tile core => Sys2Proof.Machine.execProgNop tile core s
  | .progLoop tile core => Sys2Proof.Machine.execProgLoop tile core s
  | .progEndloop tile core => Sys2Proof.Machine.execProgEndloop tile core s
  | .progDrain tile core => Sys2Proof.Machine.execProgDrain tile core s
  | .movLoad tile core => Sys2Proof.Machine.execMovLoad tile core s
  | .movStore tile core => Sys2Proof.Machine.execMovStore tile core s
  | .movCopy tile core => Sys2Proof.Machine.execMovCopy tile core s
  | .movLs tile core => Sys2Proof.Machine.execMovLs tile core s
  | .movZero tile core => Sys2Proof.Machine.execMovZero tile core s
  | .mxWload tile core => Sys2Proof.Machine.execMxWload tile core s
  | .mxStream tile core => Sys2Proof.Machine.execMxStream tile core s
  | .streamSwap tile core => Sys2Proof.Machine.execStreamSwap tile core s
  | .vxEw tile core => Sys2Proof.Machine.execVxEw tile core s
  | .vxFunc tile core => Sys2Proof.Machine.execVxFunc tile core s
  | .vxCmp tile core => Sys2Proof.Machine.execVxCmp tile core s
  | .vxSelect tile core => Sys2Proof.Machine.execVxSelect tile core s
  | .vxCvt tile core => Sys2Proof.Machine.execVxCvt tile core s
  | .vxReduce tile core => Sys2Proof.Machine.execVxReduce tile core s
  | .vxNorm tile core => Sys2Proof.Machine.execVxNorm tile core s
  | .vxSoftmax tile core => Sys2Proof.Machine.execVxSoftmax tile core s
  | .vxAttarSum tile core => Sys2Proof.Machine.execVxAttarSum tile core s
  | .vxAttarFrom tile core => Sys2Proof.Machine.execVxAttarFrom tile core s
  | .vxAttarRound tile core => Sys2Proof.Machine.execVxAttarRound tile core s
  | .gaGather tile core => Sys2Proof.Machine.execGaGather tile core s
  | .gaBag tile core => Sys2Proof.Machine.execGaBag tile core s
  | .gaScatterAdd tile core => Sys2Proof.Machine.execGaScatterAdd tile core s
  | .gaScatter tile core => Sys2Proof.Machine.execGaScatter tile core s
  | .rowArrival tile core pos => Sys2Proof.Machine.execRowArrival tile core pos s
  | .runAheadRead tile core pos => Sys2Proof.Machine.execRunAheadRead tile core pos s
  | .remoteGatherRequest src addr len => Sys2Proof.Machine.execRemoteGatherRequest src addr len s
  | .accumulateApply k => Sys2Proof.Machine.execAccumulateApply k s
  | .paneCheckFault tile core => Sys2Proof.Machine.execPaneCheckFault tile core s
  | .louvreSlot tile => Sys2Proof.Machine.execLouvreSlot tile s
  | .issueLimitStep tile core => Sys2Proof.Machine.execIssueLimitStep tile core s
  | .keepWarmGap tile core rows => Sys2Proof.Machine.execKeepWarmGap tile core rows s
  | .coreCold tile core => Sys2Proof.Machine.execCoreCold tile core s
  | .redAllreduce r faults => Sys2Proof.Machine.execRedAllreduce r faults s
  | .redReduceScatter r faults => Sys2Proof.Machine.execRedReduceScatter r faults s
  | .redAllgather r => Sys2Proof.Machine.execRedAllgather r s
  | .redAlltoall r => Sys2Proof.Machine.execRedAlltoall r s
  | .redBarrier r => Sys2Proof.Machine.execRedBarrier r s
  | .unitFence u => Sys2Proof.Machine.execUnitFence u s
  | .tierLayerSchedule id => Sys2Proof.Machine.execTierLayerSchedule id s
  | .tierQuota id => Sys2Proof.Machine.execTierQuota id s
  | .tierPin id => Sys2Proof.Machine.execTierPin id s
  | .tierUnpin id => Sys2Proof.Machine.execTierUnpin id s
  | .tierEvict id => Sys2Proof.Machine.execTierEvict id s
  | .tierPrefetch id => Sys2Proof.Machine.execTierPrefetch id s
  | .heatDecay => Sys2Proof.Machine.execHeatDecay s
  | .tierScan => Sys2Proof.Machine.execTierScan s
  | .migrationCopy page => Sys2Proof.Machine.execMigrationCopy page s
  | .migrationFreeze page => Sys2Proof.Machine.execMigrationFreeze page s
  | .staleEpochForward addr epoch data => Sys2Proof.Machine.execStaleEpochForward addr epoch data s
  | .directPageRelease page => Sys2Proof.Machine.execDirectPageRelease page s
  | .hbmTempRead stack temp => Sys2Proof.Machine.execHbmTempRead stack temp s
  | .hbmReadServe stack pc errs => Sys2Proof.Machine.execHbmReadServe stack pc errs s
  | .readAgePromote stack pc => Sys2Proof.Machine.execReadAgePromote stack pc s
  | .writeQueueEnter addr data => Sys2Proof.Machine.execWriteQueueEnter addr data s
  | .scrubRead addr errs => Sys2Proof.Machine.execScrubRead addr errs s
  | .granuleMove granule => Sys2Proof.Machine.execGranuleMove granule s
  | .recalibration stack pc cause => Sys2Proof.Machine.execRecalibration stack pc cause s
  | .recalibrationDone stack pc margin => Sys2Proof.Machine.execRecalibrationDone stack pc margin s
  | .mapoutGranuleStep stack => Sys2Proof.Machine.execMapoutGranuleStep stack s
  | .hostLoad tile ucore addr width kind => Sys2Proof.Machine.execHostLoad tile ucore addr width kind s
  | .hostStore tile ucore addr width kind value => Sys2Proof.Machine.execHostStore tile ucore addr width kind value s
  | .storeDrain tile ucore => Sys2Proof.Machine.execStoreDrain tile ucore s
  | .writeAck tile ucore k => Sys2Proof.Machine.execWriteAck tile ucore k s
  | .fence tile ucore predW predO => Sys2Proof.Machine.execFence tile ucore predW predO s
  | .completionTimeout who => Sys2Proof.Machine.execCompletionTimeout who s
  | .uberrInfoWrite tile ucore value => Sys2Proof.Machine.execUberrInfoWrite tile ucore value s
  | .flitReceive link flit => Sys2Proof.Machine.execFlitReceive link flit s
  | .nakReceive link seq => Sys2Proof.Machine.execNakReceive link seq s
  | .linkSilenceTimeout link => Sys2Proof.Machine.execLinkSilenceTimeout link s
  | .linkTrainingRetry link signal => Sys2Proof.Machine.execLinkTrainingRetry link signal s
  | .linkTrainingDone link peer => Sys2Proof.Machine.execLinkTrainingDone link peer s
  | .linkRetrain link => Sys2Proof.Machine.execLinkRetrain link s
  | .linkEnable link on => Sys2Proof.Machine.execLinkEnable link on s
  | .wavelengthFailure link wave => Sys2Proof.Machine.execWavelengthFailure link wave s
  | .laserDrain module on => Sys2Proof.Machine.execLaserDrain module on s
  | .laserDrained module => Sys2Proof.Machine.execLaserDrained module s
  | .laserModuleInsert module sources => Sys2Proof.Machine.execLaserModuleInsert module sources s
  | .laserModuleRemove module => Sys2Proof.Machine.execLaserModuleRemove module s
  | .messageForward msg => Sys2Proof.Machine.execMessageForward msg s
  | .remoteRequest src seq req => Sys2Proof.Machine.execRemoteRequest src seq req s
  | .gangSend answer => Sys2Proof.Machine.execGangSend answer s
  | .assign link msg => Sys2Proof.Machine.execAssign link msg s
  | .unassign link msg => Sys2Proof.Machine.execUnassign link msg s
  | .route link msg => Sys2Proof.Machine.execRoute link msg s
  | .form link msg => Sys2Proof.Machine.execForm link msg s
  | .formEnd link msg => Sys2Proof.Machine.execFormEnd link msg s
  | .join link msg => Sys2Proof.Machine.execJoin link msg s
  | .leave link msg => Sys2Proof.Machine.execLeave link msg s
  | .leaveEffect level pkg => Sys2Proof.Machine.execLeaveEffect level pkg s
  | .dissolve link msg => Sys2Proof.Machine.execDissolve link msg s
  | .query link msg => Sys2Proof.Machine.execQuery link msg s
  | .reply link msg => Sys2Proof.Machine.execReply link msg s
  | .down link msg => Sys2Proof.Machine.execDown link msg s
  | .ready link msg => Sys2Proof.Machine.execReady link msg s
  | .timeMark id => Sys2Proof.Machine.execTimeMark id s
  | .timeSource id reference => Sys2Proof.Machine.execTimeSource id reference s
  | .ppsEdge stamp => Sys2Proof.Machine.execPpsEdge stamp s
  | .ref10mLoss => Sys2Proof.Machine.execRef10mLoss s
  | .ppsMissing => Sys2Proof.Machine.execPpsMissing s
  | .ptpSync link sync => Sys2Proof.Machine.execPtpSync link sync s
  | .ptpSyncLoss => Sys2Proof.Machine.execPtpSyncLoss s
  | .ptpAnnounce => Sys2Proof.Machine.execPtpAnnounce s
  | .ptmDialogue port master => Sys2Proof.Machine.execPtmDialogue port master s
  | .holdoverExpire => Sys2Proof.Machine.execHoldoverExpire s
  | .timEpochWrite value => Sys2Proof.Machine.execTimEpochWrite value s
  | .ppsOutPulse => Sys2Proof.Machine.execPpsOutPulse s
  | .hostTlp port tlp => Sys2Proof.Machine.execHostTlp port tlp s
  | .hostDown port => Sys2Proof.Machine.execHostDown port s
  | .hostLinkLossTimeout port => Sys2Proof.Machine.execHostLinkLossTimeout port s
  | .vfFlr port vf => Sys2Proof.Machine.execVfFlr port vf s
  | .pcieEvtWrite port value => Sys2Proof.Machine.execPcieEvtWrite port value s
  | .laneFailure edge dir lane => Sys2Proof.Machine.execLaneFailure edge dir lane s
  | .hingeRetrain edge attributed => Sys2Proof.Machine.execHingeRetrain edge attributed s
  | .hingeCtrlRetrain edge => Sys2Proof.Machine.execHingeCtrlRetrain edge s
  | .powerMeasure buses => Sys2Proof.Machine.execPowerMeasure buses s
  | .powerControl model => Sys2Proof.Machine.execPowerControl model s
  | .powerSecond => Sys2Proof.Machine.execPowerSecond s
  | .pwrLimit id => Sys2Proof.Machine.execPwrLimit id s
  | .pwrIdle id => Sys2Proof.Machine.execPwrIdle id s
  | .pwrBmcCapWrite via off value => Sys2Proof.Machine.execPwrBmcCapWrite via off value s
  | .thermalRead tile sill die => Sys2Proof.Machine.execThermalRead tile sill die s
  | .currentGuardTrip tile => Sys2Proof.Machine.execCurrentGuardTrip tile s
  | .currentGuardEnd tile => Sys2Proof.Machine.execCurrentGuardEnd tile s
  | .domainPowerGood dom => Sys2Proof.Machine.execDomainPowerGood dom s
  | .domainLost dom => Sys2Proof.Machine.execDomainLost dom s
  | .pkgReset lowNs taken => Sys2Proof.Machine.execPkgReset lowNs taken s
  | .startStage env => Sys2Proof.Machine.execStartStage env s
  | .startStageTimeout => Sys2Proof.Machine.execStartStageTimeout s
  | .startRetry => Sys2Proof.Machine.execStartRetry s
  | .watchdog => Sys2Proof.Machine.execWatchdog s
  | .stewardRestart ctxs => Sys2Proof.Machine.execStewardRestart ctxs s
  | .clear => Sys2Proof.Machine.execClear s
  | .restart => Sys2Proof.Machine.execRestart s
  | .fwUpdateStart img => Sys2Proof.Machine.execFwUpdateStart img s
  | .fwUpdateDone ok => Sys2Proof.Machine.execFwUpdateDone ok s
  | .commit => Sys2Proof.Machine.execCommit s
  | .mrExtend value => Sys2Proof.Machine.execMrExtend value s
  | .secAttest id => Sys2Proof.Machine.execSecAttest id s
  | .secCert id => Sys2Proof.Machine.execSecCert id s
  | .fltHeadWrite value => Sys2Proof.Machine.execFltHeadWrite value s
  | .i3cPrivateWrite addr offset data => Sys2Proof.Machine.execI3cPrivateWrite addr offset data s
  | .i3cPrivateRead addr => Sys2Proof.Machine.execI3cPrivateRead addr s
  | .entdaa addr => Sys2Proof.Machine.execEntdaa addr s
  | .setdasa static addr => Sys2Proof.Machine.execSetdasa static addr s
  | .setnewda old addr => Sys2Proof.Machine.execSetnewda old addr s
  | .bypass die => Sys2Proof.Machine.execBypass die s
  | .idcode die => Sys2Proof.Machine.execIdcode die s
  | .samplePreload die pins preload => Sys2Proof.Machine.execSamplePreload die pins preload s
  | .extest die => Sys2Proof.Machine.execExtest die s
  | .extestPulse die => Sys2Proof.Machine.execExtestPulse die s
  | .extestTrain die => Sys2Proof.Machine.execExtestTrain die s
  | .shardMapReread ctx ring => Sys2Proof.Machine.execShardMapReread ctx ring s
  | .hingeRetrainDone edge => Sys2Proof.Machine.execHingeRetrainDone edge s
  | .pcieLinkUp port speed width cxl => Sys2Proof.Machine.execPcieLinkUp port speed width cxl s
  | .ulturMachineCheck tile ucore => Sys2Proof.Machine.execUlturMachineCheck tile ucore s
  | .degradingErrorRate stack pc => Sys2Proof.Machine.execDegradingErrorRate stack pc s

end Sys2Proof.Machine
end

