-- ==== Sys2Proof/Safety.lean ====
section
/-! DEFINITION. The terms that statements use: what a command answers, commands at work, and the canonical form of a
state. -/

namespace Sys2Proof

open Machine

/-- The outcome is a next state: what counts as a safe step. -/
def Completes (o : Host.Outcome State Fault Refusal) : Prop := ∃ t, o = .next t

/-- The command answers a next state of which `P` holds. -/
def Answers (i : Instr) (s : State) (P : State → Prop) : Prop := ∃ t, exec i s = .next t ∧ P t

namespace Machine

/-- Every table and memory of the state is in its one canonical form, so that equal contents are equal data, and there are eight
measurement registers. -/
structure State.Canonical (s : State) : Prop where
  mem : Memory.wf s.mem = true
  stale : Memory.wf s.stale = true
  ctxs : Table.wf ({} : Ctx) s.ctxs = true
  privs : Table.wf 0 s.privs = true
  gens : Table.wf 0 s.gens = true
  cores : Table.wf ({} : Core) s.cores = true
  tiles : Table.wf ({} : Tile) s.tiles = true
  pages : Table.wf ({} : TierPage) s.pages = true
  direct : Table.wf (none : Option DirectPage) s.direct = true
  sills : Table.wf ({} : Sill) s.sills = true
  hbm : Table.wf ({} : Stack) s.hbm = true
  ucores : Table.wf ({} : UCore) s.ucores = true
  links : Table.wf ({} : Link) s.links = true
  lasers : Table.wf ({} : Laser) s.lasers = true
  peers : Table.wf ({} : Peer) s.peers = true
  ports : Table.wf ({} : Port) s.ports = true
  edges : Table.wf ({} : Edge) s.edges = true
  tilePower : Table.wf ({} : TilePower) s.tilePower = true
  strikes : Table.wf 0 s.strikes = true
  mrs : s.start.mrs.length = 8

/-- A dispatched command of opcode `op` at work: its entry. -/
def Running (s : State) (id : CmdId) (op : Nat) (e : Entry) : Prop :=
  s.entry? id = some e ∧ e.phase = .running ∧ e.opcode = op

/-- The core runs an instance of a command that goes on, and its next word is `w`, an op `op`. -/
structure AtWord (s : State) (t c op : Nat) (i : Inst) (e : Entry) (w : List Byte) : Prop where
  run : (s.core t c).run = some i
  entry : s.entry? i.cmd = some e
  word : e.image.words[i.pc]? = some w
  opcode : wordOp w = op
  state : (s.core t c).state = .running
  phase : e.phase = .running
  sound : e.failure = none

/-- LATE of a command as it is dispatched: it was late, or a gang reduction with a release time starts 64 ns after it (11 R376). -/
def lateNow (s : State) (n : Nat) (e : Entry) : Bool :=
  e.late || (decide (0x1801 ≤ e.opcode) && decide (e.opcode ≤ 0x1805) && (s.ctx n).desc.kind == 4 && e.relEn &&
    decide (e.release + 64 ≤ s.now))

/-- A core runs an instance of a command. -/
structure Runs (s : State) (t c : Nat) (i : Inst) (e : Entry) : Prop where
  run : (s.core t c).run = some i
  entry : s.entry? i.cmd = some e
  state : (s.core t c).state = .running

/-- Nothing holds the sequencer's own word `w`: the token it waits on is taken, and the token it signals has room (04 R140). -/
def MayPass (i : Inst) (w : List Byte) : Prop :=
  (wordWaitEn w = true → wordStep w = true ∨ i.taken = true) ∧ (wordSigEn w = true → i.token (wordSig w) < 65535)

/-- The run after its word `w` has passed: every earlier op is over after a PROG_DRAIN, and the token of `w`, if it signals one, has one
count more, which tells what is over (04 R140, R141). -/
def signalled (i : Inst) (w : List Byte) : Inst :=
  let i := if wordOp w = 0x2004 then i.drained else i
  if wordSigEn w then i.signal (wordSig w) i.known else i

/-- Where no earlier op of the engine waits to start, the word at the run's place, an op `op` with its token taken and room in
its engine's queue, issues to the queue and starts if its turn has come (04 R139; 07 R227). -/
def IssuesTo (mk : Nat → Nat → Instr) (op : Nat) (m : OpImpl) : Prop :=
  ∀ (t c : Nat) (i : Inst) (e : Entry) (w : List Byte) (s : State), AtWord s t c op i e w →
    m.ready op (s.core t c) i e.image.words = none →
    (wordWaitEn w = true → wordStep w = true ∨ i.taken = true) → i.queued m.eng < 8 →
    exec (mk t c) s = .next ((tryStart op m t c (pushOp m t c ⟨s.core t c, i, e, w⟩ s)).settleCore t c)

/-- An op `op` at the head of its engine's queue whose turn has come starts, and does its work, where its writes find room in the write queues
(04 R139; 10 R330). -/
def StartsFrom (mk : Nat → Nat → Instr) (op : Nat) (m : OpImpl) : Prop :=
  ∀ (t c : Nat) (i : Inst) (e : Entry) (o : OpRec) (s : State), Runs s t c i e → e.phase = .running →
    m.ready op (s.core t c) i e.image.words = some o → (startOp m t c (s.core t c) i e o s).overfull = false →
    exec (mk t c) s = .next ((startOp m t c (s.core t c) i e o s).settleCore t c)

/-- A reduction or copy at work asks for the lines it reads, once, and waits while one of them has not been served; when all are served and
the writes of its work `f` find room, it finishes with what `f` gives (11 R355 to R366; 10 R328 to R330). -/
def Reduces (mk : RedAt → Instr) (op : Nat) (f : RedRun → State × CmdResult) : Prop :=
  ∀ (r : RedAt) (e : Entry) (s u : State), Running s r.id op e → u = askReads r.id e (markLate r e s) →
    (e.asked = true → u = markLate r e s) ∧
    (u.readsFor r.id = true → exec (mk r) s = .next u) ∧
    (∀ q, u.readsFor r.id = false → q = f { s := u, id := r.id, e } → q.1.overfull = false →
      exec (mk r) s = .next (finishWith r.id q.2 q.1))

/-- A pseudo-channel as its recalibration starts at time `t` (10 R343, R352). -/
def startRecal (s : State) (n t : Nat) (q : Pc) : Pc :=
  { q with state := .recalibrating, before := q.state, recals := satAdd 8 q.recals 1, lastCal := some t, calTemp := (s.stack n).temp }

/-- A grouping of attars to be added, in an order (05 R177). -/
inductive SumTree where
  | leaf (x : Attar)
  | node (l r : SumTree)
  deriving DecidableEq, Repr

/-- The sum that adders form by R175 in this grouping and order. -/
def SumTree.sum : SumTree → Attar
  | .leaf x => x
  | .node l r => Attar.add l.sum r.sum

/-- The attars that contribute. -/
def SumTree.leaves : SumTree → List Attar
  | .leaf x => [x]
  | .node l r => l.leaves ++ r.leaves

/-- The exact sum of the numeric leaves. -/
def SumTree.exact : SumTree → Int
  | .leaf (.num w) => w
  | .leaf _ => 0
  | .node l r => l.exact + r.exact

/-- No numeric partial sum of the grouping overflows. -/
def SumTree.fits : SumTree → Prop
  | .leaf x => (SumTree.leaf x).exact.natAbs ≤ 2 ^ 127 - 2
  | .node l r => l.fits ∧ r.fits ∧ (SumTree.node l r).exact.natAbs ≤ 2 ^ 127 - 2

/-- A finite term: below 2⁹⁶ in magnitude (05 R173). -/
def Attar.isTerm : Attar → Prop
  | .num w => w.natAbs < 2 ^ 96
  | _ => True

end Machine

end Sys2Proof
end

