-- ==== Sys2Proof/Certificates/Slice0/Obligations.lean ====
section
/-! DEFINITION. The statements for the provers: what each command answers and leaves unchanged, the invariants that every step
keeps, and rules of the spec, one by one. -/

open Sys2Proof Sys2Proof.Machine

/-! ### The block: its queue, its clock and its invariants -/

/-- A step takes the command at the front of the queue and runs it with the queue's rest. -/
def Obligations.StepRunsFrontCommand : Prop :=
  ∀ (c : Instr) (rest : List Instr) (s : State), s.pending = c :: rest → step s = exec c { s with pending := rest }

/-- With no command waiting a step lets one AC cycle pass (log 9, the model's choice) and changes nothing else. At 1.3 GHz a
cycle is 10/13 ns, so that, with no correction pending, station time in thirteenths of a nanosecond grows by 10. -/
def Obligations.IdleStepIsOneCycle : Prop :=
  ∀ s : State, s.pending = [] → ∃ t, step s = .next t ∧ t = { s with clk := t.clk } ∧ t.clk.ac = s.clk.ac + 1 ∧
    (s.clk.slew = 0 → s.clk.sub < 13 → s.clk.now + 1 < 2 ^ 64 →
      13 * t.clk.now + t.clk.sub = 13 * s.clk.now + s.clk.sub + 10 ∧ t.clk.sub < 13 ∧ t.clk.slew = 0)

/-- Every command answers a next state in every state: none stops the machine. -/
def Obligations.EveryCommandAnswers : Prop := ∀ (i : Instr) (s : State), ∃ t, exec i s = .next t

/-- No command touches the queue of waiting commands or changes which variant the package is. -/
def Obligations.CommandsKeepQueueAndVariant : Prop :=
  ∀ (i : Instr) (s t : State), exec i s = .next t → t.pending = s.pending ∧ t.variant = s.variant

/-- Every step keeps every table and memory of the state in its one canonical form. -/
def Obligations.StepKeepsCanonicalForm : Prop := ∀ s t : State, s.Canonical → step s = .next t → t.Canonical

/-- The state after reset has the canonical form. -/
def Obligations.ResetIsCanonical : Prop :=
  State.reset.Canonical

/-- Registers that the spec gives a reset value, as software reads them right after reset: SYS_CPL_TIMEOUT 10,000 µs, RED_CFG 8,
SYS_ST_CTRL 100, TIER_CFG 0x1932_0840, TIER_SCHED_AHEAD 0x2_0002, TIM_HOLD 1,000, and the class 4 of station time that is not
set; memory lists nothing, no context is enabled, no core is in service and no command waits. -/
def Obligations.ResetRegisters : Prop :=
  State.reset.cplTimeout = 10000 ∧ State.reset.redCfg = 8 ∧ State.reset.stCtrl = 100 ∧ State.reset.tierCfg = 0x19320840 ∧
  State.reset.schedAhead = 0x20002 ∧ State.reset.time.hold = 1000 ∧ State.reset.time.priority = 128 ∧
  State.reset.time.syncLog = 7 ∧ State.reset.time.cls = .unset ∧ State.reset.flt.classEn = 0 ∧ State.reset.mem = [] ∧
  (∀ n, (State.reset.ctx n).phase = .disabled) ∧ (∀ t c, (State.reset.core t c).inService = false) ∧
  State.reset.pending = []

/-! ### Contexts (chapter 02) -/

/-- ENABLE, DISABLE and TERMINATE take effect where the control block is free and the package is in service: an ENABLE that
passes every check enables the context with what its descriptor says and RESULT 0; one that fails a check reports which and
changes nothing else; DISABLE of an enabled context and TERMINATE of one not disabled give RESULT 0. -/
def Obligations.ContextControlCompletes : Prop :=
  (∀ (n : Nat) (s s' : State), ctxCmdIgnored s = false → s.start.phase = .ready → enableResult s n = none →
    claimMirror n (CtxDesc.parse (s.peek (bits s.ctxTable 55 20 * 2 ^ 20 + 1024 * n) 1024)) s = some s' →
    exec (.enable n) s = .next (setCtxStat n 1 0 false (drainHeld n (s'.ctx n).held.length
      (assignSteward n (s'.updCtx n (enabledCtx (s.peek (bits s.ctxTable 55 20 * 2 ^ 20 + 1024 * n) 1024))))))) ∧
  (∀ (n r : Nat) (s : State), ctxCmdIgnored s = false → s.start.phase = .ready → enableResult s n = some r →
    exec (.enable n) s = .next { s with ctxStat := ctxStatOf n 1 r false }) ∧
  (∀ (n : Nat) (s : State), ctxCmdIgnored s = false → (s.ctx n).phase = .enabled →
    exec (.disable n) s = .next (settleDisable n (setCtxStat n 2 0 true (s.updCtx n (fun c => { c with phase := .disabling }))))) ∧
  (∀ (n : Nat) (s : State), ctxCmdIgnored s = false → (s.ctx n).phase ≠ .disabled →
    exec (.terminate n) s = .next (terminateCtx n (setCtxStat n 3 0 false s)))

/-- TERMINATE disables the context, and each of its commands has then finished: as it had before, or with S_DISCARDED. -/
def Obligations.TerminateDiscards : Prop :=
  ∀ (n : Nat) (s t : State), s.Canonical → ctxCmdIgnored s = false → (s.ctx n).phase ≠ .disabled →
    exec (.terminate n) s = .next t →
    (t.ctx n).phase = .disabled ∧ ∀ e ∈ (t.ctx n).entries, e.phase = .finished ⟨sDiscarded, 0, 0, 0⟩ ∨
      ∃ f ∈ (s.ctx n).entries, f.isFinished = true ∧ f.phase = e.phase ∧ f.ring = e.ring ∧ f.seq = e.seq

/-- A doorbell write of 4 or 8 bytes to an enabled ring records the tail where it is in range, and otherwise raises TAIL_RANGE
and leaves the tail; a DB_CQ_HEAD write in range moves the head and writes held records, and one out of range raises CQ_RANGE; a
DB_CQ_ARM write arms one message. -/
def Obligations.DoorbellsComplete : Prop :=
  (∀ (n r w : Nat) (v : Word) (s : State), 4 ≤ w → (s.ctx n).phase = .enabled → ((s.ctx n).ring r).en = true →
    (v.setWidth 32 - ((s.ctx n).ring r).head).toNat ≤ 2 ^ ((s.ctx n).ring r).log2 →
    exec (.doorbell n r w v) s = .next (updRing n r (Ring.bell (v.setWidth 32)) s)) ∧
  (∀ (n r w : Nat) (v : Word) (s : State), 4 ≤ w → (s.ctx n).phase = .enabled → ((s.ctx n).ring r).en = true →
    2 ^ ((s.ctx n).ring r).log2 < (v.setWidth 32 - ((s.ctx n).ring r).head).toNat →
    exec (.doorbell n r w v) s = .next (raiseEvent n (16 + r) s)) ∧
  (∀ (n : Nat) (v : Word) (s : State), (v.setWidth 32 - (s.ctx n).cqHead).toNat ≤ ((s.ctx n).cqTail - (s.ctx n).cqHead).toNat →
    exec (.dbCqHeadWrite n v) s = .next (drainHeld n ((s.ctx n).freedBy (v.setWidth 32)) (s.updCtx n (fun c => { c with cqHead := v.setWidth 32 })))) ∧
  (∀ (n : Nat) (v : Word) (s : State), ((s.ctx n).cqTail - (s.ctx n).cqHead).toNat < (v.setWidth 32 - (s.ctx n).cqHead).toNat →
    exec (.dbCqHeadWrite n v) s = .next (raiseEvent n 34 s)) ∧
  (∀ (n : Nat) (v : Word) (s : State),
    exec (.dbCqArmWrite n v) s = .next (completionMsg n false (s.updCtx n (fun c => { c with cqArm := v.setWidth 32, armed := true }))))

/-- The fetcher serves the ring whose turn it is while the package's window has room, and goes on to the next context and ring;
a slot, the descriptor blocks, the image or the shard maps of a packet are read again while the context is served. What serving
a slot does: an invalid slot is read again up to 8 times and then stops its ring with AHEAD; a slot that cannot be read
terminates the context; a valid packet is put through acceptance. -/
def Obligations.FetchingCompletes : Prop :=
  ((∀ (n r : Nat) (s : State), s.window < 4096 → s.turn = some (n, r) →
      exec .packetFetch s = .next (serveSlot n r 0
        (State.updCtx { s with nextCtx := n + 1 } n (fun c => { c with nextRing := (r + 1) % 16 })))) ∧
    (∀ (n r k : Nat) (s : State), ((s.ctx n).ring r).fetch = .slot k → mayReread s n = true →
      exec (.slotReread n r) s = .next (serveSlot n r (k + 1) s)) ∧
    (∀ (n r k : Nat) (pkt : List Byte) (kept : List (List Byte)) (maps : Table (List Nat)) (s : State), mayReread s n = true →
      (((s.ctx n).ring r).fetch = .reread .desc k pkt kept maps →
        exec (.descBlockReread n r) s = .next (acceptPacket n r pkt kept maps .desc (k + 1) s)) ∧
      (((s.ctx n).ring r).fetch = .reread .image k pkt kept maps →
        exec (.progImageReread n r) s = .next (acceptPacket n r pkt kept maps .image (k + 1) s)) ∧
      (((s.ctx n).ring r).fetch = .reread .shardMap k pkt kept maps →
        exec (.shardMapReread n r) s = .next (acceptPacket n r pkt kept maps .shardMap (k + 1) s)))) ∧
  (∀ (n r k : Nat) (s u : State), u = s.noteRead .steward (slotAddr ((s.ctx n).ring r)) 64 →
      (∀ pkt, s.readMem (slotAddr ((s.ctx n).ring r)) 64 = .ok pkt → slotValid ((s.ctx n).ring r) pkt = true →
        serveSlot n r k s = acceptPacket n r pkt [] [] .desc 0 u) ∧
      (∀ pkt, s.readMem (slotAddr ((s.ctx n).ring r)) 64 = .ok pkt → slotValid ((s.ctx n).ring r) pkt = false → k < 8 →
        serveSlot n r k s = updRing n r (fun g => { g with fetch := .slot k }) u) ∧
      (∀ pkt, s.readMem (slotAddr ((s.ctx n).ring r)) 64 = .ok pkt → slotValid ((s.ctx n).ring r) pkt = false → 8 ≤ k →
        serveSlot n r k s = doorbellAhead n r u) ∧
      (∀ e, e ≠ .uncorrectable → s.readMem (slotAddr ((s.ctx n).ring r)) 64 = .error e →
        serveSlot n r k s = fltPost 7 2 r n (slotAddr ((s.ctx n).ring r)) ((s.ctx n).ring r).head.toNat e.kind (terminateCtx n u)))

/-- A waiting command is released at its time, is dispatched once it is ready and nothing goes before it, ends with S_TIMEOUT
when its wait reaches the limit, and leaves with its record once it has finished. -/
def Obligations.CommandLifeCompletes : Prop :=
  (∀ (id : CmdId) (e : Entry) (s : State), s.entry? id = some e → e.phase = .waiting → e.released = false →
    exec (.releaseTime id) s = .next (refreshWaits id.ctx ((advanceTo e.release s).updEntry id (fun e => { e with released := true })))) ∧
  (∀ (id : CmdId) (t c : Nat) (e : Entry) (s : State), s.entry? id = some e → e.phase = .waiting → e.readyAt.isSome = true →
    outranked s id.ctx e = false → tensorBusy (s.ctx id.ctx) e = false →
    exec (.commandDispatch id t c) s = .next (preemptFor id (t, c)
      (s.updEntry id (fun f => { f with phase := .running, late := lateNow s id.ctx e, startedAt := s.now })))) ∧
  (∀ (id : CmdId) (e : Entry) (s : State), s.entry? id = some e → e.phase = .waiting → e.waitEn = true → e.waitDone = none →
    (s.ctx id.ctx).desc.waitMs ≠ 0 →
    exec (.tokenWaitTimeout id) s = .next (raiseEvent id.ctx 33 (finishWith id (.of sTimeout)
      (advanceTo (e.accepted + (s.ctx id.ctx).desc.waitMs * 1000000) s)))) ∧
  (∀ (id : CmdId) (e : Entry) (r : CmdResult) (s : State), s.entry? id = some e → e.phase = .finished r → e.opcode ≠ 0x0401 →
    s.accsOf id = false → s.readsOfCmd id = false → (s.ctx id.ctx).held = [] → (s.ctx id.ctx).cqRoom = true →
    exec (.commandFinish id) s = .next (completeEntry id e r s)) ∧
  (∀ (id : CmdId) (e : Entry) (r : CmdResult) (s : State), s.entry? id = some e → e.phase = .finished r → e.opcode ≠ 0x0401 →
    s.accsOf id = false → s.readsOfCmd id = false →
    (s.ctx id.ctx).held = [] → (s.ctx id.ctx).cqRoom = false → (s.ctx id.ctx).cqLost = false →
    (e.quiet && r.status == sOk) = false →
    exec (.commandFinish id) s = .next (raiseEvent id.ctx 32 (s.updCtx id.ctx (fun c => { c with held := c.held ++ [(id.ring, id.seq)] }))))

/-! ### Commands that the stewards run (chapters 02, 03, 04, 09, 11, 12, 14, 15) -/

/-- A dispatched SYS_NOP and a dispatched TIME_MARK finish with S_OK and do nothing else; a RED_BARRIER does so once no command
of its context accepted before it is in flight. The four collectives that move data ask once for the lines of their ranks' slices and,
when those have been served, finish with the result of their work on the slices. -/
def Obligations.BarrierAndCollectivesFinish : Prop :=
  ((∀ (id : CmdId) (e : Entry) (s : State), Running s id 0x0000 e → exec (.sysNop id) s = .next (finishWith id (.of sOk) s)) ∧
    (∀ (id : CmdId) (e : Entry) (s : State), Running s id 0x2401 e → exec (.timeMark id) s = .next (finishWith id (.of sOk) s)) ∧
    (∀ (r : RedAt) (e : Entry) (s : State), Running s r.id 0x1805 e →
      (∀ f ∈ (s.ctx r.id.ctx).entries, f.order < e.order → (f.ring, f.seq) ∈ (s.ctx r.id.ctx).held) →
      exec (.redBarrier r) s = .next (finishWith r.id (.of sOk) (markLate r e s)))) ∧
  ((∀ fs : List PathFault, Reduces (fun r => .redAllreduce r fs) 0x1801 (fun x => x.run fs)) ∧
    (∀ fs : List PathFault, Reduces (fun r => .redReduceScatter r fs) 0x1802 (fun x => x.run fs)) ∧
    Reduces .redAllgather 0x1803 (fun x => x.copy (fun q _ => q)) ∧
    Reduces .redAlltoall 0x1804 (fun x => x.copy (fun q r => (q.drop (r * (x.elems / x.ranks))).take (x.elems / x.ranks))))

/-- A command that finishes holds its result until COMMAND_FINISH; its runs have left their cores. -/
def Obligations.FinishHoldsResult : Prop :=
  ∀ (id : CmdId) (e : Entry) (r : CmdResult) (s : State), s.Canonical → s.entry? id = some e → e.isFinished = false →
    ∃ f, (finishWith id r s).entry? id = some f ∧ f.phase = .finished r ∧ f.pkt = e.pkt ∧ f.order = e.order

/-- SYS_TOKEN_SET, once no earlier command is still to signal the token, sets COUNT and clears POISON; SEG_SYNC, once every
other in-flight command has completed where it must wait, takes the 16 entries of the mirror where they agree with the host
table, and otherwise finishes with the failure that the comparison gives. A PROG_RUN completes when every run has ended; one
that failed, when every run that started has ended. COUNT_A is the runs that completed. -/
def Obligations.TokenSegAndProgramCommandsFinish : Prop :=
  ((∀ (id : CmdId) (e : Entry) (s : State), Running s id 0x0002 e →
      stillSignals (s.ctx id.ctx) e (fieldOf e.pkt 0x20 2) = false →
      exec (.sysTokenSet id) s = .next (finishWith id (.of sOk) (refreshWaits id.ctx (s.updCtx id.ctx (fun c => { c with
        tokens := Table.put {} c.tokens (fieldOf e.pkt 0x20 2) ⟨BitVec.ofNat 32 (fieldOf e.pkt 0x24 4), false⟩ }))))) ∧
    (∀ (id : CmdId) (e : Entry) (segs : List Seg) (crc : Nat) (s : State), Running s id 0x0401 e →
      (bit e.flags 0 = true ∨ ∀ f ∈ (s.ctx id.ctx).entries, f.order ≠ e.order →
        f.isFinished = true ∧ (f.ring, f.seq) ∈ (s.ctx id.ctx).held) →
      checkTables s (s.ctx id.ctx) (bit e.flags 0) = .ok (segs, crc) →
      exec (.segSync id) s = .next (finishWith id (.of sOk) ((noteTables id (s.ctx id.ctx) s).updCtx id.ctx (fun c => { c with
        segs, mirrorCrc := some crc, gen := BitVec.ofNat 32 (fieldOf e.pkt 0x20 4)
        replaced := some (c.segs, c.mirrorCrc, c.gen) })))) ∧
    (∀ (id : CmdId) (e : Entry) (r : CmdResult) (s : State), Running s id 0x0401 e →
      (bit e.flags 0 = true ∨ ∀ f ∈ (s.ctx id.ctx).entries, f.order ≠ e.order →
        f.isFinished = true ∧ (f.ring, f.seq) ∈ (s.ctx id.ctx).held) →
      checkTables s (s.ctx id.ctx) (bit e.flags 0) = .error r →
      exec (.segSync id) s = .next (finishWith id r (noteTables id (s.ctx id.ctx) s)))) ∧
  (∀ (id : CmdId) (e : Entry) (s : State), Running s id 0x2001 e →
      (e.failure = none → e.ended = e.instances →
        exec (.progRun id) s = .next (finishWith id ⟨if e.sat then sAnchorSat else sOk, 0, e.complete, e.zeroRows⟩ s)) ∧
      (∀ f, e.failure = some f → e.started.length = e.ended →
        exec (.progRun id) s = .next (finishWith id ⟨f.status, f.detail, e.complete, e.zeroRows⟩ s)))

/-- The tier commands finish with S_OK: a schedule is taken or cleared, a quota set and pages demoted to fit it, pins and direct
claims made or cleared, unpinned pages released, and pages placed until the quota stops it. COUNT_A is the layers or pages. -/
def Obligations.TierCommandsFinish : Prop :=
  (∀ (id : CmdId) (e : Entry) (s : State), Running s id 0x1C01 e →
    ¬((regionsOf e.descs).length = 1 ∧ ((regionsOf e.descs).headD (Region9.parse [])).bytes = 0) →
    exec (.tierLayerSchedule id) s = .next (finishWith id ⟨sOk, 0, (regionsOf e.descs).length, 0⟩
      ((s.updCtx id.ctx (fun c => { c with layers := (regionsOf e.descs).map (layerOfRegion s e)
                                           layer := ((regionsOf e.descs).map (layerOfRegion s e)).length })).prefetchLayers id.ctx))) ∧
  (∀ (id : CmdId) (e : Entry) (r : Region9) (s : State), Running s id 0x1C01 e → regionsOf e.descs = [r] → r.bytes = 0 →
    exec (.tierLayerSchedule id) s = .next (finishWith id (.of sOk) (s.updCtx id.ctx (fun c => { c with layers := [], layer := 0 })))) ∧
  (∀ (id : CmdId) (e : Entry) (s : State), Running s id 0x1C02 e →
    exec (.tierQuota id) s = .next (finishWith id (.of sOk) (State.fitQuota (fieldOf e.pkt 0x20 2) s.pages.length
      (s.updCtx (fieldOf e.pkt 0x20 2) (fun x => { x with quota := fieldOf e.pkt 0x28 8 / 65536 }))))) ∧
  (∀ (id : CmdId) (e f : Entry) (s u : State), Running s id 0x1C03 e → e.regionHome = true →
    u = (e.homeRegion s).foldl (State.pinPage id.ctx) s → Running u id 0x1C03 f →
    ((∀ p ∈ e.homeRegion s, (u.page p).pin.isSome = true) →
      exec (.tierPin id) s = .next (finishWith id
        ⟨sOk, 0, ((e.homeRegion s).filter (fun p => (u.page p).pin == some id.ctx)).length, 0⟩ u)) ∧
    (∀ p ∈ e.homeRegion s, (u.page p).pin = none → exec (.tierPin id) s = .next u)) ∧
  (∀ (id : CmdId) (e f : Entry) (s u : State), Running s id 0x1C03 e → e.regionHome = false →
    u = e.directRegion.foldl (State.claimPage id.ctx) s → Running u id 0x1C03 f →
    ((∀ p ∈ e.directRegion, ∃ d, u.directPage p = some d ∧ d.claim = .ctx id.ctx ∧ d.releasing = false) →
      exec (.tierPin id) s = .next (finishWith id ⟨sOk, 0, e.directRegion.length, 0⟩ u)) ∧
    (∀ p ∈ e.directRegion, u.directPage p = none → exec (.tierPin id) s = .next u)) ∧
  (∀ (id : CmdId) (e : Entry) (s : State), Running s id 0x1C04 e → e.regionHome = true →
    exec (.tierUnpin id) s = .next (finishWith id
      ⟨sOk, 0, ((e.homeRegion s).filter (fun p => (s.page p).pin == some id.ctx)).length, 0⟩
      (((e.homeRegion s).filter (fun p => (s.page p).pin == some id.ctx)).foldl (fun s p => s.unpin p id.ctx) s))) ∧
  (∀ (id : CmdId) (e : Entry) (ps : List Nat) (s : State), Running s id 0x1C04 e → e.regionHome = false →
    ps = e.directRegion.filter (fun p => (s.directPage p).any (fun d => d.claim == .ctx id.ctx && !d.releasing)) →
    exec (.tierUnpin id) s = .next (finishWith id ⟨sOk, 0, ps.length, 0⟩ (ps.foldl State.startRelease s))) ∧
  (∀ (id : CmdId) (e : Entry) (s : State), Running s id 0x1C05 e →
    exec (.tierEvict id) s = .next (finishWith id ⟨sOk, 0, ((e.homeRegion s).filter (fun p => (s.page p).evictable)).length, 0⟩
      (((e.homeRegion s).filter (fun p => (s.page p).evictable)).foldl State.releasePage s))) ∧
  (∀ (id : CmdId) (e : Entry) (s : State), Running s id 0x1C06 e → (e.seg e.region.seg).policy = 1 →
    exec (.tierPrefetch id) s = .next (finishWith id (.of sOk) s)) ∧
  (∀ (id : CmdId) (e : Entry) (s : State), Running s id 0x1C06 e → (e.seg e.region.seg).policy ≠ 1 →
    exec (.tierPrefetch id) s = .next (finishWith id ⟨sOk, 0, (State.prefetch id.ctx (e.homeRegion s) s 0).2, 0⟩
      (State.prefetch id.ctx (e.homeRegion s) s 0).1))

/-- PWR_LIMIT sets the limit and window of a package context, and the member's share in a gang context; PWR_IDLE gives every
core in scope its idle mode and threshold; TIME_SOURCE selects the input, and takes its time where the unit that receives it works; SEC_ATTEST and SEC_CERT write their outputs for every
member. -/
def Obligations.PowerTimeSecurityCommandsFinish : Prop :=
  (∀ (id : CmdId) (e : Entry) (s : State), Running s id 0x2801 e → (s.ctx id.ctx).desc.kind = 3 →
    exec (.pwrLimit id) s = .next (finishWith id (.of sOk)
      { s with power := { s.power with limitW := fieldOf e.pkt 0x20 4, windowS := fieldOf e.pkt 0x24 1 } })) ∧
  (∀ (id : CmdId) (e : Entry) (s : State), Running s id 0x2801 e → (s.ctx id.ctx).desc.kind = 4 →
    exec (.pwrLimit id) s = .next (finishWith id (.of sOk)
      { s with power := { s.power with limitW := min s.maxW (s.shareOf (fieldOf e.pkt 0x20 4) (s.ctx id.ctx).desc.index)
                                       windowS := fieldOf e.pkt 0x24 1 } })) ∧
  (∀ (id : CmdId) (e : Entry) (s : State), Running s id 0x2802 e →
    exec (.pwrIdle id) s = .next (finishWith id (.of sOk)
      ((s.scopeCores (s.ctx id.ctx).desc.kind (s.ctx id.ctx).desc.index).foldl (fun u tc =>
        u.updCore tc.1 tc.2 (fun k => k.setIdle (fieldOf e.pkt 0x20 1 == 1) (fieldOf e.pkt 0x22 2) (k.cycle u.clk.ac))) s))) ∧
  (∀ (id : CmdId) (e : Entry) (s : State), Running s id 0x2402 e →
    (fieldOf e.pkt 0x20 1 ≠ 1 ∨ s.variant ≠ .f8l) → s.outerLevel = none →
    exec (.timeSource id none) s = .next (finishWith id (.of sOk) (takeSource (fieldOf e.pkt 0x20 1) none
      { s with time := { s.time with source := fieldOf e.pkt 0x20 1 } }))) ∧
  (∀ (id : CmdId) (w : Word) (e : Entry) (s : State), Running s id 0x2402 e →
    (fieldOf e.pkt 0x20 1 ≠ 1 ∨ s.variant ≠ .f8l) → s.inputUp (fieldOf e.pkt 0x20 1) = false →
    exec (.timeSource id (some w)) s = exec (.timeSource id none) s) ∧
  (∀ (id : CmdId) (w : Word) (e : Entry) (s : State), Running s id 0x2402 e →
    (fieldOf e.pkt 0x20 1 ≠ 1 ∨ s.variant ≠ .f8l) → s.outerLevel = none → s.inputUp (fieldOf e.pkt 0x20 1) = true →
    exec (.timeSource id (some w)) s = .next (finishWith id (.of sOk) (takeSource (fieldOf e.pkt 0x20 1) (some w)
      { s with time := Time.present { s.time with source := fieldOf e.pkt 0x20 1 } (fieldOf e.pkt 0x20 1) }))) ∧
  (∀ (id : CmdId) (w : Option Word) (e : Entry) (s : State), Running s id 0x2402 e → fieldOf e.pkt 0x20 1 = 1 → s.variant = .f8l →
    exec (.timeSource id w) s = .next (finishWith id (.of sAbsent) s)) ∧
  (∀ (id : CmdId) (e : Entry) (s : State), Running s id 0x2402 e → (fieldOf e.pkt 0x20 1 ≠ 1 ∨ s.variant ≠ .f8l) →
    s.outerLevel ≠ none →
    exec (.timeSource id none) s = .next (finishWith id (.of sOk)
      (chooseSource { s with time := { s.time with source := fieldOf e.pkt 0x20 1 } }))) ∧
  (∀ (id : CmdId) (e : Entry) (s u : State) (sig : List Byte) (r : State × CmdResult), Running s id 0x2C01 e →
    s.freeBytes 64 = (sig, u) →
    r = writeOutputs id e.region.seg ((e.seg e.region.seg).base + e.region.off) u.gang.addr
      (reportBytes u (fieldOf e.pkt 0x30 8) ++ sig) (fun s => (448, s)) (u.secMembers (u.ctx id.ctx)) 0 0 u →
    exec (.secAttest id) s = .next (finishWith id r.2 r.1)) ∧
  (∀ (id : CmdId) (e : Entry) (s : State) (r : State × CmdResult), Running s id 0x2C02 e →
    r = writeOutputs id e.region.seg ((e.seg e.region.seg).base + e.region.off) s.gang.addr s.flash.cert
      (fun s => (s.draw.1 % 2049, s.draw.2)) (s.secMembers (s.ctx id.ctx)) 0 0 s →
    exec (.secCert id) s = .next (finishWith id r.2 r.1))

/-- A SYS_SELFTEST in concurrent form runs its tests at once, one in exclusive form once its scope has drained; until then it
starts the drain, whose end DRAIN_MS later discards what is left. A SYS_RESET of a unit in service discards, completes and then
resets its scope, or waits while stores of the scope drain or the completion ring has no room for its record (log 24); a unit withdrawn
meanwhile is left out. One of an absent unit finishes with S_ABSENT, and one that comes while another runs is held. -/
def Obligations.SelftestAndResetFinish : Prop :=
  (∀ (id : CmdId) (rs : List TestResult) (e : Entry) (s : State), Running s id 0x0003 e →
    (∀ x, s.selftest = some x → x.cmd = id) → fieldOf e.pkt 0x20 1 ≠ 1 →
    exec (.sysSelftest id rs) s = .next (runTests id (s.ctx id.ctx).desc false (fieldOf e.pkt 0x24 4) rs s)) ∧
  (∀ (id : CmdId) (rs : List TestResult) (e : Entry) (s : State), Running s id 0x0003 e →
    (∀ x, s.selftest = some x → x.cmd = id) → fieldOf e.pkt 0x20 1 = 1 → drained id s = true →
    exec (.sysSelftest id rs) s = .next (runTests id (s.ctx id.ctx).desc true (fieldOf e.pkt 0x24 4) rs s)) ∧
  (∀ (id : CmdId) (rs : List TestResult) (e : Entry) (s : State), Running s id 0x0003 e → s.selftest = none →
    fieldOf e.pkt 0x20 1 = 1 → drained id s = false →
    exec (.sysSelftest id rs) s = .next { s with selftest := some ⟨id, s.now + s.stCtrl * 1000000⟩ }) ∧
  (∀ (x : SelfTest) (s : State), s.selftest = some x →
    exec .selftestDrainTimeout s = .next (discardOthers x.cmd
      (fun n => sharesCores ((advanceTo x.deadline s).ctx n).desc ((advanceTo x.deadline s).ctx x.cmd.ctx).desc) (advanceTo x.deadline s))) ∧
  (∀ (id : CmdId) (e : Entry) (s u : State), Running s id 0x0005 e → s.resetRuns id = false →
    scopeOk (fieldOf e.pkt 0x20 2 % 8) (fieldOf e.pkt 0x20 2 / 8) = true →
    s.scopeUp (fieldOf e.pkt 0x20 2 % 8) (fieldOf e.pkt 0x20 2 / 8) = true →
    u = beginReset id (fieldOf e.pkt 0x20 2 % 8) (fieldOf e.pkt 0x20 2 / 8) s →
    (u.scopeDrained (fieldOf e.pkt 0x20 2 % 8) (fieldOf e.pkt 0x20 2 / 8) = true →
      (finishEntry id (finishWith id (.of sOk) u)).entry? id = none →
      exec (.sysReset id) s = .next (resetScope (fieldOf e.pkt 0x20 2) (fieldOf e.pkt 0x20 2 % 8) (fieldOf e.pkt 0x20 2 / 8)
        (finishEntry id (finishWith id (.of sOk) u)))) ∧
    (u.scopeDrained (fieldOf e.pkt 0x20 2 % 8) (fieldOf e.pkt 0x20 2 / 8) = false ∨
      (finishEntry id (finishWith id (.of sOk) u)).entry? id ≠ none → exec (.sysReset id) s = .next u)) ∧
  (∀ (id : CmdId) (e : Entry) (s u : State), Running s id 0x0005 e → s.resetRuns id = false → e.asked = true →
    s.scopeUp (fieldOf e.pkt 0x20 2 % 8) (fieldOf e.pkt 0x20 2 / 8) = false →
    u = beginReset id (fieldOf e.pkt 0x20 2 % 8) (fieldOf e.pkt 0x20 2 / 8) s →
    u.scopeDrained (fieldOf e.pkt 0x20 2 % 8) (fieldOf e.pkt 0x20 2 / 8) = true →
    (finishEntry id (finishWith id (.of sOk) u)).entry? id = none →
    exec (.sysReset id) s = .next (resetDone (fieldOf e.pkt 0x20 2) (finishEntry id (finishWith id (.of sOk) u)))) ∧
  (∀ (id : CmdId) (e : Entry) (s : State), Running s id 0x0005 e → s.resetRuns id = false → e.asked = false →
    s.scopeUp (fieldOf e.pkt 0x20 2 % 8) (fieldOf e.pkt 0x20 2 / 8) = false →
    exec (.sysReset id) s = .next (finishWith id (.of sAbsent) s)) ∧
  (∀ (id : CmdId) (e : Entry) (s : State), Running s id 0x0005 e → s.resetRuns id = true → exec (.sysReset id) s = .next s)

/-! ### Tile programs (chapters 04, 06, 07, 08) -/

/-- The sequencer's own words pass where nothing holds them: PROG_NOP goes on to the next word, PROG_LOOP opens a loop with its
trip count at counter 0, PROG_ENDLOOP repeats the innermost loop while trips are left and else closes it, and PROG_DRAIN passes
once every op has completed. Each takes its program-token signal, and no hold of the next word has begun. -/
def Obligations.SequencerWordsPass : Prop :=
  ∀ (t c : Nat) (i : Inst) (e : Entry) (w : List Byte) (s : State), MayPass i w →
    (AtWord s t c 0x2000 i e w → exec (.progNop t c) s = .next ((s.setCore t c { s.core t c with
      run := some { signalled i w with pc := i.pc + 1, taken := false, holdSince := none } }).settleCore t c)) ∧
    (AtWord s t c 0x2002 i e w → exec (.progLoop t c) s = .next ((s.setCore t c { s.core t c with
      run := some { signalled i w with pc := i.pc + 1, loops := i.loops ++ [⟨i.pc, wordImm w + 1, 0⟩], taken := false, holdSince := none } }).settleCore t c)) ∧
    (∀ (ls : List Loop) (l : Loop), AtWord s t c 0x2003 i e w → i.loops = ls ++ [l] → l.count + 1 < l.trips →
      exec (.progEndloop t c) s = .next ((s.setCore t c { s.core t c with
        run := some { signalled i w with pc := l.word + 1, loops := ls ++ [{ l with count := l.count + 1 }], taken := false, holdSince := none } }).settleCore t c)) ∧
    (∀ (ls : List Loop) (l : Loop), AtWord s t c 0x2003 i e w → i.loops = ls ++ [l] → l.trips ≤ l.count + 1 →
      exec (.progEndloop t c) s = .next ((s.setCore t c { s.core t c with
        run := some { signalled i w with pc := i.pc + 1, loops := ls, taken := false, holdSince := none } }).settleCore t c)) ∧
    (AtWord s t c 0x2004 i e w → i.ops = [] → exec (.progDrain t c) s = .next ((s.setCore t c { s.core t c with
      run := some { signalled i w with pc := i.pc + 1, taken := false, holdSince := none } }).settleCore t c))

/-- The words of the copy, pane, vector and gather engines issue to their engine's queue of eight. The ops of the copy, pane,
vector and gather engines start in their turn and do their work on their operands. -/
def Obligations.EngineOpsIssueAndStart : Prop :=
  (IssuesTo .movLoad 0x0801 movImpl ∧
    IssuesTo .movStore 0x0802 movImpl ∧
    IssuesTo .movCopy 0x0803 movImpl ∧
    IssuesTo .movLs 0x0804 movImpl ∧
    IssuesTo .movZero 0x0805 (zeroRow.impl .mov (fun _ _ _ => true)) ∧
    IssuesTo .mxWload 0x0C01 wloadImpl ∧
    IssuesTo .mxStream 0x0C02 streamImpl ∧
    IssuesTo .vxEw 0x1001 (vecImpl { vecRow true false ewLine with plan := ewPlan }) ∧
    IssuesTo .vxFunc 0x1002 (vecImpl (vecRow false false funcLine)) ∧
    IssuesTo .vxCmp 0x1003 (vecImpl (vecRow true false cmpLine)) ∧
    IssuesTo .vxSelect 0x1004 (vecImpl (vecRow true true selectLine)) ∧
    IssuesTo .vxCvt 0x1005 (vecImpl (vecRow false false cvtLine)) ∧
    IssuesTo .vxReduce 0x1006 (vecImpl (vecRow false false reduceLine)) ∧
    IssuesTo .vxNorm 0x1007 (vecImpl { vecRow false false normLine with plan := normPlan }) ∧
    IssuesTo .vxSoftmax 0x1008 (vecImpl (vecRow false false softmaxLine)) ∧
    IssuesTo .vxAttarSum 0x1009 (vecImpl (vecRow true false attarSumLine)) ∧
    IssuesTo .vxAttarFrom 0x100A (vecImpl (vecRow false false attarFromLine)) ∧
    IssuesTo .vxAttarRound 0x100B (vecImpl (vecRow false false attarRoundLine)) ∧
    IssuesTo .gaGather 0x1401 gatherImpl ∧
    IssuesTo .gaBag 0x1402 gatherImpl ∧
    IssuesTo .gaScatterAdd 0x1403 { eng := .ga, plan := scatterPlan, start := scatterAddStart } ∧
    IssuesTo .gaScatter 0x1404 { eng := .ga, plan := scatterPlan, start := scatterStart }) ∧
  (StartsFrom .movLoad 0x0801 movImpl ∧
    StartsFrom .movStore 0x0802 movImpl ∧
    StartsFrom .movCopy 0x0803 movImpl ∧
    StartsFrom .movLs 0x0804 movImpl ∧
    StartsFrom .movZero 0x0805 (zeroRow.impl .mov (fun _ _ _ => true)) ∧
    StartsFrom .mxWload 0x0C01 wloadImpl ∧
    StartsFrom .mxStream 0x0C02 streamImpl ∧
    StartsFrom .vxEw 0x1001 (vecImpl { vecRow true false ewLine with plan := ewPlan }) ∧
    StartsFrom .vxFunc 0x1002 (vecImpl (vecRow false false funcLine)) ∧
    StartsFrom .vxCmp 0x1003 (vecImpl (vecRow true false cmpLine)) ∧
    StartsFrom .vxSelect 0x1004 (vecImpl (vecRow true true selectLine)) ∧
    StartsFrom .vxCvt 0x1005 (vecImpl (vecRow false false cvtLine)) ∧
    StartsFrom .vxReduce 0x1006 (vecImpl (vecRow false false reduceLine)) ∧
    StartsFrom .vxNorm 0x1007 (vecImpl { vecRow false false normLine with plan := normPlan }) ∧
    StartsFrom .vxSoftmax 0x1008 (vecImpl (vecRow false false softmaxLine)) ∧
    StartsFrom .vxAttarSum 0x1009 (vecImpl (vecRow true false attarSumLine)) ∧
    StartsFrom .vxAttarFrom 0x100A (vecImpl (vecRow false false attarFromLine)) ∧
    StartsFrom .vxAttarRound 0x100B (vecImpl (vecRow false false attarRoundLine)) ∧
    StartsFrom .gaGather 0x1401 gatherImpl ∧
    StartsFrom .gaBag 0x1402 gatherImpl ∧
    StartsFrom .gaScatterAdd 0x1403 { eng := .ga, plan := scatterPlan, start := scatterAddStart } ∧
    StartsFrom .gaScatter 0x1404 { eng := .ga, plan := scatterPlan, start := scatterStart })

/-- A word that issues behind an op which still waits to start only enters its queue: the run goes on to the next word, its ops
gain one not started, numbered next of its engine, with the counters of the open loops, and nothing else changes. -/
def Obligations.IssueOnlyQueues : Prop :=
  ∀ (op : Nat) (m : OpImpl) (t c : Nat) (i : Inst) (e : Entry) (w : List Byte) (s : State),
    (∀ k r w o, m.ok { k with run := r } w o = m.ok k w o) → s.Canonical → AtWord s t c op i e w →
    (i.unstarted m.eng).isSome = true → m.ready op (s.core t c) i e.image.words = none →
    ∃ o, tryStart op m t c (pushOp m t c ⟨s.core t c, i, e, w⟩ s) = s.setCore t c { s.core t c with
        run := some { i with pc := i.pc + 1, ops := i.ops ++ [o], issued := setAt i.issued (engineNum m.eng) o.num
                             taken := false, holdSince := none } } ∧
      o.word = i.pc ∧ o.num = i.issued.getD (engineNum m.eng) 0 + 1 ∧ o.eng = m.eng ∧ o.loops = i.counters ∧ o.started = false

/-- A run of a dispatched command starts on a core of its context's scope that takes it, with its word index, tokens and weight
sets fresh; it ends once its words and ops are done, where a PROG_RUN goes on and a single tile-op command finishes. An idle core
that keeps a pre-empted run takes it up again, and the end of its restore lets it run on. -/
def Obligations.RunsStartAndEnd : Prop :=
  (∀ (id : CmdId) (idx t c : Nat) (e : Entry) (s : State), s.entry? id = some e → e.phase = .running → e.isTileWork = true →
    e.failure = none → idx < e.instances → idx ∉ e.started →
    (t, c) ∈ s.scopeCores (s.ctx id.ctx).desc.kind (s.ctx id.ctx).desc.index → (s.core t c).takes s.now e.prio = true →
    coreRival s t c e = false →
    exec (.instanceStart id idx t c) s = .next (preemptAll (((s.setCore t c { s.core t c with
        run := some { cmd := id, index := idx, prio := e.prio }, state := .running, runAhead := [] }).updEntry id
      (fun e => { e with started := idx :: e.started })).settleCore t c))) ∧
  (∀ (t c : Nat) (i : Inst) (e : Entry) (s : State), Runs s t c i e → i.ops = [] → e.image.words.length ≤ i.pc → i.cut = false →
    e.isProg = true →
    exec (.instanceEnd t c) s = .next ((s.updEntry i.cmd (fun e => { e with ended := e.ended + 1, complete := e.complete + 1 })).freeCore t c)) ∧
  (∀ (t c : Nat) (i : Inst) (e : Entry) (s : State), Runs s t c i e → i.ops = [] → e.image.words.length ≤ i.pc → i.cut = false →
    e.isProg = false →
    exec (.instanceEnd t c) s = .next (finishWith i.cmd
      (if 0x1401 ≤ e.opcode ∧ e.opcode ≤ 0x1404 then runResult e e.outRows e.zeroRows else runResult e 0 0)
      ((s.updEntry i.cmd (fun e => { e with ended := e.ended + 1, complete := e.complete + 1 })).freeCore t c))) ∧
  (∀ (t c : Nat) (i : Inst) (s : State), (s.core t c).run = none → (s.core t c).held = some i → (s.core t c).state = .idle →
    exec (.instanceEnd t c) s = .next (s.freeCore t c)) ∧
  (∀ (t c : Nat) (i : Inst) (e : Entry) (s : State), (s.core t c).run = some i → s.entry? i.cmd = some e →
    (s.core t c).state = .resuming → i.restoring = true →
    exec (.instanceEnd t c) s = .next (endRestore t c (s.core t c) i e s))

/-- Program tokens: a held word takes one count of its token, where no held signal takes its place; a completed op signals its token, and holds
the signal at 65,535;
a hold that reaches the context's wait limit fails the command with S_TIMEOUT and raises WAIT_LIMIT. -/
def Obligations.ProgramTokens : Prop :=
  (∀ (t c : Nat) (i j : Inst) (q : Known) (e : Entry) (w : List Byte) (s : State), AtWord s t c (wordOp w) i e w → wordWaitEn w = true →
    wordStep w = false → i.taken = false → 0 < i.token (wordWait w) → i.takeToken e.image.words (wordWait w) = (j, q) →
    exec (.progTokenWaitSatisfied t c) s = .next ((s.setCore t c { s.core t c with
      run := some { j with taken := true, holdSince := none, known := j.known.join q } }).settleCore t c) ∧
    ((∀ o ∈ i.ops, o.sigSince.isSome = true → wordSig (e.image.words.getD o.word []) ≠ wordWait w) →
      j.tokens = setAt i.tokens (wordWait w) (i.token (wordWait w) - 1))) ∧
  (∀ (t c : Nat) (eng : Engine) (i : Inst) (e : Entry) (o : OpRec) (w : List Byte) (s : State), Runs s t c i e →
    i.oldest eng = some o → opDone s i o = true → w = e.image.words.getD o.word [] →
    (o.failed = true ∨ (wordSigEn w = false ∧ wordStep w = false) ∨ (wordStep w = true ∧ o.sigDue = false ∧ o.sigSince = none) ∨
        (wordStep w = false ∧ o.signalled = true) →
      exec (.tileOpComplete t c eng) s = .next (endOp t c eng (s.core t c) i o s)) ∧
    (o.failed = false → wordSigEn w = true → wordStep w = false → o.signalled = false → i.token (wordSig w) < 65535 →
      exec (.tileOpComplete t c eng) s = .next (endOp t c eng (s.core t c) (i.signal (wordSig w) (o.tells w)) o s) ∧
      (i.signal (wordSig w) (o.tells w)).tokens = setAt i.tokens (wordSig w) (i.token (wordSig w) + 1)) ∧
    (o.failed = false → wordSigEn w = true → wordStep w = false → o.signalled = false → 65535 ≤ i.token (wordSig w) →
      exec (.tileOpComplete t c eng) s = .next ((s.setCore t c { s.core t c with
        run := some { i with ops := updOldest eng (fun o => { o with sigSince := some (o.sigSince.getD s.now) }) i.ops } }).settleCore t c))) ∧
  (∀ (t c n : Nat) (i : Inst) (e : Entry) (s : State), (s.core t c).run = some i → s.entry? i.cmd = some e → i.holdStart = some n →
    (s.ctx i.cmd.ctx).desc.waitMs ≠ 0 →
    exec (.progTokenHoldTimeout t c) s = .next (raiseEvent i.cmd.ctx 33 (failCommand i.cmd i.index sTimeout 0
      (advanceTo (n + (s.ctx i.cmd.ctx).desc.waitMs * 1000000) s))))

/-- A TILE_STEP op works through its next tile of 128 rows where its token's count is there, takes that count, and then signals; a
tile's held signal is made first. A SWAP takes place once the shadow set is full and earlier streams have issued their last row,
and its stream has then started. A stopping core writes its records, keeps the instance beside itself and is released, unless a
fault in its panes has failed the run, which then goes on to its end; one stopped inside a restore keeps what is restored. -/
def Obligations.StepsSwapsAndPreemption : Prop :=
  (∀ (t c : Nat) (eng : Engine) (i h j l : Inst) (e : Entry) (o p m n : OpRec) (w : List Byte) (r : RowOp) (q : Known) (x : Exec) (s : State),
    Runs s t c i e → i.stepping eng e.image.words = some o → w = e.image.words.getD o.word [] → o.sigDue = false → o.sigSince = none →
    o.failed = false → (eng = .mx → (s.core t c).warm = true ∨ (s.core t c).admitted = true) → i.tileHeld e.image.words o = false →
    stepRow (wordOp w) = some r →
    (h, q) = (if wordWaitEn w && !o.midTile then i.takeToken e.image.words (wordWait w) else (i, [])) →
    j = h.learn eng q → p = { o with known := j.knownTo o } →
    runTile r eng (Exec.of s (s.core t c) j t c e p) p = (x, m) →
    signalTile w s.now (x.s.readsOf x.i o.word) x.i m = (l, n) → x.s.overfull = false →
    exec (.tileStepWait t c eng) s = .next (({ x with i := { l with ops := updOp n l.ops } } : Exec).close.settleCore t c)) ∧
  (∀ (t c : Nat) (eng : Engine) (i : Inst) (e : Entry) (o : OpRec) (w : List Byte) (j : Inst) (s : State), Runs s t c i e →
    i.stepping eng e.image.words = some o → w = e.image.words.getD o.word [] → (o.sigDue = true ∨ o.sigSince.isSome = true) →
    o.failed = false → s.readsOf i o.word = false → i.token (wordSig w) < 65535 →
    j = i.signal (wordSig w) (o.known.add o.eng (o.num - 1, o.tile)) →
    exec (.tileStepWait t c eng) s = .next ((s.setCore t c { s.core t c with
      run := some { j with ops := updOp { o with sigDue := false, sigSince := none } j.ops } }).settleCore t c)) ∧
  (∀ (t c : Nat) (i : Inst) (e : Entry) (o : OpRec) (s : State), Runs s t c i e → e.phase = .running →
    i.unstarted .mx = some o → wantsSwap (e.image.words.getD o.word []) = true → o.swapped = false → i.shadowFull = true →
    i.settled .mx = true →
    exec (.streamSwap t c) s = .next ((s.setCore t c { s.core t c with
      run := some { i with active := i.shadow, shadow := {}, shadowFull := false, swapOut := some i.active,
                           ops := updOp (swapStart (Exec.of s (s.core t c) i t c e o) o) i.ops } }).settleCore t c) ∧
    (swapStart (Exec.of s (s.core t c) i t c e o) o).started = true) ∧
  (∀ (t c n : Nat) (ds : List OpStop) (i : Inst) (e : Entry) (s : State), (s.core t c).run = some i → (s.core t c).state = .stopping →
    (s.core t c).held = none → i.restoring = false → s.entry? i.cmd = some e →
    (i.paneFault = true → exec (.preemptRelease t ⟨c, ds, n⟩) s = .next (endStopping t c (s.core t c) i s)) ∧
    (i.paneFault = false → (releaseRun t c ds (s.core t c) i e s).overfull = false →
      exec (.preemptRelease t ⟨c, ds, n⟩) s = .next (releaseRun t c ds (s.core t c) i e s)) ∧
    (i.ops = [] → releaseRun t c ds (s.core t c) i e s = preemptMsg i.cmd.ctx (fltPost 7 6 i.cmd.ring i.cmd.ctx 0 0 0
      (s.setCore t c { s.core t c with
        run := none, held := some i, heldSince := s.now, state := .idle, waiting := none, admitted := false, runAhead := []
        save := ((s.core t c).save.write 0 (seqRecord i)).write 0x3000 (paneRecord i false) })))) ∧
  (∀ (t c n : Nat) (ds : List OpStop) (i : Inst) (s : State), (s.core t c).run = some i → (s.core t c).state = .stopping →
    (s.core t c).held = none → i.restoring = true → i.paneFault = false →
    exec (.preemptRelease t ⟨c, ds, n⟩) s = .next (stopRestore t c n (s.core t c) i s))

/-! ### The gather engine and the adders (chapter 08) -/

/-- A row whose line reads are all served, and that is read without error, is kept by its position, its output is written where
that was the last row it waited for, and the slot it leaves takes a row that waits; one that cannot be read fails its op. A
run-ahead read that nothing stands in the way of enters the buffer of 64 with its bytes and queues its line reads, its index's first; a remote
gather is answered with the row's lines once they are served, or with none where they are refused. An accumulate in flight whose line is read
is applied as one read-modify-write of its line and leaves the queue, where its read waits at a controller in the turn of that read; on an
uncorrectable line nothing is written and its sender is told. -/
def Obligations.GatherAndAdderEventsComplete : Prop :=
  ((∀ (t c pos addr : Nat) (i : Inst) (e : Entry) (o : OpRec) (g : GaOp) (p : GaPos) (x : Exec) (s : State),
      Runs s t c i e → i.gathering = some o → o.ga = some g → g.poss[pos]? = some p → p.addr = some addr → p.asked = true →
      p.arrived = false → x = Exec.of s (s.core t c) i t c e o →
      s.linesPending (x.reader (whereSeg (x.table 0).t.where_)) addr (x.table 0).t.rowBytes = false →
      (∀ (bs : List Byte) (y z : Exec) (h k : GaOp), x.arrivedRow (x.table 0).t p addr = .ok bs →
        ({ x with s := x.s.unkeep addr } : Exec).tryOut { g with poss := g.poss.set pos { p with arrived := true, data := bs } } p.out = (y, h) → y.err = none →
        y.askRows h = (z, k) → z.s.overfull = false → exec (.rowArrival t c pos) s = .next (z.closeGather o k)) ∧
      (∀ er, x.arrivedRow (x.table 0).t p addr = .error er →
        exec (.rowArrival t c pos) s = .next ((x.failMem (whereSeg (x.table 0).t.where_) addr er).closeGather o g))) ∧
    (∀ (t c pos : Nat) (i : Inst) (e : Entry) (o : OpRec) (r : Ahead) (x : Exec) (bs : List Byte) (s u : State),
      Runs s t c i e → i.gaCurrent = some o → aheadOf s (s.core t c) i e t c pos = some r →
      x = Exec.of s (s.core t c) i t c e o → (o.ga.getD {}).slotEnd (x.table 0).t.dims x.isBag ≤ pos →
      pos < (o.ga.getD {}).slotEnd (x.table 0).t.dims x.isBag + 64 →
      r.off + r.t.rowBytes ≤ r.seg.size → r.seg.type ≠ 2 → s.readMem r.addr r.t.rowBytes = .ok bs → (s.core t c).runAhead.length < 64 →
      (∀ r ∈ (s.core t c).runAhead, r.pos ≠ pos) →
      u = s.setCore t c { s.core t c with runAhead := (s.core t c).runAhead ++ [⟨pos, r.addr, bs⟩] } →
      (r.index = none → exec (.runAheadRead t c pos) s = .next (u.readAhead t c r.addr r.t.rowBytes)) ∧
      (∀ a n, r.index = some (a, n) → u.linesPending (.ahead t c) a n = false →
        exec (.runAheadRead t c pos) s = .next ((u.readAhead t c a n).readAhead t c r.addr r.t.rowBytes))) ∧
    (∀ (src : Origin) (addr len lo n : Nat) (s : State), s.gang.addr ≠ none → lo = lineOf (addr % 2 ^ 40) →
      n = (linesOf (addr % 2 ^ 40) len).length * 64 →
      (∀ bs, s.homeBytesAt lo n = some bs →
        (s.demandRead (.remote src s.freshTag lo bs) lo n).linesPending (.remote src s.freshTag lo bs) lo n = false →
        exec (.remoteGatherRequest src addr len) s = .next ((s.demandRead (.remote src s.freshTag lo bs) lo n).respond src bs)) ∧
      (∀ bs, s.homeBytesAt lo n = some bs →
        (s.demandRead (.remote src s.freshTag lo bs) lo n).linesPending (.remote src s.freshTag lo bs) lo n = true →
        exec (.remoteGatherRequest src addr len) s = .next (s.demandRead (.remote src s.freshTag lo bs) lo n)) ∧
      (s.homeBytesAt lo n = none → exec (.remoteGatherRequest src addr len) s = .next ((s.readFailed lo n).respond src [])))) ∧
  (∀ (n errs : Nat) (a : Acc) (u s : State), s.accs[n]? = some a → s.accPending a = false → s.noRoom [lineOf (s.localAddr a.addr)] = false →
      u = readCode a.addr errs (State.forwardAcc a { s with accs := s.accs.eraseIdx n }) → a.own = false →
      (∀ line, u.readMem a.addr 64 = .ok line →
        exec (.accumulateApply ⟨n, errs⟩) s = .next (ackAccumulate a (a.apply line).2 none
          (((u.poke a.addr (a.apply line).1).scramble a.shared).noteAccumulate a))) ∧
      (u.readMem a.addr 64 = .error .uncorrectable →
        exec (.accumulateApply ⟨n, errs⟩) s = .next (ackAccumulate a false (some .uncorrectable) u))) ∧
  (∀ (n errs : Nat) (a : Acc) (u s : State), s.accs[n]? = some a → s.accPending a = false → s.noRoom [lineOf (s.localAddr a.addr)] = false →
      u = (readCode a.addr errs (State.forwardAcc a { s with accs := s.accs.eraseIdx n })).unkeep a.addr → a.own = true →
      (∀ line, u.readMem a.addr 64 = .ok line →
        exec (.accumulateApply ⟨n, errs⟩) s = .next (ackAccumulate a (a.apply line).2 none
          (((u.poke a.addr (a.apply line).1).scramble a.shared).noteAccumulate a))) ∧
      (u.readMem a.addr 64 = .error .uncorrectable →
        exec (.accumulateApply ⟨n, errs⟩) s = .next (ackAccumulate a false (some .uncorrectable) u))) ∧
  (∀ (n errs : Nat) (a : Acc) (r : PcRead) (s : State), s.accs[n]? = some a → s.accPending a = true →
      (s.stack (s.rowOfHome (s.localAddr a.addr)).stack).inService = true →
      (s.pc (s.rowOfHome (s.localAddr a.addr)).stack (s.rowOfHome (s.localAddr a.addr)).pc).state ≠ .recalibrating →
      s.nextRead (s.rowOfHome (s.localAddr a.addr)).stack (s.rowOfHome (s.localAddr a.addr)).pc = some r → r.who = .adder →
      r.line = lineOf (s.localAddr a.addr) →
      exec (.accumulateApply ⟨n, errs⟩) s = .next (serveAdder (s.rowOfHome (s.localAddr a.addr)).stack
        (s.rowOfHome (s.localAddr a.addr)).pc n a r errs s))

/-! ### The panes' events (chapter 06; 11 R373) -/

/-- A check fault withdraws its core; a Louvre slot admits its wave; a rising issue limit takes a step of 8/64; a keep-warm gap
begins on a warm core in keep-warm mode; a warm core without rows turns cold; a unit charged three times is fenced once the
command's record is written. -/
def Obligations.PaneEventsComplete : Prop :=
  (∀ (t c : Nat) (s : State), exec (.paneCheckFault t c) s = .next (withdrawCore t c 1 s)) ∧
  (∀ (t at' f : Nat) (u s : State), at' = max (slotAt s.now) (s.tile t).louvreNext → (s.tile t).louvreFrom = some f → f ≤ at' →
    u = (advanceTo at' s).updTile t (fun x => { x with louvreNext := at' + 32 }) →
    exec (.louvreSlot t) s = .next ((u.waveAt t ((at' - f) / 32)).foldl
      (fun s c => s.updCore t c (fun k => { k with admitted := true, waiting := none })) u)) ∧
  (∀ (t c at' : Nat) (s : State), (s.core t c).limit < (s.core t c).target → at' = max (slotAt s.now) (s.core t c).stepAt →
    exec (.issueLimitStep t c) s = .next ((advanceTo at' s).updCore t c (fun k => {
      k.countGap (k.cycle (advanceTo at' s).clk.ac) with limit := min k.target (k.limit + 8), stepAt := at' + 32 }))) ∧
  (∀ (t c g : Nat) (s : State), (s.core t c).gapFrom = some g → (s.core t c).keepWarm = true → (s.core t c).warm = true →
    (s.core t c).gap = none → (s.core t c).inService = true →
    exec (.keepWarmGap t c ((s.core t c).rowsBefore g)) s = .next ((advanceToCycle (s.core t c) g s).setCore t c { s.core t c with
      gap := some (g, (s.core t c).gapRate g, g) })) ∧
  (∀ (t c d : Nat) (s : State), (s.core t c).coldAt = some d → (s.core t c).warm = true →
    exec (.coreCold t c) s = .next (((advanceToCycle (s.core t c) d s).setCore t c
      { (s.core t c).endGap d with warm := false }).settleCore t c)) ∧
  (∀ (u : ChargedUnit) (g : Charge) (id : CmdId) (s : State), s.charges.find? (fun g => g.unit == u) = some g → g.due = some id →
    s.entry? id = none →
    exec (.unitFence u) s = .next (fltPost 9 2 (unitNumber u) id.ctx 0 g.tensor g.chunk (fenceUnit u (appendRepair 0x11 (unitTile u)
      (unitIndex u) (unitKind u) { s with charges := s.charges.filter (fun g => g.unit != u), redFenced := satAdd 8 s.redFenced 1 }))))

/-! ### The tier engine (chapter 09) -/

/-- A DECAY period halves every heat count; a migration copies its next sub-block unless an edge retrains, and freezes and switches once
nothing is left to copy, a retrain lengthening the freeze by its stall; a write of an older epoch for which its queue has room is applied at
the current placement and counted; a releasing direct page that no command holds returns its frame. -/
def Obligations.TierEventsComplete : Prop :=
  (∀ s u : State, u = advanceTo (nextMultiple s.now (10000 * bits s.tierCfg 31 24)) s →
    exec .heatDecay s = .next (u.pages.foldl (fun s e => s.updPage e.1 (fun g => { g with heat := g.heat / 2 })) u)) ∧
  (∀ s : State, s.pages = [] → exec .tierScan s = .next (advanceTo (nextMultiple s.now (1000 * bits s.tierCfg 23 16)) s)) ∧
  (∀ (p : Nat) (g : TierPage) (s u : State), s.pages = [(p, g)] → s.hot g = true → g.state = .home → g.deferred = [] →
    u = advanceTo (nextMultiple s.now (1000 * bits s.tierCfg 23 16)) s →
    exec .tierScan s = .next (u.tryPlace p g.last false true)) ∧
  (∀ (p k r : Nat) (s : State), (s.page p).nextCopy = some (k, r) → (∀ t, (s.page p).target[k]? = some t → s.slotReady p t = true) →
    s.stalled = false → ((s.readBlock p k).page p).nextCopy = some (k, r) →
    exec (.migrationCopy p) s = .next (((s.readBlock p k).moveBlock p k).updPage p (fun g => { g with
      copied := g.copied ||| 2 ^ k, recopy := g.recopy &&& (0xFFFF ^^^ 2 ^ k), round := r, next := k + 1 }))) ∧
  (∀ (p : Nat) (s : State), s.stalled = true → exec (.migrationCopy p) s = .next s) ∧
  (∀ (p v : Nat) (s u w : State), (s.page p).migrating = true → (s.page p).nextCopy = none →
    s.draw = (v, u) → w = (s.page p).toCopy.foldl (fun s k => (s.readBlock p k).moveBlock p k) u →
    exec (.migrationFreeze p) s = .next (State.runDeferred { w.updPage p TierPage.switch with
      moved := w.moved + 1, freezeMax := max w.freezeMax (freezeNs (s.page p).toCopy.length v + w.stallNs v) } p)) ∧
  (∀ (a ep : Nat) (data : List Byte) (s u : State), a < 0x6000000000 → ep % 256 ≠ (s.page (a / 65536)).epoch →
    s.noRoom (linesOf a data.length) = false → s.writeMem a data = .ok u →
    exec (.staleEpochForward a ep data) s = .next { u.noteWrites a data.length with forwarded := satAdd 16 u.forwarded 1 }) ∧
  (∀ (p : Nat) (d : DirectPage) (s : State), s.directPage p = some d → d.releasing = true → d.holds = 0 → d.next = none →
    exec (.directPageRelease p) s = .next (s.releaseDirect p))

/-- At the end of a DECAY period every page's heat is half of what it was, rounded down, and nothing but heat and station time
has changed: R299's halving, for every page. -/
def Obligations.HeatDecayHalvesEveryPage : Prop :=
  ∀ s t : State, s.Canonical → exec .heatDecay s = .next t →
    (∀ p, t.page p = { s.page p with heat := (s.page p).heat / 2 }) ∧ t = { s with pages := t.pages, clk := t.clk }

/-! ### The HBM controllers (chapter 10) -/

/-- A temperature reading sets the refresh code; a queued read is served, or writes where none waits; a read 2 µs old goes
first; a write enters its queue and is visible; a scrub reads a line, and at an address of the direct
window puts errors into a line of the Sill (the model's choice, log 112); a granule that is to move moves while no edge retrains. A
recalibration starts where its cause holds, 250 ms have passed since the last and no other pseudo-channel of the stack is in one; it ends in the
state it began in, or makes the pseudo-channel degrading; a map-out goes from journaled to moving granules to pieces; an error
rate makes a pseudo-channel degrading. -/
def Obligations.HbmEventsComplete : Prop :=
  ((∀ (n r : Nat) (temp : Int) (s : State), (s.stack n).inService = true → temp ≤ 105 →
      r = (if (s.stack n).refresh < refreshUp temp then refreshUp temp else min (s.stack n).refresh (refreshDown temp)) →
      exec (.hbmTempRead n temp) s = .next (s.updStack n (fun k => { k with temp, refresh := r }))) ∧
    (∀ (n r : Nat) (temp : Int) (s : State), (s.stack n).inService = true → 105 < temp →
      r = (if (s.stack n).refresh < 3 then 3 else min (s.stack n).refresh (refreshDown temp)) →
      exec (.hbmTempRead n temp) s = .next (powerEvent 6 n temp.toNat 105 (stackLost n (s.updStack n (fun k => { k with temp, refresh := r }))))) ∧
    (∀ (n p errs : Nat) (s : State), (s.stack n).inService = true → (s.pc n p).state ≠ .recalibrating → s.nextRead n p = none →
      exec (.hbmReadServe n p errs) s = .next (s.drainWrites n p)) ∧
    (∀ (n p errs : Nat) (r : PcRead) (bad : Bool) (s u w : State), (s.stack n).inService = true → (s.pc n p).state ≠ .recalibrating →
      s.nextRead n p = some r →
      u = (s.updPc n p (fun q => { q with
            reads := dropRead r q.reads, rows := Table.put 0 q.rows (s.rowOfHome r.line).bank ((s.rowOfHome r.line).row + 1) })).updStack n
          (fun k => { k with rdBytes := k.rdBytes + 64, aged := if s.servedEarly n p r then satAdd 32 k.aged 1 else k.aged }) →
      (r.who ≠ .adder ∨ s.accAt r.line = none) → servedRead r errs u = (w, bad) →
      (bad = true → exec (.hbmReadServe n p errs) s = .next ((failReader r w).admitHeld n p)) ∧
      (∀ t c, bad = false → r.who = .host t c → exec (.hbmReadServe n p errs) s = .next ((hostFill t c r.line w).admitHeld n p)) ∧
      (bad = false → exec (.hbmReadServe n p errs) s = .next ((giveReader r w).admitHeld n p))) ∧
    (∀ (n p errs i : Nat) (r : PcRead) (a : Acc) (s : State), (s.stack n).inService = true → (s.pc n p).state ≠ .recalibrating →
      s.nextRead n p = some r → r.who = .adder → s.accAt r.line = some (i, a) →
      exec (.hbmReadServe n p errs) s = .next ((applyAcc i a 0 (homeRead r.line errs (s.popRead n p r)).1).admitHeld n p)) ∧
    (∀ (n p : Nat) (r : PcRead) (s : State), (s.pc n p).reads.find? (fun r => !r.held && !r.first) = some r →
      exec (.readAgePromote n p) s = .next ((advanceTo (r.since + 2000) s).updPc n p (fun q => { q with
        reads := q.reads.map (fun x => if x == r then { x with first := true } else x) }))) ∧
    (∀ (a : Nat) (data : List Byte) (s u : State), a < 0x6000000000 → s.noRoom (linesOf a data.length) = false →
      s.writeMem a data = .ok u →
      exec (.writeQueueEnter a data) s = .next (u.noteWrites a data.length)) ∧
    (∀ (a errs l : Nat) (s : State), a < directBase → (s.stack (s.variant.stackOf (lineOf a)).1).inService = true → s.homeLine (lineOf a) = some l →
      exec (.scrubRead a errs) s = .next (homeRead l errs s).1) ∧
    (∀ (a errs : Nat) (s : State), a < directBase → (s.stack (s.variant.stackOf (lineOf a)).1).inService = true →
      s.homeLine (lineOf a) = none → exec (.scrubRead a errs) s = .next (lineRead (lineOf a) none errs s).1) ∧
    (∀ (a errs : Nat) (s : State), directBase ≤ a →
      exec (.scrubRead a errs) s = .next { s with strikes := Table.put 0 s.strikes ((a - directBase) / 64) errs }) ∧
    (∀ (g : Nat) (s : State), g < s.home.granules → (g ∈ s.home.moves ∨ s.onWithdrawn g = true) → s.stalled = false →
      exec (.granuleMove g) s = .next (s.moveGranule g))) ∧
  ((∀ (n p t : Nat) (cause : RecalCause) (s : State), s.mayRecalibrate n p = true → t = max s.now (s.recalAt n p cause) →
      (∀ l, (s.pc n p).lastCal = some l → l + 250000000 ≤ t) →
      (cause = .temperature → 8 ≤ ((s.stack n).temp - s.calTemp n p).natAbs) →
      exec (.recalibration n p cause) s = .next ((advanceTo t s).updPc n p (startRecal s n t))) ∧
    (∀ (n p : Nat) (margin : Bool) (s : State), (s.pc n p).state = .recalibrating →
      (margin = true ∨ (s.pc n p).before = .degrading →
        exec (.recalibrationDone n p margin) s = .next ((s.updPc n p (fun q => { q with state := q.before })).resumeWrites n p)) ∧
      (margin = false → (s.pc n p).before ≠ .degrading →
        exec (.recalibrationDone n p margin) s = .next (degrade n p ((s.updPc n p (fun q => { q with state := q.before })).resumeWrites n p)))) ∧
    (∀ (n p : Nat) (s : State), (s.stack n).inService = true → (s.pc n p).state = .inService → (s.pc n p).degradingRate = true →
      exec (.degradingErrorRate n p) s = .next (degrade n p s)) ∧
    (∀ (n p : Nat) (failed : Bool) (s u : State), (s.stack n).inService = true → (s.stack n).mapPc = some p →
      u = (if failed then failMapped n p s else s) →
      ((s.stack n).mapState = 1 →
        exec (.mapoutGranuleStep ⟨n, failed⟩) s = .next (memoryEvent 5 n p 2 0 (u.updStack n (fun k => { k with mapState := 2 })))) ∧
      ((s.stack n).mapState = 2 → u.stalled = false → exec (.mapoutGranuleStep ⟨n, failed⟩) s = .next (mapoutMoveStep n p u)) ∧
      ((s.stack n).mapState = 3 → u.stalled = false → exec (.mapoutGranuleStep ⟨n, failed⟩) s = .next (mapoutPieces n p u))) ∧
    (∀ (n p d : Nat) (s u : State), d = s.variant.liveFrom (s.stack n).mapNext →
      u = ((advanceTo ((s.now / (1000 * (s.stack n).pace) + 1) * (1000 * (s.stack n).pace)) s).updStack n
        (fun k => { k with mapNext := d + 1, done := (s.stack n).done + 1 })).traffic n 4096 4096 →
      ((s.stack n).done + 1 < (s.stack n).total → mapoutPieces n p s = u) ∧
      ((s.stack n).total ≤ (s.stack n).done + 1 → mapoutPieces n p s = mapoutDone n p u)))

/-- A line read with 1 to 4 erroneous bytes is corrected and counted; one with more is uncorrectable: it is marked so, with the
count and the address (R327, R328). -/
def Obligations.LineReadCounts : Prop :=
  ∀ (d errs : Nat) (home : Option Nat) (s : State),
    (errs = 0 → lineRead d home errs s = (s, false)) ∧
    (1 ≤ errs → errs ≤ 4 → (lineRead d home errs s).2 = false) ∧
    (5 ≤ errs → (lineRead d home errs s).2 = true ∧ ∀ l, home = some l → l ∈ (lineRead d home errs s).1.poison)

/-- A stack's refresh code rises at once with its temperature past 85, 95 and 105 °C, and falls only 2 °C below a threshold. -/
def Obligations.RefreshHysteresis : Prop :=
  ∀ (n : Nat) (temp : Int) (s t : State), s.Canonical → (s.stack n).inService = true → temp ≤ 105 → (s.stack n).refresh ≤ 2 →
    exec (.hbmTempRead n temp) s = .next t →
    (95 < temp → (t.stack n).refresh = 2) ∧
    (85 < temp → temp ≤ 93 → (t.stack n).refresh = 1) ∧
    (93 < temp → temp ≤ 95 → (t.stack n).refresh = max 1 (s.stack n).refresh) ∧
    (83 < temp → temp ≤ 85 → (t.stack n).refresh = min 1 (s.stack n).refresh) ∧
    (temp ≤ 83 → (t.stack n).refresh = 0)

/-- A write that enters its queue is visible at once: the bytes written read as written and every other byte of memory as
before. -/
def Obligations.QueuedWriteIsVisible : Prop :=
  ∀ (a : Nat) (data : List Byte) (s t : State), s.Canonical → a + data.length ≤ s.homeBytes → s.homeBytes ≤ 0x6000000000 →
    s.noRoom (linesOf a data.length) = false →
    (∀ l ∈ s.poison, l + 64 ≤ a ∨ a + data.length ≤ l) → (∀ l ∈ linesOf a data.length, s.sillBad l = false) → exec (.writeQueueEnter a data) s = .next t →
    (∀ i, i < data.length → t.mem.byte (a + i) = data.getD i 0) ∧
    (∀ b, b < a ∨ a + data.length ≤ b → t.mem.byte b = s.mem.byte b)

/-! ### Ultur cores (chapter 03) -/

/-- An Ultur core in service loads what its buffer and memory hold, keeping lines unless they are reached by the fabric address or under a
PBMT of NC, commits stores to its buffer, drains the oldest store to memory or to its tracker, sees tracked stores acknowledged, and
completes a FENCE once nothing that it orders is outstanding. -/
def Obligations.UlturAccessesComplete : Prop :=
  (∀ (t u a w o : Nat) (l : LoadOf) (s : State), s.ucoreRuns t u = true → l.kind = .plain → forbidden a w .plain = false →
    regionOf a = .shutter o → (s.ucore t u).buffer = [] →
    exec (.hostLoad t u a w l) s = .next (takeValue t u (readShutter .core o w s).1 (readShutter .core o w s).2)) ∧
  (∀ (t u a w p o : Nat) (l : LoadOf) (s : State), s.ucoreRuns t u = true → forbidden a w l.kind = false →
    regionOf a = .aperture p o → (s.ucore t u).buffer = [] → (s.ucore t u).tracks a (List.replicate w none) = false →
    exec (.hostLoad t u a w l) s = .next (loadMemory t u a w l (List.replicate w none) s)) ∧
  (∀ (t u a w o : Nat) (l : LoadOf) (f : List (Option Nat)) (s : State), s.ucoreRuns t u = true → forbidden a w l.kind = false →
    (regionOf a = .home o ∨ regionOf a = .direct o ∨ ∃ p, regionOf a = .remote p o) →
    f = (if l.kind = .fetch then List.replicate w none else forwards (s.ucore t u).buffer a w) → needsDrain f = false →
    (s.ucore t u).tracks a f = false → (l.kind = .lr → (s.ucore t u).noStores = true) →
    exec (.hostLoad t u a w l) s = .next (loadMemory t u a w l f s)) ∧
  (∀ (t u a w : Nat) (l : LoadOf) (f : List (Option Nat)) (s v : State),
    (f.all Option.isSome = true → ((∃ o, regionOf (s.localAddr a) = .home o ∨ regionOf (s.localAddr a) = .direct o) → s.accessErr a w = none) →
      regionOf (s.localAddr a) ≠ .none → (∀ o, regionOf (s.localAddr a) ≠ .shutter o) →
      loadMemory t u a w l f s = giveLoad t u a w l.kind f s) ∧
    (f.all Option.isSome = false → (∃ p o, regionOf (s.localAddr a) = .remote p o ∨ regionOf (s.localAddr a) = .aperture p o) →
      s.accessErr a w = none → loadMemory t u a w l f s = giveLoad t u a w l.kind f (s.requestLines (tileUnit t u) a w)) ∧
    (f.all Option.isSome = false → (∃ o, regionOf (s.localAddr a) = .home o ∨ regionOf (s.localAddr a) = .direct o) →
      s.accessErr a w = none → v = giveLoad t u a w l.kind f s →
      (∀ k ∈ linesOf (s.localAddr a) w, k ∈ (s.ucore t u).lines ∧ k ∉ (s.ucore t u).badFills) →
      (s.localAddr a = a → l.nc = false →
        loadMemory t u a w l f s = v.updUcore t u (UCore.touch (l.kind == .fetch) (linesOf a w))) ∧
      (s.localAddr a ≠ a ∨ l.nc = true →
        loadMemory t u a w l f s = v.updUcore t u (fun x => { x with
          lines := x.lines.filter (fun k => !(linesOf (s.localAddr a) w).contains k || (x.l1i ++ x.l1d).contains k) })))) ∧
  (∀ (t u a w : Nat) (k : StoreOf) (v : Word) (s : State), s.ucoreRuns t u = true → forbidden a w k.kind = false →
    storeUnbacked s a w = false → (k.kind = .plain ∨ k.kind = .vector) → (s.ucore t u).buffer.length < 64 →
    exec (.hostStore t u a w k v) s = .next (s.updUcore t u (fun x => { x with
      buffer := x.buffer ++ [{ addr := a, width := w, value := v.toNat % 2 ^ (8 * w), nc := k.nc }], trap := none }))) ∧
  (∀ (t u a w : Nat) (nc : Bool) (v : Word) (s : State), s.ucoreRuns t u = true → storeUnbacked s a w = false →
    (s.ucore t u).noStores = true → (∀ l ∈ linesOf a w, l ∈ (s.ucore t u).lines ∧ l ∉ (s.ucore t u).badFills) →
    s.noRoom (linesOf a w) = false →
    (∀ op, forbidden a w (.amo op) = false → exec (.hostStore t u a w ⟨.amo op, nc⟩ v) s = .next (landAmo t u a w op v.toNat s)) ∧
    (forbidden a w .sc = false → exec (.hostStore t u a w ⟨.sc, nc⟩ v) s = .next (landSc t u a w (v.toNat % 2 ^ (8 * w)) s))) ∧
  (∀ (t u : Nat) (x : UStore) (rest : List UStore) (s : State), (s.ucore t u).buffer = x :: rest → (s.ucore t u).tracker = [] →
    isTracked x.addr = false → (∀ o, regionOf x.addr ≠ .shutter o) → s.noRoom (linesOf (s.localAddr x.addr) x.width) = false →
    (x.nc = true ∨ (s.accessErr x.addr x.width).isSome = true ∨
      ∀ l ∈ linesOf x.addr x.width, l ∈ (s.ucore t u).lines ∧ l ∉ (s.ucore t u).badFills) →
    exec (.storeDrain t u) s = .next (landStore t u x (popStore t u s))) ∧
  (∀ (t u o : Nat) (x : UStore) (rest : List UStore) (s : State), (s.ucore t u).buffer = x :: rest → (s.ucore t u).tracker = [] →
    regionOf x.addr = .shutter o →
    exec (.storeDrain t u) s = .next (if x.width < 4 then narrowStore o (popStore t u s)
      else writeShutter .core o x.width x.value (popStore t u s))) ∧
  (∀ (t u : Nat) (x : UStore) (rest : List UStore) (s v : State), (s.ucore t u).buffer = x :: rest → (s.ucore t u).tracker.length < 16 →
    (∀ z ∈ (s.ucore t u).tracker, targetOf z.addr = targetOf x.addr) → isTracked x.addr = true → targetDown s x.addr x.width = none →
    v = (popStore t u s).requestWrites (tileUnit t u) true x.addr (bytesOfNat x.width x.value) →
    exec (.storeDrain t u) s = .next (v.updUcore t u (fun y => { y with tracker := y.tracker ++ [{ x with since := v.now }] }))) ∧
  (∀ (t u : Nat) (x : UStore) (rest : List UStore) (s : State), (s.ucore t u).tracker = x :: rest →
    s.now < (x.bound s).1 → s.accessErr x.addr x.width ≠ some .timeout →
    exec (.writeAck t u 0) s = .next (landStore t u x (popTracked t u s))) ∧
  (∀ (t u : Nat) (pw po : Bool) (s : State), s.ucoreRuns t u = true → (pw = true ∨ po = true →
      (s.ucore t u).buffer = [] ∧ (s.ucore t u).tracker = []) →
    exec (.fence t u pw po) s = .next (s.updUcore t u (fun x => { x with fences := x.fences + 1 })))

/-- A request that reaches the completion timeout completes with error, as does a store whose acknowledgement comes after it or after its
peer was declared down; a write of 1 to VALID and OVERFLOW clears them and with VALID the pending interrupt, the other accesses to the
interrupt's CSRs, on the same row (the model's choice, log 127), read them or set its enables, and a machine check withdraws its core. -/
def Obligations.UlturErrorsComplete : Prop :=
  (∀ (t u : Nat) (x : UStore) (rest : List UStore) (s : State), (s.ucore t u).tracker = x :: rest →
    (∀ d, s.silentAt x.addr = some d → x.since + s.timeoutNs < d) →
    exec (.completionTimeout (.store t u 0)) s = .next (busError t u x.addr 0
      (popTracked t u (advanceTo (x.since + s.timeoutNs) s)))) ∧
  (∀ (t u : Nat) (x : UStore) (rest : List UStore) (s : State), (s.ucore t u).tracker = x :: rest → (x.bound s).1 ≤ s.now →
    exec (.writeAck t u 0) s = .next (busError t u x.addr (x.bound s).2 (popTracked t u (advanceTo (x.bound s).1 s)))) ∧
  (∀ (x : UStore) (d : Nat) (s : State), s.silentAt x.addr = some d → d ≤ x.since + s.timeoutNs → x.bound s = (d, 1)) ∧
  (∀ (t c pos : Nat) (s : State), exec (.completionTimeout (.row t c pos)) s = .next (timeoutRow t c pos s)) ∧
  (∀ (k : Nat) (s : State), exec (.completionTimeout (.accumulate k)) s = .next (timeoutAcc k s)) ∧
  (∀ (id : CmdId) (seg a at' : Nat) (s : State),
    exec (.completionTimeout (.command id seg a at')) s = .next (timeoutCommand id seg a at' s)) ∧
  (∀ (t u v : Nat) (smode : Bool) (s : State), s.ucoreRuns t u = true → (smode = true → (s.ucore t u).mideleg16 = true) →
    exec (.uberrInfoWrite t u (.info smode v)) s = .next (s.updUcore t u (fun x => { x with
      errValid := x.errValid && !bit v 0, errOver := x.errOver && !bit v 1, mip16 := x.mip16 && !bit v 0
      irq := if x.mip16 && !bit v 0 && x.mie16 then some x.mideleg16 else none }))) ∧
  (∀ (t u n v : Nat) (smode : Bool) (s : State), s.ucoreRuns t u = true → (s.ucore t u).csr smode n = some v →
    exec (.uberrInfoWrite t u (.read smode n)) s = .next (takeValue t u v s)) ∧
  (∀ (t u : Nat) (on : Bool) (s : State), s.ucoreRuns t u = true →
    exec (.uberrInfoWrite t u (.mie on)) s = .next (s.updUcore t u (fun x => { x with
      mie16 := on, irq := if x.mip16 && on then some x.mideleg16 else none })) ∧
    exec (.uberrInfoWrite t u (.mideleg on)) s = .next (s.updUcore t u (fun x => { x with
      mideleg16 := on, irq := if x.mip16 && x.mie16 then some on else none }))) ∧
  (∀ (t u v : Nat) (s s' : State), s.ucoreRuns t u = true → s.draw = (v, s') →
    exec (.ulturMachineCheck t u) s = .next (fltPost 2 1 (tileUnit t u) noUnit 0 4 (v % 256)
      (withCap (fun s => s.updUcore t u (fun x => { x with inService := false }))
        ((appendRepair 4 t (s.ucore t u).phys (v % 256) s').updTile t (fun x => { x with
          badUcores := insertNat (s.ucore t u).phys x.badUcores })))))

/-- A store that completes with error keeps the first address and kind, says OVERFLOW of a further one, and raises local
interrupt 16, which is taken where mie bit 16 enables it, in the mode that mideleg bit 16 says. -/
def Obligations.BusErrorKeepsFirst : Prop :=
  ∀ (t u a k : Nat) (s : State), s.Canonical →
    ((s.ucore t u).errValid = false →
      (busError t u a k s).ucore t u = { s.ucore t u with
          errValid := true, errAddr := a, errKind := k, mip16 := true
          irq := if (s.ucore t u).mie16 then some (s.ucore t u).mideleg16 else (s.ucore t u).irq }) ∧
    ((s.ucore t u).errValid = true →
      (busError t u a k s).ucore t u = { s.ucore t u with
          errOver := true, mip16 := true
          irq := if (s.ucore t u).mie16 then some (s.ucore t u).mideleg16 else (s.ucore t u).irq }) ∧
    (∀ t' u', 8 * t' + u' ≠ 8 * t + u → (busError t u a k s).ucore t' u' = s.ucore t' u')

/-- Accesses that the Shutter space refuses take an access fault: instruction fetches, vector accesses, AMOs and misaligned
accesses; a 1- or 2-byte load returns the addressed bytes of the register, and a 1- or 2-byte store changes no register and is
logged; one that is misaligned does neither. -/
def Obligations.ShutterAccessRules : Prop :=
  (∀ (t u a w o : Nat) (l : LoadOf) (s : State), s.ucoreRuns t u = true → regionOf a = .shutter o → (l.kind ≠ .plain ∨ a % w ≠ 0) →
    exec (.hostLoad t u a w l) s = .next (takeTrap t u (faultCause false l.kind) a s)) ∧
  (∀ (t u a w o : Nat) (k : StoreOf) (v : Word) (s : State), s.ucoreRuns t u = true → regionOf a = .shutter o →
    (k.kind ≠ .plain ∨ a % w ≠ 0) →
    exec (.hostStore t u a w k v) s = .next (takeTrap t u (faultCause true k.kind) a s)) ∧
  (∀ (o w : Nat) (s : State), reaches s .core o = true →
    (readShutter .core o w s).1 = shutterRead s (o / 8 * 8) / 2 ^ (8 * (o % 8)) % 2 ^ (8 * w)) ∧
  (∀ (o w : Nat) (v : Word) (s : State), o % w ≠ 0 → exec (.shutterNarrowStore o w v) s = .next s) ∧
  (∀ (o w : Nat) (v : Word) (s : State), s.start.phase = .ready → w < 4 → o % w = 0 →
    exec (.shutterNarrowStore o w v) s = .next (narrowStore o s) ∧
    ∃ n, narrowStore o s = fltPost 7 4 noUnit n (shutterBase + o) 0 0 s)

/-- A load takes its bytes from the youngest buffered store to them, and every byte that no buffered store gives from memory; one
that needs two stores waits until they drain; one that a single store covers, of a backed local address or of another package, takes its value
from it; loads from the Shutter space and from apertures wait for the buffer and never forward. Addresses are compared as they stand (the
model's choice, log 115). -/
def Obligations.LoadForwarding : Prop :=
  (∀ (t u a w o errs : Nat) (nc : Bool) (s : State), s.ucoreRuns t u = true →
    (regionOf a = .home o ∨ regionOf a = .direct o ∨ ∃ p, regionOf a = .remote p o) →
    needsDrain (forwards (s.ucore t u).buffer a w) = true → exec (.hostLoad t u a w ⟨.plain, nc, errs⟩) s = .next s) ∧
  (∀ (t u a w o errs : Nat) (nc : Bool) (x : UStore) (older younger : List UStore) (s : State), s.ucoreRuns t u = true →
    (((regionOf a = .home o ∨ regionOf a = .direct o) ∧ s.backed a w = true) ∨ ∃ p, regionOf a = .remote p o ∧ s.isSelf p = false) →
    (s.ucore t u).buffer = older ++ x :: younger → 0 < w → x.addr ≤ a → a + w ≤ x.addr + x.width →
    (∀ y ∈ younger, y.addr + y.width ≤ a ∨ a + w ≤ y.addr) →
    exec (.hostLoad t u a w ⟨.plain, nc, errs⟩) s = .next (s.updUcore t u (fun y => { y with
      loaded := x.value / 2 ^ (8 * (a - x.addr)) % 2 ^ (8 * w), trap := none }))) ∧
  (∀ (t u a w i : Nat) (kind : AccKind) (s : State), s.Canonical → i < w →
    (∀ (x : UStore) (older younger : List UStore), (s.ucore t u).buffer = older ++ x :: younger →
      x.addr ≤ a + i → a + i < x.addr + x.width → (∀ y ∈ younger, y.addr + y.width ≤ a + i ∨ a + i < y.addr) →
      ((giveLoad t u a w kind (forwards (s.ucore t u).buffer a w) s).ucore t u).loaded / 2 ^ (8 * i) % 256 =
        x.value / 2 ^ (8 * (a + i - x.addr)) % 256) ∧
    ((∀ y ∈ (s.ucore t u).buffer, y.addr + y.width ≤ a + i ∨ a + i < y.addr) →
      ((giveLoad t u a w kind (forwards (s.ucore t u).buffer a w) s).ucore t u).loaded / 2 ^ (8 * i) % 256 =
        ((s.peek a w).getD i 0).toNat)) ∧
  (∀ (t u a w p o errs : Nat) (nc : Bool) (s : State), s.ucoreRuns t u = true → forbidden a w .plain = false →
    (regionOf a = .shutter o ∨ regionOf a = .aperture p o) → (s.ucore t u).buffer ≠ [] →
    exec (.hostLoad t u a w ⟨.plain, nc, errs⟩) s = .next s)

/-- A plain or vector store, to whatever region, enters the store buffer when it commits, or takes its exception, and nothing outside
its core's state changes; it becomes visible in memory only when it leaves the buffer. -/
def Obligations.StoresWaitInBuffer : Prop :=
  ∀ (t u a w : Nat) (k : StoreOf) (v : Word) (s s' : State), isAtomic k.kind = false → exec (.hostStore t u a w k v) s = .next s' →
    s' = { s with ucores := s'.ucores }

/-! ### Registers and the paths to them (00 R14; 03 R92 to R94; 12 R396, R410) -/

/-- An aligned register access over an open path reads or writes the register; a request of a host that a BAR covers goes to its
register or memory, a read with its data once the controllers have served its lines, and one that none covers ends in error. A
configuration request is answered with retry until the port answers, and no other request is answered before. A register access
changes nothing while its path is closed: only the reader is told that it failed. -/
def Obligations.RegisterAccessesComplete : Prop :=
  ((∀ (via : Via) (o w : Nat) (v : Word) (s : State), pathOpen s via = true → o % w = 0 → 4 ≤ w →
      exec (.registerWrite via o w v) s = .next (writeShutter via o w v.toNat s)) ∧
    (∀ (via : Via) (o w : Nat) (s : State), pathOpen s via = true → o % w = 0 →
      exec (.registerReadClear via o w) s = .next { (readShutter via o w s).2 with bus := (readShutter via o w s).1, busError := false }) ∧
    (∀ (p off : Nat) (q : Tlp) (s : State), s.portOpen p = true → tlpTarget s p q = .reg off →
      exec (.hostTlp p q) s = .next (tlpReg p q off s)) ∧
    (∀ (p a : Nat) (q : Tlp) (s : State), s.portOpen p = true → tlpTarget s p q = .mem a →
      exec (.hostTlp p q) s = .next (tlpMem p q a s)) ∧
    (∀ (p a : Nat) (q : Tlp) (u s : State), q.isWrite = true → s.writeMem a q.data = .ok u → s.noRoom (linesOf (s.localAddr a) q.data.length) = false →
      tlpMem p q a s = { (u.noteWrites a q.data.length).demandShared a q.data.length with busError := false }) ∧
    (∀ (p a : Nat) (q : Tlp) (bs : List Byte) (u s : State), q.isWrite = false → s.readMem a (tlpSize q) = .ok bs →
      u = s.demandRead (.tlp p s.freshTag a q.mem bs) a (tlpSize q) →
      (u.linesPending (.tlp p s.freshTag a q.mem bs) a (tlpSize q) = true → tlpMem p q a s = u) ∧
      (u.linesPending (.tlp p s.freshTag a q.mem bs) a (tlpSize q) = false → tlpMem p q a s = tlpData p a q.mem bs u)) ∧
    (∀ (p : Nat) (q : Tlp) (s : State), (s.port p).linkUp = true → tlpTarget s p q = .config →
      exec (.hostTlp p q) s = .next (tlpConfig p q s)) ∧
    (∀ (p : Nat) (q : Tlp) (s : State), s.portOpen p = false → tlpTarget s p q ≠ .config → exec (.hostTlp p q) s = .next s) ∧
    (∀ (p : Nat) (q : Tlp) (s : State), s.portOpen p = true → tlpTarget s p q = .unsupported →
      exec (.hostTlp p q) s = .next (tlpError p s))) ∧
  (∀ (via : Via) (o w : Nat) (v : Word) (s : State), pathOpen s via = false →
      exec (.registerWrite via o w v) s = .next s ∧ exec (.registerReadClear via o w) s = .next { s with busError := true })

/-- A plain register keeps what is written: FLT_MSI_ADDR and FLT_MSI_DATA read back the bits written. -/
def Obligations.RegisterReadsBack : Prop :=
  ∀ (v : Word) (s : State), s.start.phase = .ready →
    (∃ t u, exec (.registerWrite .core 0x60008 8 v) s = .next t ∧ exec (.registerReadClear .core 0x60008 8) t = .next u ∧
      u.bus % 2 ^ 56 = v.toNat % 2 ^ 56) ∧
    (∃ t u, exec (.registerWrite .core 0x60010 8 v) s = .next t ∧ exec (.registerReadClear .core 0x60010 8) t = .next u ∧
      u.bus % 2 ^ 32 = v.toNat % 2 ^ 32)

/-- The I3C target answers while I/O die 0 has power: ENTDAA and SETDASA give it an address where it has none, SETNEWDA changes
it, and private transfers at its address set the offset, write eight bytes and read eight. The TAP of a die with power executes
BYPASS, IDCODE and SAMPLE/PRELOAD at any time. -/
def Obligations.PinBusesComplete : Prop :=
  ((∀ (a : Nat) (s : State), s.i3cOn = true → s.i3c.dynamic = none →
      exec (.entdaa a) s = .next { s with i3c := { s.i3c with dynamic := some (a % 128), hotJoin := false }, bus := s.provisional }) ∧
    (∀ (a : Nat) (s : State), s.i3cOn = true → s.i3c.dynamic = none →
      exec (.setdasa (0x30 + s.i3c.strap % 16) a) s = .next { s with i3c := { s.i3c with dynamic := some (a % 128), hotJoin := false } }) ∧
    (∀ (o a : Nat) (s : State), s.i3cOn = true → s.i3c.dynamic = some o →
      exec (.setnewda o a) s = .next { s with i3c := { s.i3c with dynamic := some (a % 128) } }) ∧
    (∀ (a o : Nat) (s : State), s.i3cAt a = true →
      exec (.i3cPrivateWrite a o none) s = .next { s with i3c := { s.i3c with offset := o % 2 ^ 32 } }) ∧
    (∀ (a o : Nat) (w : Word) (s : State), s.i3cAt a = true → isRegister (o % 2 ^ 32) = true →
      exec (.i3cPrivateWrite a o (some w)) s = .next (writeShutter .i3c (o % 2 ^ 32) 8 w.toNat
        { s with i3c := { s.i3c with offset := o % 2 ^ 32 } })) ∧
    (∀ (a : Nat) (s : State), s.i3cAt a = true → isRegister s.i3c.offset = true →
      exec (.i3cPrivateRead a) s = .next { (readShutter .i3c s.i3c.offset 8 s).2 with
        bus := (readShutter .i3c s.i3c.offset 8 s).1, busError := false })) ∧
  (∀ (die : Nat) (s : State), s.tapOn die = true →
      exec (.bypass die) s = .next { s with taps := setAt s.taps die { s.tap die with instr := .bypass, shift := 0, driving := false } } ∧
      exec (.idcode die) s = .next { s with taps := setAt s.taps die { s.tap die with instr := .idcode, shift := idcodeOf die, driving := false } } ∧
      ∀ pins pre, exec (.samplePreload die pins pre) s = .next { s with
        taps := setAt s.taps die { s.tap die with instr := .sample, shift := pins, boundary := pre, driving := false } })

/-- The EXTEST instructions take effect while PKG_RESET_N is low; at any other time each of them is executed as BYPASS, and the
package goes on: nothing but the die's TAP changes. The TAP works whenever its die's domain has power, whatever the start's
phase. -/
def Obligations.ExtestOnlyInReset : Prop :=
  ∀ (die : Nat) (s : State), s.tapOn die = true →
    (s.resetLow = true →
      exec (.extest die) s = .next { s with taps := setAt s.taps die { s.tap die with instr := .extest, driving := true } } ∧
      exec (.extestPulse die) s = .next { s with taps := setAt s.taps die { s.tap die with instr := .extestPulse, driving := true } } ∧
      exec (.extestTrain die) s = .next { s with taps := setAt s.taps die { s.tap die with instr := .extestTrain, driving := true } }) ∧
    (s.resetLow = false →
      exec (.extest die) s = exec (.bypass die) s ∧ exec (.extestPulse die) s = exec (.bypass die) s ∧
      exec (.extestTrain die) s = exec (.bypass die) s ∧
      ∃ t, exec (.bypass die) s = .next t ∧ t = { s with taps := t.taps } ∧ ∀ d, d ≠ die → t.tap d = s.tap d)

/-! ### Links and laser modules (chapter 12) -/

/-- On a link that carries flits: one that fails its CRC is counted and starts discarding, the expected one is taken with its
acknowledgement, any other changes only the counts of the link; a NAK makes its sender send every flit from the named one on again, and at
the 16th replay within 1 ms retrain; 2 ms without a valid flit bring the link DOWN. A message toward another package goes on by its class, an
RQ by the hash and an RS by the recorded passage, and one that has made three hops is dropped and logged, with an error response to its
sender; a request of another package is applied and its number noted. -/
def Obligations.LinkTrafficCompletes : Prop :=
  ((∀ (k : Nat) (f : Flit) (s : State), (s.link k).carries = true → f.crcOk = false →
      exec (.flitReceive k f) s = .next (State.updLink { s.updLink k (fun l => { l with fec := l.fec + BitVec.ofNat 64 f.corrected }) with
          outMsgs := s.outMsgs ++ [({ link := k, dst := (s.link k).peerAddr, bytes := bytesOfNat 2 (s.link k).expected } : OutMsg)] } k
        (fun l => { l with crcFail := satAdd 16 l.crcFail 1, discarding := true, naks := l.naks + 1 }))) ∧
    (∀ (k : Nat) (f : Flit) (s : State), s.Canonical → (s.link k).carries = true → f.crcOk = true → f.seq = (s.link k).expected →
      exec (.flitReceive k f) s = .next ((s.updLink k (fun l => { l.credited f.credits with
        fec := l.fec + BitVec.ofNat 64 f.corrected, lastFlit := s.now, expected := (l.expected + 1) % 4096, discarding := false
        rx := l.rx + BitVec.ofNat 64 f.bytes, unacked := ackUpTo f.ack l.unacked })).pumpLink k)) ∧
    (∀ (k : Nat) (f : Flit) (s : State), s.Canonical → (s.link k).carries = true → f.crcOk = true → f.seq ≠ (s.link k).expected →
      exec (.flitReceive k f) s = .next (s.updLink k (fun l => { l with fec := l.fec + BitVec.ofNat 64 f.corrected, lastFlit := s.now }))) ∧
    (∀ (k seq : Nat) (s : State), (s.link k).carries = true →
      (((s.link k).replayTimes ++ [s.now]).filter (fun t => decide (s.now < t + 1000000))).length < 16 →
      exec (.nakReceive k seq) s = .next ((s.updLink k (fun l => { l with
        replay := satAdd 16 l.replay 1
        replayTimes := ((s.link k).replayTimes ++ [s.now]).filter (fun t => decide (s.now < t + 1000000))
        unacked := nakFrom seq l.unacked })).replayLink k |>.pumpLink k)) ∧
    (∀ (seq : Nat) (m : WaitMsg) (before after : List (Nat × WaitMsg)), (∀ x ∈ before, x.1 ≠ seq) →
      nakFrom seq (before ++ (seq, m) :: after) = (seq, m) :: after) ∧
    (∀ (k : Nat) (s : State), (s.replayLink k).outMsgs = s.outMsgs ++ (s.link k).unacked.map (fun x => ⟨k, x.2.dst, x.2.bytes⟩)) ∧
    (∀ (k seq : Nat) (s : State), (s.link k).carries = true →
      16 ≤ (((s.link k).replayTimes ++ [s.now]).filter (fun t => decide (s.now < t + 1000000))).length →
      exec (.nakReceive k seq) s = .next (retrainLink k (s.updLink k (fun l => { l with
        replay := satAdd 16 l.replay 1
        replayTimes := ((s.link k).replayTimes ++ [s.now]).filter (fun t => decide (s.now < t + 1000000))
        unacked := nakFrom seq l.unacked })))) ∧
    (∀ (k : Nat) (s : State), (s.link k).carries = true ∨ (s.link k).joined = true → (s.link k).state ≠ .disabled →
      exec (.linkSilenceTimeout k) s = .next (linkDown k .down (advanceTo ((s.link k).lastFlit + 2000000) s)))) ∧
  ((∀ (m : FwdMsg) (s : State), s.gang.addr.isSome = true → s.isSelf m.dst = false → m.hops < 3 → m.cls = .rq →
      exec (.messageForward m) s = .next (forwardRq m s)) ∧
    (∀ (m : FwdMsg) (s : State), s.gang.addr.isSome = true → s.isSelf m.dst = false → m.hops < 3 → m.cls = .rs →
      exec (.messageForward m) s = .next (forwardRs m s)) ∧
    (∀ (m : FwdMsg) (s : State), s.gang.addr.isSome = true → s.isSelf m.dst = false → m.hops < 3 → m.cls = .mg →
      exec (.messageForward m) s = .next (forwardMg m s)) ∧
    (∀ (m : FwdMsg) (s : State), s.gang.addr.isSome = true → s.isSelf m.dst = false → 3 ≤ m.hops →
      exec (.messageForward m) s = .next ((fltPost 4 5 m.arrival noUnit 0 0 (s.link m.arrival).peerAddr s).respond ⟨m.src, m.arrival⟩ [])) ∧
    (∀ (src : Origin) (seq : Nat) (r : RemoteReq) (s : State), s.gang.addr.isSome = true →
      (Table.get [] s.gang.seen src.pkg).contains seq = false →
      exec (.remoteRequest src seq r) s = .next (applyRemote src seq r { s with gang := { s.gang with
        seen := Table.put [] s.gang.seen src.pkg
          ((Table.get [] s.gang.seen src.pkg ++ [seq]).drop ((Table.get [] s.gang.seen src.pkg).length + 1 - 4096)) } })) ∧
    (∀ (src : Origin) (seq addr prev : Nat) (data : List Byte) (s : State), s.awaits src.pkg seq prev = true →
      applyRemote src seq (.write addr data (some prev)) s = { s with gang := { s.gang with
        waitWrites := s.gang.waitWrites ++ [⟨src, seq, addr, data, prev⟩] } }) ∧
    (∀ (src : Origin) (seq addr prev : Nat) (data : List Byte) (s : State), s.awaits src.pkg seq prev = false →
      applyRemote src seq (.write addr data (some prev)) s =
        releaseWrites (serveRemote src (.write addr data (some prev)) s).gang.waitWrites.length (serveRemote src (.write addr data (some prev)) s)))

/-- A DOWN link that may train starts training where it sees a signal; training ends UP, LOCAL or DOWN by the wavelengths that
work; RETRAIN, ENABLE and a failed wavelength, of one link or with its source of the module's four, act on links that are there; modules drain,
are seated and are removed. -/
def Obligations.LinkChangesComplete : Prop :=
  (∀ (k : Nat) (signal : Bool) (s : State), (s.link k).state = .down → s.linksOn = true → s.mayTrain k = true →
    exec (.linkTrainingRetry k signal) s = .next ((advanceTo (s.link k).retryAt s).updLink k (fun l => { l with
      state := if signal then .training else .down, retryAt := (advanceTo (s.link k).retryAt s).now + 10000000 }))) ∧
  (∀ (k : Nat) (p : PeerInfo) (s : State), (s.link k).state = .training → s.linkPower k = true → s.working k p < 4 →
    exec (.linkTrainingDone k p) s = .next (linkDown k .down s)) ∧
  (∀ (k : Nat) (p : PeerInfo) (s u v : State), (s.link k).state = .training → s.linkPower k = true → 4 ≤ s.working k p →
    u = (s.updLink k (s.trainedLink k p)).pumpLink k →
    v = (if p.assigned then u.updPeer (p.addr % 2 ^ 15) (fun q => { q with down := false }) else u) →
    (9 ≤ s.working k p ∨ (s.link k).spareUsed = true → exec (.linkTrainingDone k p) s = .next v) ∧
    (s.working k p < 9 → (s.link k).spareUsed = false →
      exec (.linkTrainingDone k p) s = .next (fltPost 4 4 k noUnit 0 (if s.working k p < 8 then 4 else 8) (p.addr % 2 ^ 15) v))) ∧
  (∀ (k : Nat) (s : State), (s.link k).carries = true → exec (.linkRetrain k) s = .next (retrainLink k s)) ∧
  (∀ (k : Nat) (s : State), s.variant.hasLink k = true →
    exec (.linkEnable k true) s = .next (wakeLink k (s.updLink k (fun l => { l with enable := true })))) ∧
  (∀ (k : Nat) (s : State), s.variant.hasLink k = true →
    exec (.linkEnable k false) s = .next (linkDown k .disabled (s.updLink k (fun l => { l with enable := false })))) ∧
  (∀ (k w : Nat) (s v : State), s.vflash = true → s.variant.hasLink k = true → (s.link k).failed.contains w = false →
    v = withCap (fun s => s.updLink k (fun l => { l with failed := insertNat w l.failed }))
      (appendRepair 8 0xFF k (w + flagAt (decide (s.deadWaves k = 0)) 4) s) →
    exec (.wavelengthFailure k ⟨w, false⟩) s = .next (if (v.link k).carries then retrainLink k v else v)) ∧
  (∀ (k w : Nat) (s v : State), s.vflash = true → s.variant.hasLink k = true → waveLinks k ⟨w, true⟩ s ≠ [] →
    v = withCap (fun s => s.updLaser (k / 4) (fun m => { m with sources := m.sources &&& (0x1FF ^^^ 2 ^ w) }))
      ((waveLinks k ⟨w, true⟩ s).foldl (fun s j => appendRepair 8 0xFF j (w + flagAt (decide (s.deadWaves j = 0)) 4) s) s) →
    exec (.wavelengthFailure k ⟨w, true⟩) s = .next ((waveLinks k ⟨w, true⟩ s).foldl
      (fun s j => if (s.link j).carries then retrainLink j s else s) v)) ∧
  (∀ (n : Nat) (on : Bool) (s v : State), s.variant.hasLink (4 * n) = true →
    v = (moduleLinks n).foldl (fun s k => s.updLink k (Link.drain on s.gang.addr.isSome))
      (s.updLaser n (fun m => { m with drain := on, drained := m.drained && on })) →
    exec (.laserDrain n on) s = .next ((moduleLinks n).foldl (fun s k => if on then s.divert k else s.pumpLink k) v)) ∧
  (∀ (n : Nat) (s : State), (s.laser n).drain = true → (∀ k ∈ moduleLinks n, (s.link k).unacked = []) →
    exec (.laserDrained n) s = .next (s.updLaser n (fun m => { m with drained := true }))) ∧
  (∀ (n sources : Nat) (s : State), s.variant.hasLink (4 * n) = true → (s.laser n).present = false →
    exec (.laserModuleInsert n sources) s = .next ((moduleLinks n).foldl (fun s k => wakeLink k s)
      (withCap (fun s => s.updLaser n (fun m => { m with present := true, sources, ready := s.powered (.laser n) })) s))) ∧
  (∀ (n : Nat) (s : State), (s.laser n).present = true →
    exec (.laserModuleRemove n) s = .next ((moduleLinks n).foldl
      (fun s k => (stopLink k .disabled s).updLink k (fun l => { l with lastFlit := s.now }))
      (withCap (fun s => s.updLaser n (fun m => { m with present := false, ready := false, drained := false, sources := 0 })) s)))

/-! ### Gangs (chapter 12) -/

/-- A signed message of each type that arrives, passes the signature and freshness checks and is not refused by the state of its
target has its effect, and its sequence number is noted; one that a check refuses is only logged. Messages between devices have
their effect where they arrive on a link that is UP; a member leaves once no command of the gang has work on it; a message that
the package sends is applied here or goes out, and ends with its RESULT. -/
def Obligations.GangMessagesComplete : Prop :=
  ((∀ (k : Nat) (m : List Byte) (s : State), s.gangCheck m = none →
      (∀ u, s.gangArrives k 1 m = true → doAssign m s = .ok u → exec (.assign k m) s = .next (noteSeq m u)) ∧
      (∀ u, s.gangArrives k 2 m = true → doUnassign s = .ok u → exec (.unassign k m) s = .next (noteSeq m u)) ∧
      (∀ u, s.gangArrives k 3 m = true → doRoute m s = .ok u → exec (.route k m) s = .next (noteSeq m u)) ∧
      (∀ u, s.gangArrives k 4 m = true → doForm m s = .ok u → exec (.form k m) s = .next (noteSeq m u)) ∧
      (∀ u, s.gangArrives k 5 m = true → doFormEnd m s = .ok u → exec (.formEnd k m) s = .next (noteSeq m u)) ∧
      (∀ u, s.gangArrives k 6 m = true → doJoin m s = .ok u → exec (.join k m) s = .next (noteSeq m u)) ∧
      (∀ u, s.gangArrives k 7 m = true → doLeave m s = .ok u → exec (.leave k m) s = .next (noteSeq m u)) ∧
      (∀ u, s.gangArrives k 8 m = true → doDissolve m s = .ok u → exec (.dissolve k m) s = .next (noteSeq m u)) ∧
      (∀ u, s.gangArrives k 9 m = true → doQuery (some k) m s = .ok u → exec (.query k m) s = .next (noteSeq m u))) ∧
    (∀ (k r : Nat) (m : List Byte) (s : State), s.gangArrives k 3 m = true → s.gangCheck m = some r →
      r ≠ 0 ∧ exec (.route k m) s = .next (fltPost 0x0B 4 k noUnit 0 r 0 s))) ∧
  ((∀ (k : Nat) (m : List Byte) (s : State), deviceArrives 0x0A k m s = true →
      exec (.reply k m) s = .next (doQuery.deliver m s)) ∧
    (∀ (k : Nat) (m : List Byte) (s : State), deviceArrives 0x0B k m s = true → bit (gmValue m) 15 = false →
      exec (.down k m) s = .next (peerDown (gmValue m % 2 ^ 15) s.now s)) ∧
    (∀ (k : Nat) (m : List Byte) (s : State), deviceArrives 0x0B k m s = true → bit (gmValue m) 15 = true →
      exec (.down k m) s = .next (farLinkDown s)) ∧
    (∀ (k : Nat) (m : List Byte) (s u v : State) (cap : List Byte), deviceArrives 0x0C k m s = true → levelOk (gmLevel m) = true →
      (s.level (gmLevel m)).gang = gmGang m → gmValue m % 2 ^ 15 ∈ (s.level (gmLevel m)).members → s.freeBytes 256 = (cap, u) →
      v = withCap (fun s' => (s'.updPeer (gmValue m % 2 ^ 15) (fun q => { q with
          down := false, cap, homeBytes := fieldOf cap 0x28 8 })).setLevel (gmLevel m) { s.level (gmLevel m) with
            ready := insertNat (gmValue m % 2 ^ 15) (s.level (gmLevel m)).ready }) u →
      exec (.ready k m) s = .next (if v.outerLevel == some (gmLevel m) then chooseSource v else v)) ∧
    (∀ (n pkg : Nat) (s : State), levelOk n = true → (s.level n).formed = true → (s.level n).leaving.contains pkg = true →
      s.gangWork n pkg = false → s.isSelf pkg = true → exec (.leaveEffect n pkg) s = .next (endLevels n s)) ∧
    (∀ (n pkg : Nat) (s v w : State), levelOk n = true → (s.level n).formed = true → (s.level n).leaving.contains pkg = true →
      s.gangWork n pkg = false → s.isSelf pkg = false →
      v = withCap (fun s' => s'.setLevel n { s.level n with
        members := (s.level n).members.filter (fun p => p != pkg), ready := (s.level n).ready.filter (fun p => p != pkg)
        leaving := (s.level n).leaving.filter (fun p => p != pkg) }) s →
      w = { v with gang := { v.gang with left := insertNat pkg v.gang.left } } →
      exec (.leaveEffect n pkg) s = .next (if w.outerLevel == some n then chooseSource w else w)) ∧
    (∀ (answer : Nat) (s : State), s.variant.gangs = true → s.gang.addr = none →
      exec (.gangSend answer) s = .next { s with gang := { s.gang with result := gmNoRoute, busy := false } }) ∧
    (∀ (answer : Nat) (s : State), s.variant.gangs = true → s.gang.addr.isSome = true → s.isSelf (gmTarget s.gang.tx) = true →
      exec (.gangSend answer) s = .next { (applyMsg s.gang.tx s).1 with
        gang := { (applyMsg s.gang.tx s).1.gang with result := (applyMsg s.gang.tx s).2, busy := false } }) ∧
    (∀ (answer k : Nat) (s : State), s.variant.gangs = true → s.gang.addr.isSome = true → s.isSelf (gmTarget s.gang.tx) = false →
      s.gangLink s.gang.tx = some k → answer < gmNoAnswer →
      exec (.gangSend answer) s = .next { (s.emit k chanMg (gmTarget s.gang.tx) 128 s.gang.tx).answered s.gang.tx k answer with
        gang := { ((s.emit k chanMg (gmTarget s.gang.tx) 128 s.gang.tx).answered s.gang.tx k answer).gang with result := answer, busy := false } }))

/-! ### Station time (chapter 12) -/

/-- The edges, losses, Syncs, dialogues and pulses of station time have their effect: an edge off its expected time, or in its
place, a loss of either pin, a Sync of the gang time source over the path in use, which goes on over the other links, four intervals without
one, an announcement, with a Sync from the source (the model's choice, log 109), a PTM dialogue that succeeds or fails, the end of holdover, a write of the epoch, and an output pulse. -/
def Obligations.TimeEventsComplete : Prop :=
  (∀ (stamp : Word) (s : State), s.io1Up = false → exec (.ppsEdge stamp) s = .next s) ∧
  (∀ (stamp : Word) (s v : State), s.io1Up = true → v = advanceTo stamp.toNat s → v.time.onTime ((stamp.toNat : Int) - v.time.ppsDelay + v.clk.slew) = true →
    v.time.tod = none →
    exec (.ppsEdge stamp) s = .next { v with time := { v.time with ppsOk := true, tenOk := true, lastPps := some ((stamp.toNat : Int) - v.time.ppsDelay + v.clk.slew).toNat } }) ∧
  (∀ (stamp : Word) (sec : Nat) (s v : State), s.io1Up = true → v = advanceTo stamp.toNat s →
    v.time.onTime ((stamp.toNat : Int) - v.time.ppsDelay + v.clk.slew) = true → v.time.tod = some sec → v.time.source = 0 →
    exec (.ppsEdge stamp) s = .next (discipline (((sec : Int) - v.epoch) * 1000000000 - ((stamp.toNat : Int) - v.time.ppsDelay))
      { v with time := { v.time with ppsOk := true, tenOk := true, lastPps := some (((sec : Int) - v.epoch) * 1000000000).toNat, tod := some (sec + 1) } })) ∧
  (∀ (s : State), s.time.tenOk = true → s.time.source ≠ 0 →
    exec .ref10mLoss s = .next { s with time := { s.time with tenOk := false } }) ∧
  (∀ (s : State), s.time.tenOk = true → s.time.source = 0 → s.time.ppsOk = true →
    exec .ref10mLoss s = .next (lostReference { s with time := { s.time with tenOk := false } })) ∧
  (∀ (p : Nat) (s v : State), s.time.ppsOk = true → s.time.lastPps = some p → v = advanceTo (p + 1100000000) s →
    exec .ppsMissing s = .next (pinsLost (fun t => { t with ppsOk := false, lastPps := none }) v)) ∧
  (∀ (k : Nat) (m : SyncMsg) (s v : State), (s.link k).state = .up → s.outerLevel.isSome = true → s.isSelf m.source = false →
    v = learnSource m (s.updLink k (fun l => { l with oneWay := m.delayPs % 2 ^ 32 })) → v.time.isSource = false → v.time.srcAddr = m.source → m.hops < 3 → v.time.follows k (m.hops + 1) = true →
    exec (.ptpSync k m) s = .next ((setClass (if m.cls ≤ 2 then classOf m.cls else .isolated) (correct ((v.link k).corrected m)
      { v with time := { v.time with ptpOk := true, hops := m.hops + 1, upLink := some k, lastSync := v.now, offset := BitVec.ofInt 32 ((v.link k).corrected m), errBound := min m.errBound (2 ^ 32 - 1) } })).sendTime (some k) syncBytes)) ∧
  (∀ (s v : State), s.time.ptpOk = true → v = advanceTo (s.time.lastSync + 4 * s.time.interval) s → v.outerLevel.isSome = true →
    v.time.isSource = false →
    exec .ptpSyncLoss s = .next (setClass .isolated { v with time := { v.time with ptpOk := false, upLink := none } })) ∧
  (∀ (k : Nat) (s v u : State), k < 32 → (s.link k).state = .up → v = advanceTo (nextMultiple s.now 125000000) s →
    u = State.sendTime { v with time := { v.time with announces := v.time.announces + 1 } } none announceBytes →
    exec .ptpAnnounce s = .next (if u.time.isSource then u.sendTime none syncBytes else u)) ∧
  (∀ (p : Nat) (tai : Word) (s : State), (s.port p).linkUp = true → (s.port p).hostDown = false → p ≠ s.time.ptmPort →
    exec (.ptmDialogue p (some tai)) s = .next (s.updPort p (fun q => { q with ptmValid := true }))) ∧
  (∀ (p : Nat) (s : State), (s.port p).linkUp = true → (s.port p).hostDown = false → p = s.time.ptmPort → s.time.ptmFails < 3 →
    exec (.ptmDialogue p none) s = .next { s with time := { s.time with ptmFails := s.time.ptmFails + 1 } }) ∧
  (∀ (s v : State), s.time.cls = .holdover → s.leads = true → v = advanceTo (s.time.lostAt + s.time.hold * 10000000) s →
    exec .holdoverExpire s = .next (settleTime { v with time := { v.time with errBound := v.time.hold } })) ∧
  (∀ (value : Word) (s : State), s.outerLevel = none →
    exec (.timEpochWrite value) s = .next (setTai (s.now + s.time.epoch * 1000000000) (value.toNat % 2 ^ 48)
      { s with time := { s.time with epoch := value.toNat % 2 ^ 48 } })) ∧
  (∀ (s v : State), s.time.cls.ok = true → v = advanceTo (nextMultiple s.now 1000000000) s →
    exec .ppsOutPulse s = .next { v with time := { v.time with ppsPulses := v.time.ppsPulses + 1, ppsAt := some v.now } })

/-! ### Host ports and hinges (chapters 12 and 13) -/

/-- A host port comes up, goes down once with its host, resets a function's contexts and clears its events; a lane of an edge in
service fails, and what it costs the flits of its group is counted; the edge retrains and resumes. -/
def Obligations.PortAndHingeEventsComplete : Prop :=
  (∀ (p speed width : Nat) (cxl : Bool) (s : State), s.portPower p = true → s.start.phase ≠ .stopped →
    (s.start.phase = .vestibule → p = 0) →
    exec (.pcieLinkUp p speed width cxl) s = .next (s.updPort p (fun q => { q with
      linkUp := true, speed, width, cxl := cxl && decide (p % 2 = 0) && decide (speed = 6), busMaster := true
      evtRetrain := q.evtRetrain || (s.port p).linkUp }))) ∧
  (∀ (p : Nat) (flr : Bool) (s : State), exec (.hostDown ⟨p, flr⟩) s = .next ((hostDownPort p s).updPort p (fun q => { q with
    linkUp := q.linkUp && flr, cached := if flr then q.cached else [] }))) ∧
  (∀ (p : Nat) (s : State), (s.port p).hostDown = true → hostDownPort p s = s) ∧
  (∀ (p : Nat) (s : State), (s.port p).linkUp = true →
    exec (.hostLinkLossTimeout p) s = .next (hostDownPort p (s.updPort p (fun q => { q with linkUp := false })))) ∧
  (∀ (p v : Nat) (s : State), exec (.vfFlr p v) s = .next ((terminateIf (fun n c => decide (n / 64 = v) && c.onPort p) s).updPort p
    (fun q => { q with evtFlr := true }))) ∧
  (∀ (p : Nat) (value : Word) (s : State), exec (.pcieEvtWrite p value) s = .next (s.updPort p (fun q => { q with
    evtDown := q.evtDown && !bit value.toNat 0, hostDown := q.hostDown && !bit value.toNat 0
    evtRetrain := q.evtRetrain && !bit value.toNat 1, evtFlr := q.evtFlr && !bit value.toNat 2 }))) ∧
  (∀ (e dir lane n : Nat) (s u v : State), (s.edge e).state = .inService ∨ (s.edge e).state = .retraining → lane < dataLanes e + spareLanes e →
    (∀ f ∈ (s.edge e).lanes, ¬ (f.dir = dir ∧ f.lane = lane)) →
    u = appendRepair 5 0xFF e (lane + dir * 2 ^ 10 + 0x7FF * 2 ^ 16) s → u.draw = (n, v) →
    (∀ x : Edge, x = { s.edge e with lanes := (s.edge e).lanes ++ [{ dir, lane }], failedCount := satAdd 8 (s.edge e).failedCount 1
                                     due := some ((s.edge e).due.getD (v.now + 100000)) } →
      exec (.laneFailure e dir lane) s = .next (v.updEdge e (fun _ => match x.servesAs e dir lane with
        | some l => x.mark e dir (l / 32) n
        | none => x)))) ∧
  (∀ (e at' : Nat) (t : Training) (s : State), (s.edge e).due = some at' → (s.edge e).state = .inService → s.edgeWaits e = false →
    exec (.hingeRetrain e t) s = .next (beginRetrain e t (advanceTo at' s))) ∧
  (∀ (e : Nat) (t : Training) (s : State), (s.edge e).state = .inService → s.edgeWaits e = false →
    exec (.hingeCtrlRetrain ⟨e, t⟩) s = .next (beginRetrain e t s)) ∧
  (∀ (e : Nat) (t : Training) (s : State), (s.edge e).state = .retraining ∨ ((s.edge e).state = .inService ∧ s.edgeWaits e = true) →
    exec (.hingeCtrlRetrain ⟨e, t⟩) s = .next (s.updEdge e (fun x => { x with due := some (x.due.getD s.now) }))) ∧
  (∀ (e w : Nat) (s : State), (s.edge e).state = .retraining → (s.edge e).width e = some w → (s.edge e).groups ≤ w →
    exec (.hingeRetrainDone e) s = .next (s.updEdge e (fun x => { x.run e w s.start.image.plan with due := x.dueAfter s.now }))) ∧
  (∀ (e w : Nat) (s : State), (s.edge e).state = .retraining → (s.edge e).width e = some w → w < (s.edge e).groups →
    exec (.hingeRetrainDone e) s = .next (fltPost 4 1 e noUnit 0 w 0 (appendRepair 6 0xFF e w
      (s.updEdge e (fun x => { x.run e w s.start.image.plan with due := x.dueAfter s.now }))))) ∧
  (∀ (e : Nat) (s : State), (s.edge e).state = .retraining → (s.edge e).width e = none →
    exec (.hingeRetrainDone e) s = .next (edgeOut e 0xFF s))

/-! ### Power and heat (chapter 14) -/

/-- Every 10 µs the buses are measured and summed, every 50 µs the controller sets the limit, every second is counted at its
boundary; limits are written in range, temperatures and the current guard set the limits of a tile, and supply domains come and
go, the loss of I/O die 0 stopping a package in service and leaving the open entry of any other start. -/
def Obligations.PowerEventsComplete : Prop :=
  (∀ (buses : List Nat) (s v : State), v = advanceTo (nextDue s.power.measuredAt 10000) s →
    exec (.powerMeasure buses) s = .next (noteLasers ((upTo 8).foldl (fun s t => noteDroop t s) { v with power := { v.power with energy := v.power.energy + buses.sum, second := v.power.second + buses.sum, recent := (buses :: v.power.recent).take 5, measuredAt := runMoment v.now 10000 } }))) ∧
  (∀ (model : List Nat) (s v w : State), v = notePower (advanceTo (nextDue s.power.controlledAt 50000) s) →
    w = cutExcursion { v with power := v.power.excurse } →
    exec (.powerControl model) s = .next (applyLimits (noteUnmet (decide (w.power.target w.variant.ceilingW < (w.power.powerMw : Nat)))
      { w with power := w.power.steer (wantedLimit model (w.power.target w.variant.ceilingW)) (decide (w.power.target w.variant.ceilingW < (w.power.powerMw : Nat))) }))) ∧
  (∀ (s v : State) (ends : Nat) (all secs : List (Nat × Nat)), ends = nextDue s.power.secondStart 1000000000 → v = advanceTo ends s →
    all = (v.power.second, ends - v.power.secondStart) :: v.power.seconds → secs = all.take v.power.forceWin →
    exec .powerSecond s = .next (withCap (fun x => { x with power := { v.power with
      lastS := averageW v.power.second (ends - v.power.secondStart)
      runW := averageW ((secs.map (fun e => e.1)).sum) ((secs.map (fun e => e.2)).sum)
      seconds := if v.power.inForce = v.power.forceW then keepSeconds all else []
      second := 0, secondStart := ends, forceW := v.power.inForce, forceWin := v.power.windowS } }) v)) ∧
  (∀ (via : Via) (value : Word) (s : State), s.start.phase ≠ .vestibule → s.wattsOk (bits value.toNat 15 0) = true →
    1 ≤ bits value.toNat 19 16 → bits value.toNat 19 16 ≤ 10 →
    exec (.pwrBmcCapWrite via offPwrLimit value) s = .next { s with power := { s.power with limitW := bits value.toNat 15 0, windowS := bits value.toNat 19 16 } }) ∧
  (∀ (value : Word) (s : State), s.wattsOk (bits value.toNat 15 0) = true →
    exec (.pwrBmcCapWrite .i3c offBmcCap value) s = .next { s with power := { s.power with capW := bits value.toNat 15 0 } }) ∧
  (∀ (t sill die : Nat) (s : State), s.variant.hasTile t = true → sill < 800 → die < 880 →
    exec (.thermalRead t sill die) s = .next (clampTile t sill die s)) ∧
  (∀ (sill die : Nat) (s : State), 920 ≤ die →
    (s.powered .io1 = true →
      exec (.thermalRead 9 sill die) s = .next (powerEvent 7 noUnit 0 0 (ioDie1Off (setDomain .io1 false true s)))) ∧
    (s.powered .io0 = true → s.start.phase ≠ .stopped → exec (.thermalRead 8 sill die) s = .next (packageStop 3 s))) ∧
  (∀ (t : Nat) (s : State), (s.tile t).inService = true →
    exec (.currentGuardTrip t) s = .next (powerEvent 4 t (s.tpower t).powerW (s.tpower t).ilim (applyLimit t
      (s.updTpower t (fun x => { x with guard := true, guardEnd := s.now + 100000, trips := satAdd 16 x.trips 1 }))))) ∧
  (∀ (t : Nat) (s : State), (s.tpower t).guard = true →
    exec (.currentGuardEnd t) s = .next (applyLimit t ((advanceTo (s.tpower t).guardEnd s).updTpower t (fun x => { x with guard := false })))) ∧
  (∀ (n : Nat) (s : State), s.variant.hasDomain (.tile n) = true → (∀ x ∈ s.domains, ¬ (x.dom = .tile n ∧ x.lost = true)) →
    exec (.domainPowerGood (.tile n)) s = .next (withCap (setDomain (.tile n) true false) s)) ∧
  (∀ (n : Nat) (s : State), s.variant.hasDomain (.laser n) = true → (∀ x ∈ s.domains, ¬ (x.dom = .laser n ∧ x.lost = true)) →
    exec (.domainPowerGood (.laser n)) s = .next (laserPowered n (withCap (setDomain (.laser n) true false) s))) ∧
  (∀ (s : State), (∀ x ∈ s.domains, ¬ (x.dom = .io1 ∧ x.lost = true)) →
    exec (.domainPowerGood .io1) s = .next (withCap (setDomain .io1 true false) s)) ∧
  (∀ (d : Domain) (x : DomainState) (s : State), x ∈ s.domains → x.dom = d → x.lost = true → exec (.domainPowerGood d) s = .next s) ∧
  (∀ (s : State), (∀ x ∈ s.domains, ¬ (x.dom = .io0 ∧ x.lost = true)) → s.resetLow = false → s.powered .io0 = true →
    exec (.domainPowerGood .io0) s = .next s) ∧
  (∀ (s : State), (∀ x ∈ s.domains, ¬ (x.dom = .io0 ∧ x.lost = true)) → s.resetLow = true →
    exec (.domainPowerGood .io0) s = .next { (setDomain .io0 true false s) with resetLow := false, taps := s.taps.map Tap.released }) ∧
  (∀ (s : State), s.variant.hasDomain .io0 = true → (∀ x ∈ s.domains, ¬ (x.dom = .io0 ∧ x.lost = true)) → s.resetLow = false →
    s.powered .io0 = false →
    exec (.domainPowerGood .io0) s = .next ((setDomain .io0 true false s).restart false 1)) ∧
  (∀ (n : Nat) (s : State), s.powered (.tile n) = true →
    exec (.domainLost (.tile n)) s = .next (powerEvent 7 n 0 0 (tileLost n (withCap (setDomain (.tile n) false true) s)))) ∧
  (∀ (n : Nat) (s : State), s.powered (.laser n) = true →
    exec (.domainLost (.laser n)) s = .next (powerEvent 7 noUnit 0 0 (laserLost n (withCap (setDomain (.laser n) false true) s)))) ∧
  (∀ (s : State), s.powered .io1 = true →
    exec (.domainLost .io1) s = .next (powerEvent 7 noUnit 0 0 (ioDie1Off (setDomain .io1 false true s)))) ∧
  (∀ (s : State), s.powered .io0 = true → s.start.phase = .ready →
    exec (.domainLost .io0) s = .next (setDomain .io0 false false (tearClose (packageStop 2 s)))) ∧
  (∀ (s : State), s.powered .io0 = true → s.start.phase = .stopped →
    exec (.domainLost .io0) s = .next (setDomain .io0 false false s)) ∧
  (∀ (s : State), s.powered .io0 = true → s.start.phase = .running ∨ s.start.phase = .vestibule →
    exec (.domainLost .io0) s = .next (setDomain .io0 false false (supplyGone s)))

/-! ### Start, reset and security (chapter 15) -/

/-- A start runs its stages or stops the package with a reason, a stage that exceeds its bound fails with reason 8, and a retry (or
vestibule mode, where it is due), the watchdog, RESTART and a pin pulse of 10 µs or more start the package again with their
causes. An update is checked before the other bank is erased, and a bank read back well becomes the trial bank; a reset that meets
an update leaves the bank record as it was or as the update writes it; a COMMIT during a trial start makes it the active bank; a
compacted repair ledger keeps every record that no later one supersedes (log 135); MR_EXTEND extends MR5 to MR7; a write of the
fault ring's head lets held records in. -/
def Obligations.StartAndSecurityEventsComplete : Prop :=
  ((∀ (env : StageEnv) (s v : State), s.starting = true → runStage env s = (v, none) → exec (.startStage env) s = .next v) ∧
    (∀ (env : StageEnv) (reason detail : Nat) (s v : State), s.starting = true → runStage env s = (v, some (reason, detail)) →
      exec (.startStage env) s = .next (stopPackage reason detail v)) ∧
    (∀ (s : State), s.starting = true → s.start.stage ≠ 0 →
      exec .startStageTimeout s = .next (stopPackage 8 s.start.stage (advanceTo (s.start.since + s.stageBound * 1000000) s))) ∧
    (∀ (s : State), s.start.phase = .stopped → s.powered .io0 = true → s.resetLow = false →
      exec .startRetry s = .next (retry s)) ∧
    (∀ (s : State), s.start.phase = .ready ∨ s.start.phase = .running → s.powered .io0 = true → s.resetLow = false →
      exec .watchdog s = .next (s.restart false 4)) ∧
    (∀ (ctxs : List Nat) (s : State), exec (.stewardRestart ctxs) s = .next (ctxs.foldl reestablish s)) ∧
    (∀ (s : State), exec .clear s = .next { s with start := { s.start with cleared := true } }) ∧
    (∀ (s : State), s.start.phase = .vestibule → s.start.cleared = true →
      exec .restart s = .next ((closeStart 0x0C 0 0 s).restart false 5)) ∧
    (∀ (s : State), s.start.phase ≠ .vestibule → exec .restart s = .next s) ∧
    (∀ (ns : Nat) (taken : Bool) (s : State), 10000 ≤ ns →
      exec (.pkgReset ns taken) s = .next { s.restart false 2 with resetLow := true }) ∧
    (∀ (ns : Nat) (taken : Bool) (s : State), ns < 1000 → exec (.pkgReset ns taken) s = .next s)) ∧
  ((∀ (img : ImageView) (r : Nat) (s : State), s.fwResult img = some r →
      exec (.fwUpdateStart img) s = .next { s with start := { s.start with fwResult := r } }) ∧
    (∀ (img : ImageView) (s : State), s.fwResult img = none →
      exec (.fwUpdateStart img) s = .next { s with start := { s.start with fwBusy := true, fwImage := img }, flash := s.flash.setInactive ⟨false, false, 0, [], [], []⟩ }) ∧
    (∀ (s : State), s.start.fwBusy = true →
      exec (.fwUpdateDone false) s = .next { s with start := { s.start with fwBusy := false, fwResult := 4 } }) ∧
    (∀ (s : State) (f : Flash), s.start.fwBusy = true → f = s.flash.setInactive s.start.fwImage →
      exec (.fwUpdateDone true) s = .next { s with
        start := { s.start with fwBusy := false, fwResult := 0, updated := true }
        flash := f.setBank f.bank.asTrial }) ∧
    (∀ (s : State), s.flash.copy0 = s.flash.copy1 → s.flash.copy1.good = true →
      (tearBank s).flash.bank = s.flash.bank ∨ (tearBank s).flash.bank = s.flash.bank.asTrial) ∧
    (∀ (s : State), s.start.trial = true → s.flash.bank.trial = true → s.flash.bank.tried = true → s.flash.bank.committed = false →
      exec .commit s = .next { s with
        flash := s.flash.setBank { s.flash.bank with
          activeB := !s.flash.bank.activeB
          committed := true
          highest := max s.flash.bank.highest s.start.image.version
          count := (s.flash.bank.count + 1) % 2 ^ 32 } }) ∧
    (∀ (s : State), s.start.trial = false → exec .commit s = .next s) ∧
    (∀ (f : Flash) (r : RepairRecord) (older newer : List RepairRecord), f.repairs = older ++ r :: newer →
      (∀ x ∈ newer, x.supersedes r = false) → r ∈ f.compact.repairs) ∧
    (∀ (value : Word) (s : State), bit value.toNat 8 = true → bits value.toNat 1 0 < 3 →
      exec (.mrExtend value) s = .next { s with start := { s.start with mrs := setAt s.start.mrs (5 + bits value.toNat 1 0) (sm3 (s.start.mrs.getD (5 + bits value.toNat 1 0) (List.replicate 32 0) ++ s.start.mrExt)) } }) ∧
    (∀ (value : Word) (s : State), exec (.fltHeadWrite value) s = .next
      (fltDrainHeld s.flt.held.length { s with flt := { s.flt with head := value.setWidth 32 } })))

/-! ### Rules of the spec, one by one -/

/-- R175, every row of its table, and that the rule is commutative. -/
def Obligations.AttarAddition : Prop :=
  (∀ x y : Int, (x + y).natAbs ≤ 2 ^ 127 - 2 → Attar.add (.num x) (.num y) = .num (x + y)) ∧
  (∀ x y : Int, 2 ^ 127 - 2 < (x + y).natAbs → Attar.add (.num x) (.num y) = if 0 < x + y then .satP else .satN) ∧
  (∀ x : Int, Attar.add .satP (.num x) = .satP ∧ Attar.add .satN (.num x) = .satN) ∧
  Attar.add .satP .satP = .satP ∧ Attar.add .satN .satN = .satN ∧ Attar.add .satP .satN = .nar ∧
  (∀ a : Attar, Attar.add .nar a = .nar) ∧ (∀ a b : Attar, Attar.add a b = Attar.add b a)

/-- Every finite element code but a zero, of every format that a final rounding may target outside the MX formats, is the
rounding of its own value, in both modes and at every draw: decoding and rounding agree on every bit of a code (05 R161 to R163,
R180). -/
def Obligations.RoundingKeepsRepresentables : Prop :=
  ∀ (f : Fmt) (c m draw : Nat) (neg : Bool) (e : Int) (mode : Mode), f.isTarget = true → f.isMx = false → c < 2 ^ f.bits →
    decodeElem f c = .fin neg m e → m ≠ 0 → roundNum f mode draw (.fin neg m e) = c

/-- R177: a sum of fewer than 2³¹ attar terms depends only on the multiset of the terms, whatever their order and grouping; a
sum of any number of numeric terms in which no numeric partial sum overflows is the exact sum. -/
def Obligations.AttarSumOrderFree : Prop :=
  (∀ x y : SumTree, x.leaves.Perm y.leaves → x.leaves.length < 2 ^ 31 → (∀ a ∈ x.leaves, a.isTerm) → x.sum = y.sum) ∧
  (∀ x : SumTree, (∀ a ∈ x.leaves, ∃ w, a = .num w) → x.fits → x.sum = .num x.exact)

/-- R54 and R57: a waiting command's wait is satisfied exactly where COUNT − WAIT_VAL modulo 2³² is zero or positive as a signed
value; it is latched then and not before, and a command not ready is not dispatched. One that ends with S_DISCARDED signals no
token as it leaves. -/
def Obligations.TokenRules : Prop :=
  (∀ (c : Ctx) (e : Entry), e.waitEn = true →
    (waitHolds c e = true ↔ 0 ≤ ((Table.get {} c.tokens e.waitIdx).count - e.waitVal).toInt)) ∧
  (∀ (now : Nat) (c : Ctx) (e : Entry), e.phase = .waiting → e.waitDone = none →
    (waitHolds c e = true → (latch now c e).waitDone = some now) ∧
    (waitHolds c e = false → e.readyAt = none → (latch now c e).readyAt = none ∧ (latch now c e).waitDone = none)) ∧
  (∀ (id : CmdId) (t k : Nat) (e : Entry) (s : State), s.entry? id = some e → e.readyAt = none →
    exec (.commandDispatch id t k) s = .next s) ∧
  (∀ (id : CmdId) (e : Entry) (r : CmdResult) (s : State), s.Canonical → r.status = sDiscarded →
    ((completeEntry id e r s).ctx id.ctx).tokens = (s.ctx id.ctx).tokens)

/-- R216: a rise of an issue limit by more than 8/64 takes effect in steps of 8/64, one per slot, and a fall, like a rise of at
most 8/64, takes effect at once. -/
def Obligations.IssueLimitSteps : Prop :=
  (∀ (k : Core) (l now : Nat), l ≤ k.limit + 8 → (k.setLimit l now).limit = l) ∧
  (∀ (k : Core) (l now : Nat), k.limit + 8 < l → (k.setLimit l now).limit = k.limit ∧ (k.setLimit l now).target = l) ∧
  (∀ (t c : Nat) (s : State), s.Canonical → (s.core t c).limit < (s.core t c).target → ∃ u, exec (.issueLimitStep t c) s = .next u ∧
    (u.core t c).limit = min (s.core t c).target ((s.core t c).limit + 8) ∧ (u.core t c).target = (s.core t c).target ∧
    (u.core t c).stepAt = max (slotAt s.now) (s.core t c).stepAt + 32) ∧
  (∀ (t c : Nat) (s : State), (s.core t c).target ≤ (s.core t c).limit → exec (.issueLimitStep t c) s = .next s)

/-- The rows that R217 permits in the cycles a to b − 1 under an issue limit L are exactly those cycles c, taken modulo 64, in
which ⌊(c + 1) × L ÷ 64⌋ > ⌊c × L ÷ 64⌋: the count of dummy rows rests on it. -/
def Obligations.RowsUnderLimit : Prop :=
  ∀ l a b : Nat, l ≤ 64 → a ≤ b → rowsUnder l a b =
    ((List.range (b - a)).filter (fun i => decide ((a + i) % 64 * l / 64 < ((a + i) % 64 + 1) * l / 64))).length

/-- A destination applies each RQ message at most once: a number among the 4,096 most recent of its source changes nothing, and
an applied one is recorded while no number but the oldest is forgotten. -/
def Obligations.AppliedAtMostOnce : Prop :=
  (∀ (src : Origin) (seq : Nat) (r : RemoteReq) (s : State), seq ∈ Table.get [] s.gang.seen src.pkg →
    exec (.remoteRequest src seq r) s = .next s) ∧
  (∀ (seen : List Nat) (seq : Nat), seen.length ≤ 4096 →
    ((seen ++ [seq]).drop (seen.length + 1 - 4096)).length ≤ 4096 ∧ seq ∈ (seen ++ [seq]).drop (seen.length + 1 - 4096) ∧
    (seen.length < 4096 → (seen ++ [seq]).drop (seen.length + 1 - 4096) = seen ++ [seq]) ∧
    (seen.length = 4096 → (seen ++ [seq]).drop (seen.length + 1 - 4096) = seen.tail ++ [seq]))

/-- R488: with 1,024 unconsumed records the device holds class 8 records and drops any other, counting it in LOST up to 65,535;
a record that it appends raises the in-band interrupt, once the package has its dynamic address, and, where CLASS_EN has its class, sends the message; room lets the held
records in, the oldest first. -/
def Obligations.FaultRing : Prop :=
  (∀ (r : FltRecord) (s : State), 1024 ≤ s.flt.count → r.cls = 8 →
    fltAppend r s = { s with flt := { s.flt with held := s.flt.held ++ [r] } }) ∧
  (∀ (r : FltRecord) (s : State), 1024 ≤ s.flt.count → r.cls ≠ 8 →
    fltAppend r s = { s with flt := { s.flt with lost := min (2 ^ 16 - 1) (s.flt.lost + 1) } }) ∧
  (∀ (r : FltRecord) (s : State), s.flt.count < 1024 → (r.cls ≠ 8 ∨ s.flt.held = []) → fltAppend r s = fltPlace r s) ∧
  (∀ (r : FltRecord) (s : State), (fltPlace r s).flt.ibis = (if s.i3c.dynamic.isSome then s.flt.ibis ++ [r.cls] else s.flt.ibis) ∧ (fltPlace r s).flt.tail = s.flt.tail + 1 ∧
    (fltPlace r s).msgs = s.msgs ++ (if bit s.flt.classEn r.cls then [⟨s.flt.msiAddr, s.flt.msiData % 2 ^ 32⟩] else [])) ∧
  (∀ (n : Nat) (r : FltRecord) (rest : List FltRecord) (s : State), s.flt.held = r :: rest → s.flt.count < 1024 →
    fltDrainHeld (n + 1) s = fltDrainHeld n (fltPlace r { s with flt := { s.flt with held := rest } })) ∧
  (∀ (n : Nat) (s : State), 1024 ≤ s.flt.count → fltDrainHeld n s = s)

/-- R461: MR0 to MR7 read as zero as a start begins, and extending MRi by d makes it the SM3 digest of MRi followed by d and
leaves the other seven. -/
def Obligations.MeasurementRegisters : Prop :=
  (∀ (warm : Bool) (cause i : Nat) (s : State), (s.restart warm cause).start.mrs.getD i (List.replicate 32 0) = List.replicate 32 0) ∧
  (∀ (i : Nat) (d : List Byte) (s : State), s.start.mrs.length = 8 → i < 8 →
    (extendMr i d s).start.mrs.getD i (List.replicate 32 0) = sm3 (s.start.mrs.getD i (List.replicate 32 0) ++ d)) ∧
  (∀ (i j : Nat) (d : List Byte) (s : State), j ≠ i →
    (extendMr i d s).start.mrs.getD j (List.replicate 32 0) = s.start.mrs.getD j (List.replicate 32 0))

/-- R449 and R450, in eighths of a degree: L_SILL is 64 below 88 °C, falls by one an eighth of a degree to no less than 8, and
is 8 from 95 °C; L_DIE becomes 8 at 105 °C and 64 again below 102 °C. -/
def Obligations.ThermalLimits : Prop :=
  (∀ t, t < 8 * 88 → lSillOf t = 64) ∧ (∀ t, 8 * 88 ≤ t → t < 8 * 95 → lSillOf t = max 8 (64 - (t - 8 * 88))) ∧
  (∀ t, 8 * 95 ≤ t → lSillOf t = 8) ∧
  (∀ old t, 8 * 105 ≤ t → lDieOf old t = 8) ∧ (∀ old t, t < 8 * 102 → lDieOf old t = 64) ∧
  (∀ t, 8 * 102 ≤ t → t < 8 * 105 → lDieOf 8 t = 8 ∧ lDieOf 64 t = 64) ∧
  (∀ (t sill die : Nat) (s : State), s.Canonical → s.variant.hasTile t = true → sill < 800 → die < 880 →
    ∃ u, exec (.thermalRead t sill die) s = .next u ∧ (u.tpower t).lSill = lSillOf sill ∧
      (u.tpower t).lDie = lDieOf (s.tpower t).lDie die)

/-- What commands leave unchanged: whenever they answer a next state, it differs from the state before only in the named parts,
so that memory, contexts, registers and every other part are as they were. -/
def Obligations.CommandFrames : Prop :=
  (∀ (k : Nat) (f : Flit) (s t : State), exec (.flitReceive k f) s = .next t → t = { s with links := t.links, outMsgs := t.outMsgs }) ∧
  (∀ (k : Nat) (g : Bool) (s t : State), exec (.linkTrainingRetry k g) s = .next t → t = { s with links := t.links, clk := t.clk }) ∧
  (∀ (n : Nat) (on : Bool) (s t : State), exec (.laserDrain n on) s = .next t →
    t = { s with links := t.links, lasers := t.lasers, outMsgs := t.outMsgs }) ∧
  (∀ (n : Nat) (s t : State), exec (.laserDrained n) s = .next t → t = { s with lasers := t.lasers }) ∧
  (∀ (n src : Nat) (s t : State), exec (.laserModuleInsert n src) s = .next t →
    t = { s with links := t.links, lasers := t.lasers, gens := t.gens }) ∧
  (∀ (p a b : Nat) (c : Bool) (s t : State), exec (.pcieLinkUp p a b c) s = .next t → t = { s with ports := t.ports }) ∧
  (∀ (p : Nat) (v : Word) (s t : State), exec (.pcieEvtWrite p v) s = .next t → t = { s with ports := t.ports }) ∧
  (∀ s t : State, exec .ptpAnnounce s = .next t →
    t = { s with time := t.time, clk := t.clk, links := t.links, outMsgs := t.outMsgs }) ∧
  (∀ s t : State, exec .ppsOutPulse s = .next t → t = { s with time := t.time, clk := t.clk }) ∧
  (∀ (via : Via) (o : Nat) (v : Word) (s t : State), exec (.pwrBmcCapWrite via o v) s = .next t → t = { s with power := t.power }) ∧
  (∀ (n : Nat) (s t : State), exec (.currentGuardEnd n) s = .next t →
    t = { s with cores := t.cores, tilePower := t.tilePower, clk := t.clk }) ∧
  (∀ s t : State, exec .clear s = .next t → t = { s with start := t.start }) ∧
  (∀ (i : ImageView) (s t : State), exec (.fwUpdateStart i) s = .next t → t = { s with start := t.start, flash := t.flash }) ∧
  (∀ (ok : Bool) (s t : State), exec (.fwUpdateDone ok) s = .next t → t = { s with start := t.start, flash := t.flash }) ∧
  (∀ s t : State, exec .commit s = .next t → t = { s with flash := t.flash }) ∧
  (∀ (v : Word) (s t : State), exec (.mrExtend v) s = .next t → t = { s with start := t.start }) ∧
  (∀ (n u : Nat) (a b : Bool) (s t : State), exec (.fence n u a b) s = .next t → t = { s with ucores := t.ucores }) ∧
  (∀ (n u : Nat) (o : CsrOp) (s t : State), exec (.uberrInfoWrite n u o) s = .next t → t = { s with ucores := t.ucores }) ∧
  (∀ (n c : Nat) (s t : State), exec (.progNop n c) s = .next t → t = { s with cores := t.cores, tiles := t.tiles }) ∧
  (∀ (n c : Nat) (s t : State), exec (.progLoop n c) s = .next t → t = { s with cores := t.cores, tiles := t.tiles }) ∧
  (∀ (n c : Nat) (s t : State), exec (.progEndloop n c) s = .next t → t = { s with cores := t.cores, tiles := t.tiles }) ∧
  (∀ (n c : Nat) (s t : State), exec (.progDrain n c) s = .next t → t = { s with cores := t.cores, tiles := t.tiles }) ∧
  (∀ (n c : Nat) (s t : State), exec (.streamSwap n c) s = .next t → t = { s with cores := t.cores, tiles := t.tiles }) ∧
  (∀ (n c rows : Nat) (s t : State), exec (.keepWarmGap n c rows) s = .next t → t = { s with cores := t.cores, clk := t.clk }) ∧
  (∀ (n c : Nat) (s t : State), exec (.coreCold n c) s = .next t → t = { s with cores := t.cores, tiles := t.tiles, clk := t.clk }) ∧
  (∀ (n : Nat) (s t : State), exec (.louvreSlot n) s = .next t → t = { s with cores := t.cores, tiles := t.tiles, clk := t.clk }) ∧
  (∀ (n c : Nat) (s t : State), exec (.issueLimitStep n c) s = .next t → t = { s with cores := t.cores, clk := t.clk }) ∧
  (∀ (a : Nat) (s t : State), exec (.entdaa a) s = .next t → t = { s with i3c := t.i3c, bus := t.bus }) ∧
  (∀ (a b : Nat) (s t : State), exec (.setdasa a b) s = .next t → t = { s with i3c := t.i3c }) ∧
  (∀ (a b : Nat) (s t : State), exec (.setnewda a b) s = .next t → t = { s with i3c := t.i3c }) ∧
  (∀ (d : Nat) (s t : State), exec (.bypass d) s = .next t → t = { s with taps := t.taps }) ∧
  (∀ (d : Nat) (s t : State), exec (.idcode d) s = .next t → t = { s with taps := t.taps }) ∧
  (∀ (d a b : Nat) (s t : State), exec (.samplePreload d a b) s = .next t → t = { s with taps := t.taps }) ∧
  (∀ (d : Nat) (s t : State), exec (.extest d) s = .next t → t = { s with taps := t.taps }) ∧
  (∀ (d : Nat) (s t : State), exec (.extestPulse d) s = .next t → t = { s with taps := t.taps }) ∧
  (∀ (d : Nat) (s t : State), exec (.extestTrain d) s = .next t → t = { s with taps := t.taps })
end

