-- ==== Sys2Proof/Laws/Table.lean ====
section
/-! SUPPORT. Laws of sparse data and of byte memory: a read after a write, what a write leaves alone, and that every
operation keeps the canonical form. -/

namespace Sys2Proof.Machine

variable {α : Type}

/-! ### Keys of a table in canonical form -/

theorem Table.wfFrom_mono [DecidableEq α] (d : α) {lo lo' : Nat} (h : lo' ≤ lo) :
    ∀ {t : Table α}, Table.wfFrom d lo t = true → Table.wfFrom d lo' t = true
  | [], _ => rfl
  | (k, v) :: t, ht => by
    simp only [Table.wfFrom, Bool.and_eq_true, decide_eq_true_eq] at ht ⊢
    exact ⟨⟨by omega, ht.1.2⟩, ht.2⟩

/-- A key below every listed one reads as the default. -/
theorem Table.get_below [DecidableEq α] (d : α) {i : Nat} :
    ∀ {lo : Nat} {t : Table α}, Table.wfFrom d lo t = true → i < lo → Table.get d t i = d
  | _, [], _, _ => rfl
  | lo, (k, v) :: t, h, hi => by
    simp only [Table.wfFrom, Bool.and_eq_true, decide_eq_true_eq] at h
    simp only [Table.get]
    rw [if_neg (by omega)]
    exact Table.get_below d h.2 (by omega)

/-- A write of any value keeps the canonical form from a key at or below the written one. -/
theorem Table.wfFrom_put [DecidableEq α] (d : α) {i : Nat} {v : α} :
    ∀ {lo : Nat} {t : Table α}, Table.wfFrom d lo t = true → lo ≤ i → Table.wfFrom d lo (Table.put d t i v) = true
  | lo, [], _, hi => by
    simp only [Table.put]
    split
    · rfl
    · simp_all [Table.wfFrom]
  | lo, (k, w) :: t, h, hi => by
    simp only [Table.wfFrom, Bool.and_eq_true, decide_eq_true_eq] at h
    obtain ⟨⟨hk, hw⟩, ht⟩ := h
    simp only [Table.put]
    split
    · split
      · simp_all [Table.wfFrom]
      · have := Table.wfFrom_mono d (lo := k + 1) (lo' := k + 1) (by omega) ht
        have hik : i + 1 ≤ k := by omega
        simp_all [Table.wfFrom]
    · split
      · split
        · exact Table.wfFrom_mono d (by omega) ht
        · simp_all [Table.wfFrom]
      · have := Table.wfFrom_put d (i := i) (v := v) ht (by omega)
        simp_all [Table.wfFrom]

theorem Table.wf_put [DecidableEq α] (d : α) {t : Table α} (h : Table.wf d t = true) (i : Nat) (v : α) :
    Table.wf d (Table.put d t i v) = true := Table.wfFrom_put d h (Nat.zero_le i)

theorem Table.wf_upd [DecidableEq α] (d : α) {t : Table α} (h : Table.wf d t = true) (i : Nat) (f : α → α) :
    Table.wf d (Table.upd d t i f) = true := Table.wf_put d h i _

theorem Table.wf_nil [DecidableEq α] (d : α) : Table.wf d [] = true := rfl

/-! ### Reading after writing -/

theorem Table.get_put_same_from [DecidableEq α] (d : α) {i : Nat} {v : α} :
    ∀ {lo : Nat} {t : Table α}, Table.wfFrom d lo t = true → Table.get d (Table.put d t i v) i = v
  | _, [], _ => by
    simp only [Table.put]
    split <;> simp_all [Table.get]
  | lo, (k, w) :: t, h => by
    simp only [Table.wfFrom, Bool.and_eq_true, decide_eq_true_eq] at h
    simp only [Table.put]
    split
    · split
      · subst v
        rw [Table.get, if_neg (by omega)]
        exact Table.get_below d h.2 (by omega)
      · simp [Table.get]
    · split
      · split
        · subst v
          exact Table.get_below d h.2 (by omega)
        · simp [Table.get]
      · rw [Table.get, if_neg (by omega)]
        exact Table.get_put_same_from d h.2

/-- The key that was written reads as the value written. -/
theorem Table.get_put_same [DecidableEq α] (d : α) {t : Table α} (h : Table.wf d t = true) (i : Nat) (v : α) :
    Table.get d (Table.put d t i v) i = v := Table.get_put_same_from d h

theorem Table.get_put_other_from [DecidableEq α] (d : α) {i j : Nat} {v : α} (hj : j ≠ i) :
    ∀ {lo : Nat} {t : Table α}, Table.wfFrom d lo t = true → Table.get d (Table.put d t i v) j = Table.get d t j
  | _, [], _ => by
    simp only [Table.put]
    split
    · rfl
    · simp [Table.get, Ne.symm hj]
  | lo, (k, w) :: t, h => by
    simp only [Table.wfFrom, Bool.and_eq_true, decide_eq_true_eq] at h
    simp only [Table.put]
    split
    · split
      · rfl
      · rw [Table.get, if_neg (Ne.symm hj)]
    · split
      · subst k
        split
        · rw [Table.get, if_neg (Ne.symm hj)]
        · rw [Table.get, if_neg (Ne.symm hj), Table.get, if_neg (Ne.symm hj)]
      · rw [Table.get, Table.get]
        split
        · rfl
        · exact Table.get_put_other_from d hj h.2

/-- Every other key reads as before. -/
theorem Table.get_put_other [DecidableEq α] (d : α) {t : Table α} (h : Table.wf d t = true) {i j : Nat} (hj : j ≠ i) (v : α) :
    Table.get d (Table.put d t i v) j = Table.get d t j := Table.get_put_other_from d hj h

theorem Table.get_upd_same [DecidableEq α] (d : α) {t : Table α} (h : Table.wf d t = true) (i : Nat) (f : α → α) :
    Table.get d (Table.upd d t i f) i = f (Table.get d t i) := Table.get_put_same d h i _

theorem Table.get_upd_other [DecidableEq α] (d : α) {t : Table α} (h : Table.wf d t = true) {i j : Nat} (hj : j ≠ i)
    (f : α → α) : Table.get d (Table.upd d t i f) j = Table.get d t j := Table.get_put_other d h hj _

/-- Canonical tables that read alike are the same table. -/
theorem Table.ext_from [DecidableEq α] (d : α) : ∀ {lo : Nat} {t u : Table α}, Table.wfFrom d lo t = true →
    Table.wfFrom d lo u = true → (∀ i, Table.get d t i = Table.get d u i) → t = u
  | _, [], [], _, _, _ => rfl
  | lo, [], (k, v) :: u, _, hu, h => by
    simp only [Table.wfFrom, Bool.and_eq_true, decide_eq_true_eq] at hu
    have := h k
    simp only [Table.get, if_true] at this
    exact absurd this.symm hu.1.2
  | lo, (k, v) :: t, [], ht, _, h => by
    simp only [Table.wfFrom, Bool.and_eq_true, decide_eq_true_eq] at ht
    have := h k
    simp only [Table.get, if_true] at this
    exact absurd this ht.1.2
  | lo, (k, v) :: t, (j, w) :: u, ht, hu, h => by
    simp only [Table.wfFrom, Bool.and_eq_true, decide_eq_true_eq] at ht hu
    have hkj : k = j := by
      rcases Nat.lt_trichotomy k j with hl | hl | hl
      · have := h k
        simp only [Table.get, if_true] at this
        rw [if_neg (by omega), Table.get_below d hu.2 (by omega)] at this
        exact absurd this ht.1.2
      · exact hl
      · have := h j
        simp only [Table.get, if_true] at this
        rw [if_neg (by omega), Table.get_below d ht.2 (by omega)] at this
        exact absurd this.symm hu.1.2
    subst hkj
    have hv := h k
    simp only [Table.get, if_true] at hv
    subst hv
    rw [Table.ext_from d ht.2 hu.2 (fun i => by
      by_cases hi : i = k
      · subst hi
        rw [Table.get_below d ht.2 (by omega), Table.get_below d hu.2 (by omega)]
      · have := h i
        simp only [Table.get] at this
        rwa [if_neg (fun e => hi e.symm), if_neg (fun e => hi e.symm)] at this)]

theorem Table.ext [DecidableEq α] (d : α) {t u : Table α} (ht : Table.wf d t = true) (hu : Table.wf d u = true)
    (h : ∀ i, Table.get d t i = Table.get d u i) : t = u := Table.ext_from d ht hu h

/-- Two changes at one key are one change. -/
theorem Table.upd_upd [DecidableEq α] (d : α) {t : Table α} (h : Table.wf d t = true) (i : Nat) (f g : α → α) :
    Table.upd d (Table.upd d t i f) i g = Table.upd d t i (fun x => g (f x)) := by
  apply Table.ext d (Table.wf_upd d (Table.wf_upd d h i f) i g) (Table.wf_upd d h i _)
  intro j
  by_cases hj : j = i
  · subst hj
    rw [Table.get_upd_same d (Table.wf_upd d h j f), Table.get_upd_same d h, Table.get_upd_same d h]
  · rw [Table.get_upd_other d (Table.wf_upd d h i f) hj, Table.get_upd_other d h hj, Table.get_upd_other d h hj]

/-- Dropping entries keeps the canonical form. -/
theorem Table.wfFrom_filter [DecidableEq α] (d : α) (p : Nat × α → Bool) :
    ∀ {lo : Nat} {t : Table α}, Table.wfFrom d lo t = true → Table.wfFrom d lo (t.filter p) = true
  | _, [], _ => rfl
  | lo, (k, v) :: t, h => by
    simp only [Table.wfFrom, Bool.and_eq_true, decide_eq_true_eq] at h
    have ht := Table.wfFrom_filter d p h.2
    rw [List.filter_cons]
    split
    · simp only [Table.wfFrom, Bool.and_eq_true, decide_eq_true_eq]
      exact ⟨h.1, ht⟩
    · exact Table.wfFrom_mono d (by omega) ht

theorem Table.wf_filter [DecidableEq α] (d : α) {t : Table α} (h : Table.wf d t = true) (p : Nat × α → Bool) :
    Table.wf d (t.filter p) = true := Table.wfFrom_filter d p h

/-- A fold of changes to a table keeps the canonical form. -/
theorem Table.wf_foldl [DecidableEq α] {β : Type} (d : α) (f : Table α → β → Table α)
    (hf : ∀ t b, Table.wf d t = true → Table.wf d (f t b) = true) :
    ∀ (l : List β) (t : Table α), Table.wf d t = true → Table.wf d (l.foldl f t) = true
  | [], _, h => h
  | b :: l, t, h => Table.wf_foldl d f hf l (f t b) (hf t b h)

/-! ### Byte memory -/

/-- The part of a table below a key, followed by a table from that key on, is canonical. -/
theorem Table.wfFrom_splice [DecidableEq α] (d : α) {n : Nat} {u : Table α} (hu : Table.wfFrom d n u = true) :
    ∀ {lo : Nat} {t : Table α}, lo ≤ n → Table.wfFrom d lo t = true →
      Table.wfFrom d lo (t.takeWhile (fun c => decide (c.1 < n)) ++ u) = true
  | lo, [], hlo, _ => by simpa using Table.wfFrom_mono d hlo hu
  | lo, (k, v) :: t, hlo, h => by
    simp only [Table.wfFrom, Bool.and_eq_true, decide_eq_true_eq] at h
    rw [List.takeWhile_cons]
    split
    · rename_i hk
      have hk : k < n := by simpa using hk
      simp only [List.cons_append, Table.wfFrom, Bool.and_eq_true, decide_eq_true_eq]
      exact ⟨h.1, Table.wfFrom_splice d hu (by omega) h.2⟩
    · simpa using Table.wfFrom_mono d hlo hu

/-- The part of a table from a key on is canonical from that key. -/
theorem Table.wfFrom_drop [DecidableEq α] (d : α) (n : Nat) :
    ∀ {lo : Nat} {t : Table α}, Table.wfFrom d lo t = true → Table.wfFrom d n (t.dropWhile (fun c => decide (c.1 < n))) = true
  | _, [], _ => rfl
  | lo, (k, v) :: t, h => by
    have h' := h
    simp only [Table.wfFrom, Bool.and_eq_true, decide_eq_true_eq] at h
    rw [List.dropWhile_cons]
    split
    · exact Table.wfFrom_drop d n h.2
    · rename_i hk
      have hk : ¬ k < n := by simpa using hk
      simp only [Table.wfFrom, Bool.and_eq_true, decide_eq_true_eq]
      exact ⟨⟨by omega, h.1.2⟩, h.2⟩

theorem Memory.wfFrom_cells_append {u : Memory} : ∀ {bs : List Byte} {a : Nat},
    Table.wfFrom (0 : Byte) (a + bs.length) u = true → Table.wfFrom (0 : Byte) a (Memory.cells a bs ++ u) = true
  | [], a, h => by simpa [Memory.cells] using h
  | b :: bs, a, h => by
    have ih : Table.wfFrom (0 : Byte) (a + 1) (Memory.cells (a + 1) bs ++ u) = true :=
      Memory.wfFrom_cells_append (by simpa [Nat.add_assoc, Nat.add_comm 1] using h)
    simp only [Memory.cells]
    split
    · exact Table.wfFrom_mono _ (by omega) ih
    · simp only [List.cons_append, Table.wfFrom, Bool.and_eq_true, decide_eq_true_eq]
      exact ⟨⟨by omega, by assumption⟩, ih⟩

/-- A store of bytes keeps the canonical form. -/
theorem Memory.wf_write {m : Memory} (h : m.wf = true) (a : Nat) (bs : List Byte) : (m.write a bs).wf = true := by
  unfold Memory.wf Memory.write Table.wf
  rw [List.append_assoc]
  exact Table.wfFrom_splice _ (Memory.wfFrom_cells_append (Table.wfFrom_drop _ _ h)) (Nat.zero_le _) h

/-- Clearing bytes keeps the canonical form. -/
theorem Memory.wf_clear {m : Memory} (h : m.wf = true) (a n : Nat) : (m.clear a n).wf = true := by
  unfold Memory.wf Memory.clear Table.wf
  exact Table.wfFrom_splice _ (Table.wfFrom_mono _ (by omega) (Table.wfFrom_drop _ (a + n) h)) (Nat.zero_le _) h

theorem Memory.wf_filter {m : Memory} (h : m.wf = true) (p : Nat × Byte → Bool) : Memory.wf (m.filter p) = true :=
  Table.wf_filter _ h p

/-! ### Reading bytes after storing them -/

theorem Table.get_splice_below (d : α) {n j : Nat} (hj : j < n) (u : Table α) :
    ∀ {lo : Nat} {t : Table α} [DecidableEq α], Table.wfFrom d lo t = true → Table.wfFrom d n u = true →
      Table.get d (t.takeWhile (fun c => decide (c.1 < n)) ++ u) j = Table.get d t j
  | _, [], _, _, hu => by simpa [Table.get] using Table.get_below d hu hj
  | lo, (k, v) :: t, _, h, hu => by
    simp only [Table.wfFrom, Bool.and_eq_true, decide_eq_true_eq] at h
    rw [List.takeWhile_cons]
    split
    · rw [List.cons_append, Table.get, Table.get]
      split
      · rfl
      · exact Table.get_splice_below d hj u h.2 hu
    · rename_i hk
      have hk : ¬ k < n := by simpa using hk
      rw [List.nil_append, Table.get_below d hu hj, Table.get, if_neg (by omega), Table.get_below d h.2 (by omega)]

theorem Table.get_splice_above (d : α) {n j : Nat} (hj : n ≤ j) (u : Table α) :
    ∀ {t : Table α}, Table.get d (t.takeWhile (fun c => decide (c.1 < n)) ++ u) j = Table.get d u j
  | [] => rfl
  | (k, v) :: t => by
    rw [List.takeWhile_cons]
    split
    · rename_i hk
      have hk : k < n := by simpa using hk
      rw [List.cons_append, Table.get, if_neg (by omega)]
      exact Table.get_splice_above d hj u
    · rfl

theorem Table.get_drop_above (d : α) {n j : Nat} (hj : n ≤ j) :
    ∀ {t : Table α}, Table.get d (t.dropWhile (fun c => decide (c.1 < n))) j = Table.get d t j
  | [] => rfl
  | (k, v) :: t => by
    rw [List.dropWhile_cons]
    split
    · rename_i hk
      have hk : k < n := by simpa using hk
      rw [Table.get, if_neg (by omega)]
      exact Table.get_drop_above d hj
    · rfl

theorem Memory.get_cells_above (u : Memory) : ∀ {bs : List Byte} {a j : Nat}, a + bs.length ≤ j →
    Table.get (0 : Byte) (Memory.cells a bs ++ u) j = Table.get 0 u j
  | [], _, _, _ => rfl
  | b :: bs, a, j, h => by
    simp only [List.length_cons] at h
    simp only [Memory.cells]
    split
    · exact Memory.get_cells_above u (by omega)
    · rw [List.cons_append, Table.get, if_neg (by omega)]
      exact Memory.get_cells_above u (by omega)

theorem Memory.get_cells_in {u : Memory} : ∀ {bs : List Byte} {a i : Nat}, i < bs.length →
    Table.wfFrom (0 : Byte) (a + bs.length) u = true → Table.get (0 : Byte) (Memory.cells a bs ++ u) (a + i) = bs.getD i 0
  | [], _, _, h, _ => by simp at h
  | b :: bs, a, i, h, hu => by
    have hu' : Table.wfFrom (0 : Byte) (a + 1 + bs.length) u = true := by
      simpa [Nat.add_assoc, Nat.add_comm 1] using hu
    have hc := Memory.wfFrom_cells_append hu'
    simp only [Memory.cells]
    cases i with
    | zero =>
      split
      · rename_i hb
        rw [Table.get_below _ hc (by omega)]
        simp [hb]
      · simp [Table.get]
    | succ i =>
      have ih := Memory.get_cells_in (u := u) (bs := bs) (a := a + 1) (i := i) (by simpa using h) hu'
      have e : a + (i + 1) = a + 1 + i := by omega
      split
      · rw [e, ih]; simp
      · rw [List.cons_append, Table.get, if_neg (by omega), e, ih]; simp

/-- A byte that was stored reads as stored. -/
theorem Memory.byte_write_in {m : Memory} (h : m.wf = true) {a i : Nat} {bs : List Byte} (hi : i < bs.length) :
    (m.write a bs).byte (a + i) = bs.getD i 0 := by
  unfold Memory.byte Memory.write
  rw [List.append_assoc, Table.get_splice_above _ (by omega)]
  exact Memory.get_cells_in hi (Table.wfFrom_drop _ _ h)

/-- Every byte outside the stored ones reads as before. -/
theorem Memory.byte_write_other {m : Memory} (h : m.wf = true) {a j : Nat} {bs : List Byte}
    (hj : j < a ∨ a + bs.length ≤ j) : (m.write a bs).byte j = m.byte j := by
  unfold Memory.byte Memory.write
  rw [List.append_assoc]
  rcases hj with hj | hj
  · exact Table.get_splice_below _ hj _ h (Memory.wfFrom_cells_append (Table.wfFrom_drop _ _ h))
  · rw [Table.get_splice_above _ (by omega), Memory.get_cells_above _ hj, Table.get_drop_above _ hj]

theorem Memory.readGo_eq : ∀ {n lo a : Nat} {m : Memory}, Table.wfFrom (0 : Byte) lo m = true → a ≤ lo →
    Memory.readGo n m a = (List.range' a n).map m.byte
  | 0, _, _, _, _, _ => rfl
  | n + 1, lo, a, [], _, _ => by
    simp only [Memory.readGo, List.range'_succ, List.map_cons]
    rw [Memory.readGo_eq (lo := a + 1) (m := []) rfl (Nat.le_refl _)]
    rfl
  | n + 1, lo, a, (k, v) :: t, h, ha => by
    have h0 := h
    simp only [Table.wfFrom, Bool.and_eq_true, decide_eq_true_eq] at h
    simp only [Memory.readGo, List.range'_succ, List.map_cons]
    split
    · subst k
      rw [Memory.readGo_eq h.2 (Nat.le_refl _)]
      congr 1
      · simp [Memory.byte, Table.get]
      · apply List.map_congr_left
        intro j hj
        have := (List.mem_range'_1.mp hj).1
        rw [Memory.byte, Memory.byte, Table.get, if_neg (by omega)]
    · rename_i hk
      have hw : Table.wfFrom (0 : Byte) (a + 1) ((k, v) :: t) = true := by
        simp only [Table.wfFrom, Bool.and_eq_true, decide_eq_true_eq]
        exact ⟨⟨by omega, h.1.2⟩, h.2⟩
      rw [Memory.readGo_eq hw (Nat.le_refl _)]
      congr 1
      exact (Table.get_below (0 : Byte) hw (by omega)).symm

theorem Memory.byte_drop {m : Memory} {n j : Nat} (hj : n ≤ j) :
    Memory.byte (m.dropWhile (fun c => decide (c.1 < n))) j = m.byte j := Table.get_drop_above _ hj

/-- A read of a run of bytes reads each of them. -/
theorem Memory.read_eq {m : Memory} (h : m.wf = true) (a n : Nat) : m.read a n = (List.range' a n).map m.byte := by
  unfold Memory.read
  rw [Memory.readGo_eq (Table.wfFrom_drop _ a h) (Nat.le_refl _)]
  apply List.map_congr_left
  intro j hj
  exact Memory.byte_drop (List.mem_range'_1.mp hj).1

/-- What was stored reads back. -/
theorem Memory.read_write {m : Memory} (h : m.wf = true) (a : Nat) (bs : List Byte) : (m.write a bs).read a bs.length = bs := by
  rw [Memory.read_eq (Memory.wf_write h a bs)]
  apply List.ext_getElem
  · simp
  · intro i h1 h2
    have := Memory.byte_write_in h (a := a) (bs := bs) (i := i) h2
    simp [this, h2]

theorem Memory.wf_nil : Memory.wf [] = true := rfl

end Sys2Proof.Machine
end

