-- ==== Sys2Proof/Laws/State.lean ====
section
/-! SUPPORT. What each update of the state leaves alone, one conjunct per field and one per named read, each true by definition;
and what the update of one component reads as. -/

namespace Sys2Proof.Machine

@[simp] theorem State.setCtx_fields (s : State) (n : Nat) (c : Ctx) :
    (s.setCtx n c).variant = s.variant ∧ (s.setCtx n c).clk = s.clk ∧ (s.setCtx n c).free = s.free ∧
    (s.setCtx n c).bus = s.bus ∧ (s.setCtx n c).busError = s.busError ∧ (s.setCtx n c).accepted = s.accepted ∧
    (s.setCtx n c).mem = s.mem ∧ (s.setCtx n c).poison = s.poison ∧ (s.setCtx n c).strikes = s.strikes ∧ (s.setCtx n c).stale = s.stale ∧
    (s.setCtx n c).ctxTable = s.ctxTable ∧ (s.setCtx n c).ctxStat = s.ctxStat ∧ (s.setCtx n c).nextCtx = s.nextCtx ∧
    (s.setCtx n c).cplTimeout = s.cplTimeout ∧ (s.setCtx n c).redCfg = s.redCfg ∧ (s.setCtx n c).redChecked = s.redChecked ∧
    (s.setCtx n c).redMismatch = s.redMismatch ∧ (s.setCtx n c).redFenced = s.redFenced ∧ (s.setCtx n c).stCtrl = s.stCtrl ∧
    (s.setCtx n c).stFailed = s.stFailed ∧ (s.setCtx n c).stNotRun = s.stNotRun ∧ (s.setCtx n c).privs = s.privs ∧
    (s.setCtx n c).gens = s.gens ∧ (s.setCtx n c).capLive = s.capLive ∧ (s.setCtx n c).msgs = s.msgs ∧
    (s.setCtx n c).cores = s.cores ∧ (s.setCtx n c).accs = s.accs ∧ (s.setCtx n c).tiles = s.tiles ∧
    (s.setCtx n c).tierCfg = s.tierCfg ∧ (s.setCtx n c).sharedQuota = s.sharedQuota ∧
    (s.setCtx n c).schedAhead = s.schedAhead ∧ (s.setCtx n c).moved = s.moved ∧ (s.setCtx n c).freezeMax = s.freezeMax ∧
    (s.setCtx n c).forwarded = s.forwarded ∧ (s.setCtx n c).pages = s.pages ∧ (s.setCtx n c).direct = s.direct ∧
    (s.setCtx n c).sills = s.sills ∧ (s.setCtx n c).lostDirect = s.lostDirect ∧ (s.setCtx n c).hbm = s.hbm ∧
    (s.setCtx n c).home = s.home ∧ (s.setCtx n c).ucores = s.ucores ∧ (s.setCtx n c).charges = s.charges ∧
    (s.setCtx n c).links = s.links ∧ (s.setCtx n c).lasers = s.lasers ∧ (s.setCtx n c).gang = s.gang ∧
    (s.setCtx n c).peers = s.peers ∧ (s.setCtx n c).outMsgs = s.outMsgs ∧ (s.setCtx n c).time = s.time ∧
    (s.setCtx n c).ports = s.ports ∧ (s.setCtx n c).edges = s.edges ∧ (s.setCtx n c).tilePower = s.tilePower ∧
    (s.setCtx n c).power = s.power ∧ (s.setCtx n c).domains = s.domains ∧ (s.setCtx n c).flash = s.flash ∧
    (s.setCtx n c).start = s.start ∧ (s.setCtx n c).flt = s.flt ∧ (s.setCtx n c).selftest = s.selftest ∧
    (s.setCtx n c).i3c = s.i3c ∧ (s.setCtx n c).taps = s.taps ∧ (s.setCtx n c).resetLow = s.resetLow ∧
    (s.setCtx n c).faultLow = s.faultLow ∧ (s.setCtx n c).pending = s.pending :=
  ⟨rfl, rfl, rfl, rfl, rfl, rfl, rfl, rfl, rfl, rfl, rfl, rfl, rfl, rfl, rfl, rfl, rfl, rfl, rfl, rfl, rfl, rfl, rfl, rfl,
   rfl, rfl, rfl, rfl, rfl, rfl, rfl, rfl, rfl, rfl, rfl, rfl, rfl, rfl, rfl, rfl, rfl, rfl, rfl, rfl, rfl, rfl, rfl,
   rfl, rfl, rfl, rfl, rfl, rfl, rfl, rfl, rfl, rfl, rfl, rfl, rfl, rfl, rfl⟩

@[simp] theorem State.updCtx_fields (s : State) (n : Nat) (f : Ctx → Ctx) :
    (s.updCtx n f).variant = s.variant ∧ (s.updCtx n f).clk = s.clk ∧ (s.updCtx n f).free = s.free ∧
    (s.updCtx n f).bus = s.bus ∧ (s.updCtx n f).busError = s.busError ∧ (s.updCtx n f).accepted = s.accepted ∧
    (s.updCtx n f).mem = s.mem ∧ (s.updCtx n f).poison = s.poison ∧ (s.updCtx n f).strikes = s.strikes ∧ (s.updCtx n f).stale = s.stale ∧
    (s.updCtx n f).ctxTable = s.ctxTable ∧ (s.updCtx n f).ctxStat = s.ctxStat ∧ (s.updCtx n f).nextCtx = s.nextCtx ∧
    (s.updCtx n f).cplTimeout = s.cplTimeout ∧ (s.updCtx n f).redCfg = s.redCfg ∧ (s.updCtx n f).redChecked = s.redChecked ∧
    (s.updCtx n f).redMismatch = s.redMismatch ∧ (s.updCtx n f).redFenced = s.redFenced ∧ (s.updCtx n f).stCtrl = s.stCtrl ∧
    (s.updCtx n f).stFailed = s.stFailed ∧ (s.updCtx n f).stNotRun = s.stNotRun ∧ (s.updCtx n f).privs = s.privs ∧
    (s.updCtx n f).gens = s.gens ∧ (s.updCtx n f).capLive = s.capLive ∧ (s.updCtx n f).msgs = s.msgs ∧
    (s.updCtx n f).cores = s.cores ∧ (s.updCtx n f).accs = s.accs ∧ (s.updCtx n f).tiles = s.tiles ∧
    (s.updCtx n f).tierCfg = s.tierCfg ∧ (s.updCtx n f).sharedQuota = s.sharedQuota ∧
    (s.updCtx n f).schedAhead = s.schedAhead ∧ (s.updCtx n f).moved = s.moved ∧ (s.updCtx n f).freezeMax = s.freezeMax ∧
    (s.updCtx n f).forwarded = s.forwarded ∧ (s.updCtx n f).pages = s.pages ∧ (s.updCtx n f).direct = s.direct ∧
    (s.updCtx n f).sills = s.sills ∧ (s.updCtx n f).lostDirect = s.lostDirect ∧ (s.updCtx n f).hbm = s.hbm ∧
    (s.updCtx n f).home = s.home ∧ (s.updCtx n f).ucores = s.ucores ∧ (s.updCtx n f).charges = s.charges ∧
    (s.updCtx n f).links = s.links ∧ (s.updCtx n f).lasers = s.lasers ∧ (s.updCtx n f).gang = s.gang ∧
    (s.updCtx n f).peers = s.peers ∧ (s.updCtx n f).outMsgs = s.outMsgs ∧ (s.updCtx n f).time = s.time ∧
    (s.updCtx n f).ports = s.ports ∧ (s.updCtx n f).edges = s.edges ∧ (s.updCtx n f).tilePower = s.tilePower ∧
    (s.updCtx n f).power = s.power ∧ (s.updCtx n f).domains = s.domains ∧ (s.updCtx n f).flash = s.flash ∧
    (s.updCtx n f).start = s.start ∧ (s.updCtx n f).flt = s.flt ∧ (s.updCtx n f).selftest = s.selftest ∧
    (s.updCtx n f).i3c = s.i3c ∧ (s.updCtx n f).taps = s.taps ∧ (s.updCtx n f).resetLow = s.resetLow ∧
    (s.updCtx n f).faultLow = s.faultLow ∧ (s.updCtx n f).pending = s.pending :=
  ⟨rfl, rfl, rfl, rfl, rfl, rfl, rfl, rfl, rfl, rfl, rfl, rfl, rfl, rfl, rfl, rfl, rfl, rfl, rfl, rfl, rfl, rfl, rfl, rfl,
   rfl, rfl, rfl, rfl, rfl, rfl, rfl, rfl, rfl, rfl, rfl, rfl, rfl, rfl, rfl, rfl, rfl, rfl, rfl, rfl, rfl, rfl, rfl,
   rfl, rfl, rfl, rfl, rfl, rfl, rfl, rfl, rfl, rfl, rfl, rfl, rfl, rfl, rfl⟩

@[simp] theorem State.setCore_fields (s : State) (t c : Nat) (k : Core) :
    (s.setCore t c k).variant = s.variant ∧ (s.setCore t c k).clk = s.clk ∧ (s.setCore t c k).free = s.free ∧
    (s.setCore t c k).bus = s.bus ∧ (s.setCore t c k).busError = s.busError ∧ (s.setCore t c k).accepted = s.accepted ∧
    (s.setCore t c k).mem = s.mem ∧ (s.setCore t c k).poison = s.poison ∧ (s.setCore t c k).strikes = s.strikes ∧ (s.setCore t c k).stale = s.stale ∧
    (s.setCore t c k).ctxTable = s.ctxTable ∧ (s.setCore t c k).ctxStat = s.ctxStat ∧ (s.setCore t c k).ctxs = s.ctxs ∧
    (s.setCore t c k).nextCtx = s.nextCtx ∧ (s.setCore t c k).cplTimeout = s.cplTimeout ∧
    (s.setCore t c k).redCfg = s.redCfg ∧ (s.setCore t c k).redChecked = s.redChecked ∧
    (s.setCore t c k).redMismatch = s.redMismatch ∧ (s.setCore t c k).redFenced = s.redFenced ∧
    (s.setCore t c k).stCtrl = s.stCtrl ∧ (s.setCore t c k).stFailed = s.stFailed ∧ (s.setCore t c k).stNotRun = s.stNotRun ∧
    (s.setCore t c k).privs = s.privs ∧ (s.setCore t c k).gens = s.gens ∧ (s.setCore t c k).capLive = s.capLive ∧
    (s.setCore t c k).msgs = s.msgs ∧ (s.setCore t c k).accs = s.accs ∧ (s.setCore t c k).tiles = s.tiles ∧
    (s.setCore t c k).tierCfg = s.tierCfg ∧ (s.setCore t c k).sharedQuota = s.sharedQuota ∧
    (s.setCore t c k).schedAhead = s.schedAhead ∧ (s.setCore t c k).moved = s.moved ∧
    (s.setCore t c k).freezeMax = s.freezeMax ∧ (s.setCore t c k).forwarded = s.forwarded ∧
    (s.setCore t c k).pages = s.pages ∧ (s.setCore t c k).direct = s.direct ∧ (s.setCore t c k).sills = s.sills ∧
    (s.setCore t c k).lostDirect = s.lostDirect ∧ (s.setCore t c k).hbm = s.hbm ∧ (s.setCore t c k).home = s.home ∧
    (s.setCore t c k).ucores = s.ucores ∧ (s.setCore t c k).charges = s.charges ∧ (s.setCore t c k).links = s.links ∧
    (s.setCore t c k).lasers = s.lasers ∧ (s.setCore t c k).gang = s.gang ∧ (s.setCore t c k).peers = s.peers ∧
    (s.setCore t c k).outMsgs = s.outMsgs ∧ (s.setCore t c k).time = s.time ∧ (s.setCore t c k).ports = s.ports ∧
    (s.setCore t c k).edges = s.edges ∧ (s.setCore t c k).tilePower = s.tilePower ∧ (s.setCore t c k).power = s.power ∧
    (s.setCore t c k).domains = s.domains ∧ (s.setCore t c k).flash = s.flash ∧ (s.setCore t c k).start = s.start ∧
    (s.setCore t c k).flt = s.flt ∧ (s.setCore t c k).selftest = s.selftest ∧ (s.setCore t c k).i3c = s.i3c ∧
    (s.setCore t c k).taps = s.taps ∧ (s.setCore t c k).resetLow = s.resetLow ∧ (s.setCore t c k).faultLow = s.faultLow ∧
    (s.setCore t c k).pending = s.pending :=
  ⟨rfl, rfl, rfl, rfl, rfl, rfl, rfl, rfl, rfl, rfl, rfl, rfl, rfl, rfl, rfl, rfl, rfl, rfl, rfl, rfl, rfl, rfl, rfl, rfl,
   rfl, rfl, rfl, rfl, rfl, rfl, rfl, rfl, rfl, rfl, rfl, rfl, rfl, rfl, rfl, rfl, rfl, rfl, rfl, rfl, rfl, rfl, rfl,
   rfl, rfl, rfl, rfl, rfl, rfl, rfl, rfl, rfl, rfl, rfl, rfl, rfl, rfl, rfl⟩

@[simp] theorem State.updCore_fields (s : State) (t c : Nat) (f : Core → Core) :
    (s.updCore t c f).variant = s.variant ∧ (s.updCore t c f).clk = s.clk ∧ (s.updCore t c f).free = s.free ∧
    (s.updCore t c f).bus = s.bus ∧ (s.updCore t c f).busError = s.busError ∧ (s.updCore t c f).accepted = s.accepted ∧
    (s.updCore t c f).mem = s.mem ∧ (s.updCore t c f).poison = s.poison ∧ (s.updCore t c f).strikes = s.strikes ∧ (s.updCore t c f).stale = s.stale ∧
    (s.updCore t c f).ctxTable = s.ctxTable ∧ (s.updCore t c f).ctxStat = s.ctxStat ∧ (s.updCore t c f).ctxs = s.ctxs ∧
    (s.updCore t c f).nextCtx = s.nextCtx ∧ (s.updCore t c f).cplTimeout = s.cplTimeout ∧
    (s.updCore t c f).redCfg = s.redCfg ∧ (s.updCore t c f).redChecked = s.redChecked ∧
    (s.updCore t c f).redMismatch = s.redMismatch ∧ (s.updCore t c f).redFenced = s.redFenced ∧
    (s.updCore t c f).stCtrl = s.stCtrl ∧ (s.updCore t c f).stFailed = s.stFailed ∧ (s.updCore t c f).stNotRun = s.stNotRun ∧
    (s.updCore t c f).privs = s.privs ∧ (s.updCore t c f).gens = s.gens ∧ (s.updCore t c f).capLive = s.capLive ∧
    (s.updCore t c f).msgs = s.msgs ∧ (s.updCore t c f).accs = s.accs ∧ (s.updCore t c f).tiles = s.tiles ∧
    (s.updCore t c f).tierCfg = s.tierCfg ∧ (s.updCore t c f).sharedQuota = s.sharedQuota ∧
    (s.updCore t c f).schedAhead = s.schedAhead ∧ (s.updCore t c f).moved = s.moved ∧
    (s.updCore t c f).freezeMax = s.freezeMax ∧ (s.updCore t c f).forwarded = s.forwarded ∧
    (s.updCore t c f).pages = s.pages ∧ (s.updCore t c f).direct = s.direct ∧ (s.updCore t c f).sills = s.sills ∧
    (s.updCore t c f).lostDirect = s.lostDirect ∧ (s.updCore t c f).hbm = s.hbm ∧ (s.updCore t c f).home = s.home ∧
    (s.updCore t c f).ucores = s.ucores ∧ (s.updCore t c f).charges = s.charges ∧ (s.updCore t c f).links = s.links ∧
    (s.updCore t c f).lasers = s.lasers ∧ (s.updCore t c f).gang = s.gang ∧ (s.updCore t c f).peers = s.peers ∧
    (s.updCore t c f).outMsgs = s.outMsgs ∧ (s.updCore t c f).time = s.time ∧ (s.updCore t c f).ports = s.ports ∧
    (s.updCore t c f).edges = s.edges ∧ (s.updCore t c f).tilePower = s.tilePower ∧ (s.updCore t c f).power = s.power ∧
    (s.updCore t c f).domains = s.domains ∧ (s.updCore t c f).flash = s.flash ∧ (s.updCore t c f).start = s.start ∧
    (s.updCore t c f).flt = s.flt ∧ (s.updCore t c f).selftest = s.selftest ∧ (s.updCore t c f).i3c = s.i3c ∧
    (s.updCore t c f).taps = s.taps ∧ (s.updCore t c f).resetLow = s.resetLow ∧ (s.updCore t c f).faultLow = s.faultLow ∧
    (s.updCore t c f).pending = s.pending :=
  ⟨rfl, rfl, rfl, rfl, rfl, rfl, rfl, rfl, rfl, rfl, rfl, rfl, rfl, rfl, rfl, rfl, rfl, rfl, rfl, rfl, rfl, rfl, rfl, rfl,
   rfl, rfl, rfl, rfl, rfl, rfl, rfl, rfl, rfl, rfl, rfl, rfl, rfl, rfl, rfl, rfl, rfl, rfl, rfl, rfl, rfl, rfl, rfl,
   rfl, rfl, rfl, rfl, rfl, rfl, rfl, rfl, rfl, rfl, rfl, rfl, rfl, rfl, rfl⟩

@[simp] theorem State.updTile_fields (s : State) (n : Nat) (f : Tile → Tile) :
    (s.updTile n f).variant = s.variant ∧ (s.updTile n f).clk = s.clk ∧ (s.updTile n f).free = s.free ∧
    (s.updTile n f).bus = s.bus ∧ (s.updTile n f).busError = s.busError ∧ (s.updTile n f).accepted = s.accepted ∧
    (s.updTile n f).mem = s.mem ∧ (s.updTile n f).poison = s.poison ∧ (s.updTile n f).strikes = s.strikes ∧ (s.updTile n f).stale = s.stale ∧
    (s.updTile n f).ctxTable = s.ctxTable ∧ (s.updTile n f).ctxStat = s.ctxStat ∧ (s.updTile n f).ctxs = s.ctxs ∧
    (s.updTile n f).nextCtx = s.nextCtx ∧ (s.updTile n f).cplTimeout = s.cplTimeout ∧ (s.updTile n f).redCfg = s.redCfg ∧
    (s.updTile n f).redChecked = s.redChecked ∧ (s.updTile n f).redMismatch = s.redMismatch ∧
    (s.updTile n f).redFenced = s.redFenced ∧ (s.updTile n f).stCtrl = s.stCtrl ∧ (s.updTile n f).stFailed = s.stFailed ∧
    (s.updTile n f).stNotRun = s.stNotRun ∧ (s.updTile n f).privs = s.privs ∧ (s.updTile n f).gens = s.gens ∧
    (s.updTile n f).capLive = s.capLive ∧ (s.updTile n f).msgs = s.msgs ∧ (s.updTile n f).cores = s.cores ∧
    (s.updTile n f).accs = s.accs ∧ (s.updTile n f).tierCfg = s.tierCfg ∧ (s.updTile n f).sharedQuota = s.sharedQuota ∧
    (s.updTile n f).schedAhead = s.schedAhead ∧ (s.updTile n f).moved = s.moved ∧ (s.updTile n f).freezeMax = s.freezeMax ∧
    (s.updTile n f).forwarded = s.forwarded ∧ (s.updTile n f).pages = s.pages ∧ (s.updTile n f).direct = s.direct ∧
    (s.updTile n f).sills = s.sills ∧ (s.updTile n f).lostDirect = s.lostDirect ∧ (s.updTile n f).hbm = s.hbm ∧
    (s.updTile n f).home = s.home ∧ (s.updTile n f).ucores = s.ucores ∧ (s.updTile n f).charges = s.charges ∧
    (s.updTile n f).links = s.links ∧ (s.updTile n f).lasers = s.lasers ∧ (s.updTile n f).gang = s.gang ∧
    (s.updTile n f).peers = s.peers ∧ (s.updTile n f).outMsgs = s.outMsgs ∧ (s.updTile n f).time = s.time ∧
    (s.updTile n f).ports = s.ports ∧ (s.updTile n f).edges = s.edges ∧ (s.updTile n f).tilePower = s.tilePower ∧
    (s.updTile n f).power = s.power ∧ (s.updTile n f).domains = s.domains ∧ (s.updTile n f).flash = s.flash ∧
    (s.updTile n f).start = s.start ∧ (s.updTile n f).flt = s.flt ∧ (s.updTile n f).selftest = s.selftest ∧
    (s.updTile n f).i3c = s.i3c ∧ (s.updTile n f).taps = s.taps ∧ (s.updTile n f).resetLow = s.resetLow ∧
    (s.updTile n f).faultLow = s.faultLow ∧ (s.updTile n f).pending = s.pending :=
  ⟨rfl, rfl, rfl, rfl, rfl, rfl, rfl, rfl, rfl, rfl, rfl, rfl, rfl, rfl, rfl, rfl, rfl, rfl, rfl, rfl, rfl, rfl, rfl, rfl,
   rfl, rfl, rfl, rfl, rfl, rfl, rfl, rfl, rfl, rfl, rfl, rfl, rfl, rfl, rfl, rfl, rfl, rfl, rfl, rfl, rfl, rfl, rfl,
   rfl, rfl, rfl, rfl, rfl, rfl, rfl, rfl, rfl, rfl, rfl, rfl, rfl, rfl, rfl⟩

@[simp] theorem State.updStack_fields (s : State) (n : Nat) (f : Stack → Stack) :
    (s.updStack n f).variant = s.variant ∧ (s.updStack n f).clk = s.clk ∧ (s.updStack n f).free = s.free ∧
    (s.updStack n f).bus = s.bus ∧ (s.updStack n f).busError = s.busError ∧ (s.updStack n f).accepted = s.accepted ∧
    (s.updStack n f).mem = s.mem ∧ (s.updStack n f).poison = s.poison ∧ (s.updStack n f).strikes = s.strikes ∧ (s.updStack n f).stale = s.stale ∧
    (s.updStack n f).ctxTable = s.ctxTable ∧ (s.updStack n f).ctxStat = s.ctxStat ∧ (s.updStack n f).ctxs = s.ctxs ∧
    (s.updStack n f).nextCtx = s.nextCtx ∧ (s.updStack n f).cplTimeout = s.cplTimeout ∧ (s.updStack n f).redCfg = s.redCfg ∧
    (s.updStack n f).redChecked = s.redChecked ∧ (s.updStack n f).redMismatch = s.redMismatch ∧
    (s.updStack n f).redFenced = s.redFenced ∧ (s.updStack n f).stCtrl = s.stCtrl ∧ (s.updStack n f).stFailed = s.stFailed ∧
    (s.updStack n f).stNotRun = s.stNotRun ∧ (s.updStack n f).privs = s.privs ∧ (s.updStack n f).gens = s.gens ∧
    (s.updStack n f).capLive = s.capLive ∧ (s.updStack n f).msgs = s.msgs ∧ (s.updStack n f).cores = s.cores ∧
    (s.updStack n f).accs = s.accs ∧ (s.updStack n f).tiles = s.tiles ∧ (s.updStack n f).tierCfg = s.tierCfg ∧
    (s.updStack n f).sharedQuota = s.sharedQuota ∧ (s.updStack n f).schedAhead = s.schedAhead ∧
    (s.updStack n f).moved = s.moved ∧ (s.updStack n f).freezeMax = s.freezeMax ∧ (s.updStack n f).forwarded = s.forwarded ∧
    (s.updStack n f).pages = s.pages ∧ (s.updStack n f).direct = s.direct ∧ (s.updStack n f).sills = s.sills ∧
    (s.updStack n f).lostDirect = s.lostDirect ∧ (s.updStack n f).home = s.home ∧ (s.updStack n f).ucores = s.ucores ∧
    (s.updStack n f).charges = s.charges ∧ (s.updStack n f).links = s.links ∧ (s.updStack n f).lasers = s.lasers ∧
    (s.updStack n f).gang = s.gang ∧ (s.updStack n f).peers = s.peers ∧ (s.updStack n f).outMsgs = s.outMsgs ∧
    (s.updStack n f).time = s.time ∧ (s.updStack n f).ports = s.ports ∧ (s.updStack n f).edges = s.edges ∧
    (s.updStack n f).tilePower = s.tilePower ∧ (s.updStack n f).power = s.power ∧ (s.updStack n f).domains = s.domains ∧
    (s.updStack n f).flash = s.flash ∧ (s.updStack n f).start = s.start ∧ (s.updStack n f).flt = s.flt ∧
    (s.updStack n f).selftest = s.selftest ∧ (s.updStack n f).i3c = s.i3c ∧ (s.updStack n f).taps = s.taps ∧
    (s.updStack n f).resetLow = s.resetLow ∧ (s.updStack n f).faultLow = s.faultLow ∧ (s.updStack n f).pending = s.pending :=
  ⟨rfl, rfl, rfl, rfl, rfl, rfl, rfl, rfl, rfl, rfl, rfl, rfl, rfl, rfl, rfl, rfl, rfl, rfl, rfl, rfl, rfl, rfl, rfl, rfl,
   rfl, rfl, rfl, rfl, rfl, rfl, rfl, rfl, rfl, rfl, rfl, rfl, rfl, rfl, rfl, rfl, rfl, rfl, rfl, rfl, rfl, rfl, rfl,
   rfl, rfl, rfl, rfl, rfl, rfl, rfl, rfl, rfl, rfl, rfl, rfl, rfl, rfl, rfl⟩

@[simp] theorem State.updPc_fields (s : State) (n p : Nat) (f : Pc → Pc) :
    (s.updPc n p f).variant = s.variant ∧ (s.updPc n p f).clk = s.clk ∧ (s.updPc n p f).free = s.free ∧
    (s.updPc n p f).bus = s.bus ∧ (s.updPc n p f).busError = s.busError ∧ (s.updPc n p f).accepted = s.accepted ∧
    (s.updPc n p f).mem = s.mem ∧ (s.updPc n p f).poison = s.poison ∧ (s.updPc n p f).strikes = s.strikes ∧ (s.updPc n p f).stale = s.stale ∧
    (s.updPc n p f).ctxTable = s.ctxTable ∧ (s.updPc n p f).ctxStat = s.ctxStat ∧ (s.updPc n p f).ctxs = s.ctxs ∧
    (s.updPc n p f).nextCtx = s.nextCtx ∧ (s.updPc n p f).cplTimeout = s.cplTimeout ∧ (s.updPc n p f).redCfg = s.redCfg ∧
    (s.updPc n p f).redChecked = s.redChecked ∧ (s.updPc n p f).redMismatch = s.redMismatch ∧
    (s.updPc n p f).redFenced = s.redFenced ∧ (s.updPc n p f).stCtrl = s.stCtrl ∧ (s.updPc n p f).stFailed = s.stFailed ∧
    (s.updPc n p f).stNotRun = s.stNotRun ∧ (s.updPc n p f).privs = s.privs ∧ (s.updPc n p f).gens = s.gens ∧
    (s.updPc n p f).capLive = s.capLive ∧ (s.updPc n p f).msgs = s.msgs ∧ (s.updPc n p f).cores = s.cores ∧
    (s.updPc n p f).accs = s.accs ∧ (s.updPc n p f).tiles = s.tiles ∧ (s.updPc n p f).tierCfg = s.tierCfg ∧
    (s.updPc n p f).sharedQuota = s.sharedQuota ∧ (s.updPc n p f).schedAhead = s.schedAhead ∧
    (s.updPc n p f).moved = s.moved ∧ (s.updPc n p f).freezeMax = s.freezeMax ∧ (s.updPc n p f).forwarded = s.forwarded ∧
    (s.updPc n p f).pages = s.pages ∧ (s.updPc n p f).direct = s.direct ∧ (s.updPc n p f).sills = s.sills ∧
    (s.updPc n p f).lostDirect = s.lostDirect ∧ (s.updPc n p f).home = s.home ∧ (s.updPc n p f).ucores = s.ucores ∧
    (s.updPc n p f).charges = s.charges ∧ (s.updPc n p f).links = s.links ∧ (s.updPc n p f).lasers = s.lasers ∧
    (s.updPc n p f).gang = s.gang ∧ (s.updPc n p f).peers = s.peers ∧ (s.updPc n p f).outMsgs = s.outMsgs ∧
    (s.updPc n p f).time = s.time ∧ (s.updPc n p f).ports = s.ports ∧ (s.updPc n p f).edges = s.edges ∧
    (s.updPc n p f).tilePower = s.tilePower ∧ (s.updPc n p f).power = s.power ∧ (s.updPc n p f).domains = s.domains ∧
    (s.updPc n p f).flash = s.flash ∧ (s.updPc n p f).start = s.start ∧ (s.updPc n p f).flt = s.flt ∧
    (s.updPc n p f).selftest = s.selftest ∧ (s.updPc n p f).i3c = s.i3c ∧ (s.updPc n p f).taps = s.taps ∧
    (s.updPc n p f).resetLow = s.resetLow ∧ (s.updPc n p f).faultLow = s.faultLow ∧ (s.updPc n p f).pending = s.pending :=
  ⟨rfl, rfl, rfl, rfl, rfl, rfl, rfl, rfl, rfl, rfl, rfl, rfl, rfl, rfl, rfl, rfl, rfl, rfl, rfl, rfl, rfl, rfl, rfl, rfl,
   rfl, rfl, rfl, rfl, rfl, rfl, rfl, rfl, rfl, rfl, rfl, rfl, rfl, rfl, rfl, rfl, rfl, rfl, rfl, rfl, rfl, rfl, rfl,
   rfl, rfl, rfl, rfl, rfl, rfl, rfl, rfl, rfl, rfl, rfl, rfl, rfl, rfl, rfl⟩

@[simp] theorem State.updUcore_fields (s : State) (t u : Nat) (f : UCore → UCore) :
    (s.updUcore t u f).variant = s.variant ∧ (s.updUcore t u f).clk = s.clk ∧ (s.updUcore t u f).free = s.free ∧
    (s.updUcore t u f).bus = s.bus ∧ (s.updUcore t u f).busError = s.busError ∧ (s.updUcore t u f).accepted = s.accepted ∧
    (s.updUcore t u f).mem = s.mem ∧ (s.updUcore t u f).poison = s.poison ∧ (s.updUcore t u f).strikes = s.strikes ∧ (s.updUcore t u f).stale = s.stale ∧
    (s.updUcore t u f).ctxTable = s.ctxTable ∧ (s.updUcore t u f).ctxStat = s.ctxStat ∧ (s.updUcore t u f).ctxs = s.ctxs ∧
    (s.updUcore t u f).nextCtx = s.nextCtx ∧ (s.updUcore t u f).cplTimeout = s.cplTimeout ∧
    (s.updUcore t u f).redCfg = s.redCfg ∧ (s.updUcore t u f).redChecked = s.redChecked ∧
    (s.updUcore t u f).redMismatch = s.redMismatch ∧ (s.updUcore t u f).redFenced = s.redFenced ∧
    (s.updUcore t u f).stCtrl = s.stCtrl ∧ (s.updUcore t u f).stFailed = s.stFailed ∧
    (s.updUcore t u f).stNotRun = s.stNotRun ∧ (s.updUcore t u f).privs = s.privs ∧ (s.updUcore t u f).gens = s.gens ∧
    (s.updUcore t u f).capLive = s.capLive ∧ (s.updUcore t u f).msgs = s.msgs ∧ (s.updUcore t u f).cores = s.cores ∧
    (s.updUcore t u f).accs = s.accs ∧ (s.updUcore t u f).tiles = s.tiles ∧ (s.updUcore t u f).tierCfg = s.tierCfg ∧
    (s.updUcore t u f).sharedQuota = s.sharedQuota ∧ (s.updUcore t u f).schedAhead = s.schedAhead ∧
    (s.updUcore t u f).moved = s.moved ∧ (s.updUcore t u f).freezeMax = s.freezeMax ∧
    (s.updUcore t u f).forwarded = s.forwarded ∧ (s.updUcore t u f).pages = s.pages ∧ (s.updUcore t u f).direct = s.direct ∧
    (s.updUcore t u f).sills = s.sills ∧ (s.updUcore t u f).lostDirect = s.lostDirect ∧ (s.updUcore t u f).hbm = s.hbm ∧
    (s.updUcore t u f).home = s.home ∧ (s.updUcore t u f).charges = s.charges ∧ (s.updUcore t u f).links = s.links ∧
    (s.updUcore t u f).lasers = s.lasers ∧ (s.updUcore t u f).gang = s.gang ∧ (s.updUcore t u f).peers = s.peers ∧
    (s.updUcore t u f).outMsgs = s.outMsgs ∧ (s.updUcore t u f).time = s.time ∧ (s.updUcore t u f).ports = s.ports ∧
    (s.updUcore t u f).edges = s.edges ∧ (s.updUcore t u f).tilePower = s.tilePower ∧ (s.updUcore t u f).power = s.power ∧
    (s.updUcore t u f).domains = s.domains ∧ (s.updUcore t u f).flash = s.flash ∧ (s.updUcore t u f).start = s.start ∧
    (s.updUcore t u f).flt = s.flt ∧ (s.updUcore t u f).selftest = s.selftest ∧ (s.updUcore t u f).i3c = s.i3c ∧
    (s.updUcore t u f).taps = s.taps ∧ (s.updUcore t u f).resetLow = s.resetLow ∧ (s.updUcore t u f).faultLow = s.faultLow ∧
    (s.updUcore t u f).pending = s.pending :=
  ⟨rfl, rfl, rfl, rfl, rfl, rfl, rfl, rfl, rfl, rfl, rfl, rfl, rfl, rfl, rfl, rfl, rfl, rfl, rfl, rfl, rfl, rfl, rfl, rfl,
   rfl, rfl, rfl, rfl, rfl, rfl, rfl, rfl, rfl, rfl, rfl, rfl, rfl, rfl, rfl, rfl, rfl, rfl, rfl, rfl, rfl, rfl, rfl,
   rfl, rfl, rfl, rfl, rfl, rfl, rfl, rfl, rfl, rfl, rfl, rfl, rfl, rfl, rfl⟩

@[simp] theorem State.updPage_fields (s : State) (p : Nat) (f : TierPage → TierPage) :
    (s.updPage p f).variant = s.variant ∧ (s.updPage p f).clk = s.clk ∧ (s.updPage p f).free = s.free ∧
    (s.updPage p f).bus = s.bus ∧ (s.updPage p f).busError = s.busError ∧ (s.updPage p f).accepted = s.accepted ∧
    (s.updPage p f).mem = s.mem ∧ (s.updPage p f).poison = s.poison ∧ (s.updPage p f).strikes = s.strikes ∧ (s.updPage p f).stale = s.stale ∧
    (s.updPage p f).ctxTable = s.ctxTable ∧ (s.updPage p f).ctxStat = s.ctxStat ∧ (s.updPage p f).ctxs = s.ctxs ∧
    (s.updPage p f).nextCtx = s.nextCtx ∧ (s.updPage p f).cplTimeout = s.cplTimeout ∧ (s.updPage p f).redCfg = s.redCfg ∧
    (s.updPage p f).redChecked = s.redChecked ∧ (s.updPage p f).redMismatch = s.redMismatch ∧
    (s.updPage p f).redFenced = s.redFenced ∧ (s.updPage p f).stCtrl = s.stCtrl ∧ (s.updPage p f).stFailed = s.stFailed ∧
    (s.updPage p f).stNotRun = s.stNotRun ∧ (s.updPage p f).privs = s.privs ∧ (s.updPage p f).gens = s.gens ∧
    (s.updPage p f).capLive = s.capLive ∧ (s.updPage p f).msgs = s.msgs ∧ (s.updPage p f).cores = s.cores ∧
    (s.updPage p f).accs = s.accs ∧ (s.updPage p f).tiles = s.tiles ∧ (s.updPage p f).tierCfg = s.tierCfg ∧
    (s.updPage p f).sharedQuota = s.sharedQuota ∧ (s.updPage p f).schedAhead = s.schedAhead ∧
    (s.updPage p f).moved = s.moved ∧ (s.updPage p f).freezeMax = s.freezeMax ∧ (s.updPage p f).forwarded = s.forwarded ∧
    (s.updPage p f).direct = s.direct ∧ (s.updPage p f).sills = s.sills ∧ (s.updPage p f).lostDirect = s.lostDirect ∧
    (s.updPage p f).hbm = s.hbm ∧ (s.updPage p f).home = s.home ∧ (s.updPage p f).ucores = s.ucores ∧
    (s.updPage p f).charges = s.charges ∧ (s.updPage p f).links = s.links ∧ (s.updPage p f).lasers = s.lasers ∧
    (s.updPage p f).gang = s.gang ∧ (s.updPage p f).peers = s.peers ∧ (s.updPage p f).outMsgs = s.outMsgs ∧
    (s.updPage p f).time = s.time ∧ (s.updPage p f).ports = s.ports ∧ (s.updPage p f).edges = s.edges ∧
    (s.updPage p f).tilePower = s.tilePower ∧ (s.updPage p f).power = s.power ∧ (s.updPage p f).domains = s.domains ∧
    (s.updPage p f).flash = s.flash ∧ (s.updPage p f).start = s.start ∧ (s.updPage p f).flt = s.flt ∧
    (s.updPage p f).selftest = s.selftest ∧ (s.updPage p f).i3c = s.i3c ∧ (s.updPage p f).taps = s.taps ∧
    (s.updPage p f).resetLow = s.resetLow ∧ (s.updPage p f).faultLow = s.faultLow ∧ (s.updPage p f).pending = s.pending :=
  ⟨rfl, rfl, rfl, rfl, rfl, rfl, rfl, rfl, rfl, rfl, rfl, rfl, rfl, rfl, rfl, rfl, rfl, rfl, rfl, rfl, rfl, rfl, rfl, rfl,
   rfl, rfl, rfl, rfl, rfl, rfl, rfl, rfl, rfl, rfl, rfl, rfl, rfl, rfl, rfl, rfl, rfl, rfl, rfl, rfl, rfl, rfl, rfl,
   rfl, rfl, rfl, rfl, rfl, rfl, rfl, rfl, rfl, rfl, rfl, rfl, rfl, rfl, rfl⟩

@[simp] theorem State.setDirect_fields (s : State) (p : Nat) (d : Option DirectPage) :
    (s.setDirect p d).variant = s.variant ∧ (s.setDirect p d).clk = s.clk ∧ (s.setDirect p d).free = s.free ∧
    (s.setDirect p d).bus = s.bus ∧ (s.setDirect p d).busError = s.busError ∧ (s.setDirect p d).accepted = s.accepted ∧
    (s.setDirect p d).mem = s.mem ∧ (s.setDirect p d).poison = s.poison ∧ (s.setDirect p d).strikes = s.strikes ∧ (s.setDirect p d).stale = s.stale ∧
    (s.setDirect p d).ctxTable = s.ctxTable ∧ (s.setDirect p d).ctxStat = s.ctxStat ∧ (s.setDirect p d).ctxs = s.ctxs ∧
    (s.setDirect p d).nextCtx = s.nextCtx ∧ (s.setDirect p d).cplTimeout = s.cplTimeout ∧
    (s.setDirect p d).redCfg = s.redCfg ∧ (s.setDirect p d).redChecked = s.redChecked ∧
    (s.setDirect p d).redMismatch = s.redMismatch ∧ (s.setDirect p d).redFenced = s.redFenced ∧
    (s.setDirect p d).stCtrl = s.stCtrl ∧ (s.setDirect p d).stFailed = s.stFailed ∧ (s.setDirect p d).stNotRun = s.stNotRun ∧
    (s.setDirect p d).privs = s.privs ∧ (s.setDirect p d).gens = s.gens ∧ (s.setDirect p d).capLive = s.capLive ∧
    (s.setDirect p d).msgs = s.msgs ∧ (s.setDirect p d).cores = s.cores ∧ (s.setDirect p d).accs = s.accs ∧
    (s.setDirect p d).tiles = s.tiles ∧ (s.setDirect p d).tierCfg = s.tierCfg ∧
    (s.setDirect p d).sharedQuota = s.sharedQuota ∧ (s.setDirect p d).schedAhead = s.schedAhead ∧
    (s.setDirect p d).moved = s.moved ∧ (s.setDirect p d).freezeMax = s.freezeMax ∧
    (s.setDirect p d).forwarded = s.forwarded ∧ (s.setDirect p d).pages = s.pages ∧ (s.setDirect p d).sills = s.sills ∧
    (s.setDirect p d).lostDirect = s.lostDirect ∧ (s.setDirect p d).hbm = s.hbm ∧ (s.setDirect p d).home = s.home ∧
    (s.setDirect p d).ucores = s.ucores ∧ (s.setDirect p d).charges = s.charges ∧ (s.setDirect p d).links = s.links ∧
    (s.setDirect p d).lasers = s.lasers ∧ (s.setDirect p d).gang = s.gang ∧ (s.setDirect p d).peers = s.peers ∧
    (s.setDirect p d).outMsgs = s.outMsgs ∧ (s.setDirect p d).time = s.time ∧ (s.setDirect p d).ports = s.ports ∧
    (s.setDirect p d).edges = s.edges ∧ (s.setDirect p d).tilePower = s.tilePower ∧ (s.setDirect p d).power = s.power ∧
    (s.setDirect p d).domains = s.domains ∧ (s.setDirect p d).flash = s.flash ∧ (s.setDirect p d).start = s.start ∧
    (s.setDirect p d).flt = s.flt ∧ (s.setDirect p d).selftest = s.selftest ∧ (s.setDirect p d).i3c = s.i3c ∧
    (s.setDirect p d).taps = s.taps ∧ (s.setDirect p d).resetLow = s.resetLow ∧ (s.setDirect p d).faultLow = s.faultLow ∧
    (s.setDirect p d).pending = s.pending :=
  ⟨rfl, rfl, rfl, rfl, rfl, rfl, rfl, rfl, rfl, rfl, rfl, rfl, rfl, rfl, rfl, rfl, rfl, rfl, rfl, rfl, rfl, rfl, rfl, rfl,
   rfl, rfl, rfl, rfl, rfl, rfl, rfl, rfl, rfl, rfl, rfl, rfl, rfl, rfl, rfl, rfl, rfl, rfl, rfl, rfl, rfl, rfl, rfl,
   rfl, rfl, rfl, rfl, rfl, rfl, rfl, rfl, rfl, rfl, rfl, rfl, rfl, rfl, rfl⟩

@[simp] theorem State.updSill_fields (s : State) (n : Nat) (f : Sill → Sill) :
    (s.updSill n f).variant = s.variant ∧ (s.updSill n f).clk = s.clk ∧ (s.updSill n f).free = s.free ∧
    (s.updSill n f).bus = s.bus ∧ (s.updSill n f).busError = s.busError ∧ (s.updSill n f).accepted = s.accepted ∧
    (s.updSill n f).mem = s.mem ∧ (s.updSill n f).poison = s.poison ∧ (s.updSill n f).strikes = s.strikes ∧ (s.updSill n f).stale = s.stale ∧
    (s.updSill n f).ctxTable = s.ctxTable ∧ (s.updSill n f).ctxStat = s.ctxStat ∧ (s.updSill n f).ctxs = s.ctxs ∧
    (s.updSill n f).nextCtx = s.nextCtx ∧ (s.updSill n f).cplTimeout = s.cplTimeout ∧ (s.updSill n f).redCfg = s.redCfg ∧
    (s.updSill n f).redChecked = s.redChecked ∧ (s.updSill n f).redMismatch = s.redMismatch ∧
    (s.updSill n f).redFenced = s.redFenced ∧ (s.updSill n f).stCtrl = s.stCtrl ∧ (s.updSill n f).stFailed = s.stFailed ∧
    (s.updSill n f).stNotRun = s.stNotRun ∧ (s.updSill n f).privs = s.privs ∧ (s.updSill n f).gens = s.gens ∧
    (s.updSill n f).capLive = s.capLive ∧ (s.updSill n f).msgs = s.msgs ∧ (s.updSill n f).cores = s.cores ∧
    (s.updSill n f).accs = s.accs ∧ (s.updSill n f).tiles = s.tiles ∧ (s.updSill n f).tierCfg = s.tierCfg ∧
    (s.updSill n f).sharedQuota = s.sharedQuota ∧ (s.updSill n f).schedAhead = s.schedAhead ∧
    (s.updSill n f).moved = s.moved ∧ (s.updSill n f).freezeMax = s.freezeMax ∧ (s.updSill n f).forwarded = s.forwarded ∧
    (s.updSill n f).pages = s.pages ∧ (s.updSill n f).direct = s.direct ∧ (s.updSill n f).lostDirect = s.lostDirect ∧
    (s.updSill n f).hbm = s.hbm ∧ (s.updSill n f).home = s.home ∧ (s.updSill n f).ucores = s.ucores ∧
    (s.updSill n f).charges = s.charges ∧ (s.updSill n f).links = s.links ∧ (s.updSill n f).lasers = s.lasers ∧
    (s.updSill n f).gang = s.gang ∧ (s.updSill n f).peers = s.peers ∧ (s.updSill n f).outMsgs = s.outMsgs ∧
    (s.updSill n f).time = s.time ∧ (s.updSill n f).ports = s.ports ∧ (s.updSill n f).edges = s.edges ∧
    (s.updSill n f).tilePower = s.tilePower ∧ (s.updSill n f).power = s.power ∧ (s.updSill n f).domains = s.domains ∧
    (s.updSill n f).flash = s.flash ∧ (s.updSill n f).start = s.start ∧ (s.updSill n f).flt = s.flt ∧
    (s.updSill n f).selftest = s.selftest ∧ (s.updSill n f).i3c = s.i3c ∧ (s.updSill n f).taps = s.taps ∧
    (s.updSill n f).resetLow = s.resetLow ∧ (s.updSill n f).faultLow = s.faultLow ∧ (s.updSill n f).pending = s.pending :=
  ⟨rfl, rfl, rfl, rfl, rfl, rfl, rfl, rfl, rfl, rfl, rfl, rfl, rfl, rfl, rfl, rfl, rfl, rfl, rfl, rfl, rfl, rfl, rfl, rfl,
   rfl, rfl, rfl, rfl, rfl, rfl, rfl, rfl, rfl, rfl, rfl, rfl, rfl, rfl, rfl, rfl, rfl, rfl, rfl, rfl, rfl, rfl, rfl,
   rfl, rfl, rfl, rfl, rfl, rfl, rfl, rfl, rfl, rfl, rfl, rfl, rfl, rfl, rfl⟩

@[simp] theorem State.updLink_fields (s : State) (k : Nat) (f : Link → Link) :
    (s.updLink k f).variant = s.variant ∧ (s.updLink k f).clk = s.clk ∧ (s.updLink k f).free = s.free ∧
    (s.updLink k f).bus = s.bus ∧ (s.updLink k f).busError = s.busError ∧ (s.updLink k f).accepted = s.accepted ∧
    (s.updLink k f).mem = s.mem ∧ (s.updLink k f).poison = s.poison ∧ (s.updLink k f).strikes = s.strikes ∧ (s.updLink k f).stale = s.stale ∧
    (s.updLink k f).ctxTable = s.ctxTable ∧ (s.updLink k f).ctxStat = s.ctxStat ∧ (s.updLink k f).ctxs = s.ctxs ∧
    (s.updLink k f).nextCtx = s.nextCtx ∧ (s.updLink k f).cplTimeout = s.cplTimeout ∧ (s.updLink k f).redCfg = s.redCfg ∧
    (s.updLink k f).redChecked = s.redChecked ∧ (s.updLink k f).redMismatch = s.redMismatch ∧
    (s.updLink k f).redFenced = s.redFenced ∧ (s.updLink k f).stCtrl = s.stCtrl ∧ (s.updLink k f).stFailed = s.stFailed ∧
    (s.updLink k f).stNotRun = s.stNotRun ∧ (s.updLink k f).privs = s.privs ∧ (s.updLink k f).gens = s.gens ∧
    (s.updLink k f).capLive = s.capLive ∧ (s.updLink k f).msgs = s.msgs ∧ (s.updLink k f).cores = s.cores ∧
    (s.updLink k f).accs = s.accs ∧ (s.updLink k f).tiles = s.tiles ∧ (s.updLink k f).tierCfg = s.tierCfg ∧
    (s.updLink k f).sharedQuota = s.sharedQuota ∧ (s.updLink k f).schedAhead = s.schedAhead ∧
    (s.updLink k f).moved = s.moved ∧ (s.updLink k f).freezeMax = s.freezeMax ∧ (s.updLink k f).forwarded = s.forwarded ∧
    (s.updLink k f).pages = s.pages ∧ (s.updLink k f).direct = s.direct ∧ (s.updLink k f).sills = s.sills ∧
    (s.updLink k f).lostDirect = s.lostDirect ∧ (s.updLink k f).hbm = s.hbm ∧ (s.updLink k f).home = s.home ∧
    (s.updLink k f).ucores = s.ucores ∧ (s.updLink k f).charges = s.charges ∧ (s.updLink k f).lasers = s.lasers ∧
    (s.updLink k f).gang = s.gang ∧ (s.updLink k f).peers = s.peers ∧ (s.updLink k f).outMsgs = s.outMsgs ∧
    (s.updLink k f).time = s.time ∧ (s.updLink k f).ports = s.ports ∧ (s.updLink k f).edges = s.edges ∧
    (s.updLink k f).tilePower = s.tilePower ∧ (s.updLink k f).power = s.power ∧ (s.updLink k f).domains = s.domains ∧
    (s.updLink k f).flash = s.flash ∧ (s.updLink k f).start = s.start ∧ (s.updLink k f).flt = s.flt ∧
    (s.updLink k f).selftest = s.selftest ∧ (s.updLink k f).i3c = s.i3c ∧ (s.updLink k f).taps = s.taps ∧
    (s.updLink k f).resetLow = s.resetLow ∧ (s.updLink k f).faultLow = s.faultLow ∧ (s.updLink k f).pending = s.pending :=
  ⟨rfl, rfl, rfl, rfl, rfl, rfl, rfl, rfl, rfl, rfl, rfl, rfl, rfl, rfl, rfl, rfl, rfl, rfl, rfl, rfl, rfl, rfl, rfl, rfl,
   rfl, rfl, rfl, rfl, rfl, rfl, rfl, rfl, rfl, rfl, rfl, rfl, rfl, rfl, rfl, rfl, rfl, rfl, rfl, rfl, rfl, rfl, rfl,
   rfl, rfl, rfl, rfl, rfl, rfl, rfl, rfl, rfl, rfl, rfl, rfl, rfl, rfl, rfl⟩

@[simp] theorem State.updLaser_fields (s : State) (n : Nat) (f : Laser → Laser) :
    (s.updLaser n f).variant = s.variant ∧ (s.updLaser n f).clk = s.clk ∧ (s.updLaser n f).free = s.free ∧
    (s.updLaser n f).bus = s.bus ∧ (s.updLaser n f).busError = s.busError ∧ (s.updLaser n f).accepted = s.accepted ∧
    (s.updLaser n f).mem = s.mem ∧ (s.updLaser n f).poison = s.poison ∧ (s.updLaser n f).strikes = s.strikes ∧ (s.updLaser n f).stale = s.stale ∧
    (s.updLaser n f).ctxTable = s.ctxTable ∧ (s.updLaser n f).ctxStat = s.ctxStat ∧ (s.updLaser n f).ctxs = s.ctxs ∧
    (s.updLaser n f).nextCtx = s.nextCtx ∧ (s.updLaser n f).cplTimeout = s.cplTimeout ∧ (s.updLaser n f).redCfg = s.redCfg ∧
    (s.updLaser n f).redChecked = s.redChecked ∧ (s.updLaser n f).redMismatch = s.redMismatch ∧
    (s.updLaser n f).redFenced = s.redFenced ∧ (s.updLaser n f).stCtrl = s.stCtrl ∧ (s.updLaser n f).stFailed = s.stFailed ∧
    (s.updLaser n f).stNotRun = s.stNotRun ∧ (s.updLaser n f).privs = s.privs ∧ (s.updLaser n f).gens = s.gens ∧
    (s.updLaser n f).capLive = s.capLive ∧ (s.updLaser n f).msgs = s.msgs ∧ (s.updLaser n f).cores = s.cores ∧
    (s.updLaser n f).accs = s.accs ∧ (s.updLaser n f).tiles = s.tiles ∧ (s.updLaser n f).tierCfg = s.tierCfg ∧
    (s.updLaser n f).sharedQuota = s.sharedQuota ∧ (s.updLaser n f).schedAhead = s.schedAhead ∧
    (s.updLaser n f).moved = s.moved ∧ (s.updLaser n f).freezeMax = s.freezeMax ∧ (s.updLaser n f).forwarded = s.forwarded ∧
    (s.updLaser n f).pages = s.pages ∧ (s.updLaser n f).direct = s.direct ∧ (s.updLaser n f).sills = s.sills ∧
    (s.updLaser n f).lostDirect = s.lostDirect ∧ (s.updLaser n f).hbm = s.hbm ∧ (s.updLaser n f).home = s.home ∧
    (s.updLaser n f).ucores = s.ucores ∧ (s.updLaser n f).charges = s.charges ∧ (s.updLaser n f).links = s.links ∧
    (s.updLaser n f).gang = s.gang ∧ (s.updLaser n f).peers = s.peers ∧ (s.updLaser n f).outMsgs = s.outMsgs ∧
    (s.updLaser n f).time = s.time ∧ (s.updLaser n f).ports = s.ports ∧ (s.updLaser n f).edges = s.edges ∧
    (s.updLaser n f).tilePower = s.tilePower ∧ (s.updLaser n f).power = s.power ∧ (s.updLaser n f).domains = s.domains ∧
    (s.updLaser n f).flash = s.flash ∧ (s.updLaser n f).start = s.start ∧ (s.updLaser n f).flt = s.flt ∧
    (s.updLaser n f).selftest = s.selftest ∧ (s.updLaser n f).i3c = s.i3c ∧ (s.updLaser n f).taps = s.taps ∧
    (s.updLaser n f).resetLow = s.resetLow ∧ (s.updLaser n f).faultLow = s.faultLow ∧ (s.updLaser n f).pending = s.pending :=
  ⟨rfl, rfl, rfl, rfl, rfl, rfl, rfl, rfl, rfl, rfl, rfl, rfl, rfl, rfl, rfl, rfl, rfl, rfl, rfl, rfl, rfl, rfl, rfl, rfl,
   rfl, rfl, rfl, rfl, rfl, rfl, rfl, rfl, rfl, rfl, rfl, rfl, rfl, rfl, rfl, rfl, rfl, rfl, rfl, rfl, rfl, rfl, rfl,
   rfl, rfl, rfl, rfl, rfl, rfl, rfl, rfl, rfl, rfl, rfl, rfl, rfl, rfl, rfl⟩

@[simp] theorem State.updPeer_fields (s : State) (a : Nat) (f : Peer → Peer) :
    (s.updPeer a f).variant = s.variant ∧ (s.updPeer a f).clk = s.clk ∧ (s.updPeer a f).free = s.free ∧
    (s.updPeer a f).bus = s.bus ∧ (s.updPeer a f).busError = s.busError ∧ (s.updPeer a f).accepted = s.accepted ∧
    (s.updPeer a f).mem = s.mem ∧ (s.updPeer a f).poison = s.poison ∧ (s.updPeer a f).strikes = s.strikes ∧ (s.updPeer a f).stale = s.stale ∧
    (s.updPeer a f).ctxTable = s.ctxTable ∧ (s.updPeer a f).ctxStat = s.ctxStat ∧ (s.updPeer a f).ctxs = s.ctxs ∧
    (s.updPeer a f).nextCtx = s.nextCtx ∧ (s.updPeer a f).cplTimeout = s.cplTimeout ∧ (s.updPeer a f).redCfg = s.redCfg ∧
    (s.updPeer a f).redChecked = s.redChecked ∧ (s.updPeer a f).redMismatch = s.redMismatch ∧
    (s.updPeer a f).redFenced = s.redFenced ∧ (s.updPeer a f).stCtrl = s.stCtrl ∧ (s.updPeer a f).stFailed = s.stFailed ∧
    (s.updPeer a f).stNotRun = s.stNotRun ∧ (s.updPeer a f).privs = s.privs ∧ (s.updPeer a f).gens = s.gens ∧
    (s.updPeer a f).capLive = s.capLive ∧ (s.updPeer a f).msgs = s.msgs ∧ (s.updPeer a f).cores = s.cores ∧
    (s.updPeer a f).accs = s.accs ∧ (s.updPeer a f).tiles = s.tiles ∧ (s.updPeer a f).tierCfg = s.tierCfg ∧
    (s.updPeer a f).sharedQuota = s.sharedQuota ∧ (s.updPeer a f).schedAhead = s.schedAhead ∧
    (s.updPeer a f).moved = s.moved ∧ (s.updPeer a f).freezeMax = s.freezeMax ∧ (s.updPeer a f).forwarded = s.forwarded ∧
    (s.updPeer a f).pages = s.pages ∧ (s.updPeer a f).direct = s.direct ∧ (s.updPeer a f).sills = s.sills ∧
    (s.updPeer a f).lostDirect = s.lostDirect ∧ (s.updPeer a f).hbm = s.hbm ∧ (s.updPeer a f).home = s.home ∧
    (s.updPeer a f).ucores = s.ucores ∧ (s.updPeer a f).charges = s.charges ∧ (s.updPeer a f).links = s.links ∧
    (s.updPeer a f).lasers = s.lasers ∧ (s.updPeer a f).gang = s.gang ∧ (s.updPeer a f).outMsgs = s.outMsgs ∧
    (s.updPeer a f).time = s.time ∧ (s.updPeer a f).ports = s.ports ∧ (s.updPeer a f).edges = s.edges ∧
    (s.updPeer a f).tilePower = s.tilePower ∧ (s.updPeer a f).power = s.power ∧ (s.updPeer a f).domains = s.domains ∧
    (s.updPeer a f).flash = s.flash ∧ (s.updPeer a f).start = s.start ∧ (s.updPeer a f).flt = s.flt ∧
    (s.updPeer a f).selftest = s.selftest ∧ (s.updPeer a f).i3c = s.i3c ∧ (s.updPeer a f).taps = s.taps ∧
    (s.updPeer a f).resetLow = s.resetLow ∧ (s.updPeer a f).faultLow = s.faultLow ∧ (s.updPeer a f).pending = s.pending :=
  ⟨rfl, rfl, rfl, rfl, rfl, rfl, rfl, rfl, rfl, rfl, rfl, rfl, rfl, rfl, rfl, rfl, rfl, rfl, rfl, rfl, rfl, rfl, rfl, rfl,
   rfl, rfl, rfl, rfl, rfl, rfl, rfl, rfl, rfl, rfl, rfl, rfl, rfl, rfl, rfl, rfl, rfl, rfl, rfl, rfl, rfl, rfl, rfl,
   rfl, rfl, rfl, rfl, rfl, rfl, rfl, rfl, rfl, rfl, rfl, rfl, rfl, rfl, rfl⟩

@[simp] theorem State.updPort_fields (s : State) (p : Nat) (f : Port → Port) :
    (s.updPort p f).variant = s.variant ∧ (s.updPort p f).clk = s.clk ∧ (s.updPort p f).free = s.free ∧
    (s.updPort p f).bus = s.bus ∧ (s.updPort p f).busError = s.busError ∧ (s.updPort p f).accepted = s.accepted ∧
    (s.updPort p f).mem = s.mem ∧ (s.updPort p f).poison = s.poison ∧ (s.updPort p f).strikes = s.strikes ∧ (s.updPort p f).stale = s.stale ∧
    (s.updPort p f).ctxTable = s.ctxTable ∧ (s.updPort p f).ctxStat = s.ctxStat ∧ (s.updPort p f).ctxs = s.ctxs ∧
    (s.updPort p f).nextCtx = s.nextCtx ∧ (s.updPort p f).cplTimeout = s.cplTimeout ∧ (s.updPort p f).redCfg = s.redCfg ∧
    (s.updPort p f).redChecked = s.redChecked ∧ (s.updPort p f).redMismatch = s.redMismatch ∧
    (s.updPort p f).redFenced = s.redFenced ∧ (s.updPort p f).stCtrl = s.stCtrl ∧ (s.updPort p f).stFailed = s.stFailed ∧
    (s.updPort p f).stNotRun = s.stNotRun ∧ (s.updPort p f).privs = s.privs ∧ (s.updPort p f).gens = s.gens ∧
    (s.updPort p f).capLive = s.capLive ∧ (s.updPort p f).msgs = s.msgs ∧ (s.updPort p f).cores = s.cores ∧
    (s.updPort p f).accs = s.accs ∧ (s.updPort p f).tiles = s.tiles ∧ (s.updPort p f).tierCfg = s.tierCfg ∧
    (s.updPort p f).sharedQuota = s.sharedQuota ∧ (s.updPort p f).schedAhead = s.schedAhead ∧
    (s.updPort p f).moved = s.moved ∧ (s.updPort p f).freezeMax = s.freezeMax ∧ (s.updPort p f).forwarded = s.forwarded ∧
    (s.updPort p f).pages = s.pages ∧ (s.updPort p f).direct = s.direct ∧ (s.updPort p f).sills = s.sills ∧
    (s.updPort p f).lostDirect = s.lostDirect ∧ (s.updPort p f).hbm = s.hbm ∧ (s.updPort p f).home = s.home ∧
    (s.updPort p f).ucores = s.ucores ∧ (s.updPort p f).charges = s.charges ∧ (s.updPort p f).links = s.links ∧
    (s.updPort p f).lasers = s.lasers ∧ (s.updPort p f).gang = s.gang ∧ (s.updPort p f).peers = s.peers ∧
    (s.updPort p f).outMsgs = s.outMsgs ∧ (s.updPort p f).time = s.time ∧ (s.updPort p f).edges = s.edges ∧
    (s.updPort p f).tilePower = s.tilePower ∧ (s.updPort p f).power = s.power ∧ (s.updPort p f).domains = s.domains ∧
    (s.updPort p f).flash = s.flash ∧ (s.updPort p f).start = s.start ∧ (s.updPort p f).flt = s.flt ∧
    (s.updPort p f).selftest = s.selftest ∧ (s.updPort p f).i3c = s.i3c ∧ (s.updPort p f).taps = s.taps ∧
    (s.updPort p f).resetLow = s.resetLow ∧ (s.updPort p f).faultLow = s.faultLow ∧ (s.updPort p f).pending = s.pending :=
  ⟨rfl, rfl, rfl, rfl, rfl, rfl, rfl, rfl, rfl, rfl, rfl, rfl, rfl, rfl, rfl, rfl, rfl, rfl, rfl, rfl, rfl, rfl, rfl, rfl,
   rfl, rfl, rfl, rfl, rfl, rfl, rfl, rfl, rfl, rfl, rfl, rfl, rfl, rfl, rfl, rfl, rfl, rfl, rfl, rfl, rfl, rfl, rfl,
   rfl, rfl, rfl, rfl, rfl, rfl, rfl, rfl, rfl, rfl, rfl, rfl, rfl, rfl, rfl⟩

@[simp] theorem State.updEdge_fields (s : State) (e : Nat) (f : Edge → Edge) :
    (s.updEdge e f).variant = s.variant ∧ (s.updEdge e f).clk = s.clk ∧ (s.updEdge e f).free = s.free ∧
    (s.updEdge e f).bus = s.bus ∧ (s.updEdge e f).busError = s.busError ∧ (s.updEdge e f).accepted = s.accepted ∧
    (s.updEdge e f).mem = s.mem ∧ (s.updEdge e f).poison = s.poison ∧ (s.updEdge e f).strikes = s.strikes ∧ (s.updEdge e f).stale = s.stale ∧
    (s.updEdge e f).ctxTable = s.ctxTable ∧ (s.updEdge e f).ctxStat = s.ctxStat ∧ (s.updEdge e f).ctxs = s.ctxs ∧
    (s.updEdge e f).nextCtx = s.nextCtx ∧ (s.updEdge e f).cplTimeout = s.cplTimeout ∧ (s.updEdge e f).redCfg = s.redCfg ∧
    (s.updEdge e f).redChecked = s.redChecked ∧ (s.updEdge e f).redMismatch = s.redMismatch ∧
    (s.updEdge e f).redFenced = s.redFenced ∧ (s.updEdge e f).stCtrl = s.stCtrl ∧ (s.updEdge e f).stFailed = s.stFailed ∧
    (s.updEdge e f).stNotRun = s.stNotRun ∧ (s.updEdge e f).privs = s.privs ∧ (s.updEdge e f).gens = s.gens ∧
    (s.updEdge e f).capLive = s.capLive ∧ (s.updEdge e f).msgs = s.msgs ∧ (s.updEdge e f).cores = s.cores ∧
    (s.updEdge e f).accs = s.accs ∧ (s.updEdge e f).tiles = s.tiles ∧ (s.updEdge e f).tierCfg = s.tierCfg ∧
    (s.updEdge e f).sharedQuota = s.sharedQuota ∧ (s.updEdge e f).schedAhead = s.schedAhead ∧
    (s.updEdge e f).moved = s.moved ∧ (s.updEdge e f).freezeMax = s.freezeMax ∧ (s.updEdge e f).forwarded = s.forwarded ∧
    (s.updEdge e f).pages = s.pages ∧ (s.updEdge e f).direct = s.direct ∧ (s.updEdge e f).sills = s.sills ∧
    (s.updEdge e f).lostDirect = s.lostDirect ∧ (s.updEdge e f).hbm = s.hbm ∧ (s.updEdge e f).home = s.home ∧
    (s.updEdge e f).ucores = s.ucores ∧ (s.updEdge e f).charges = s.charges ∧ (s.updEdge e f).links = s.links ∧
    (s.updEdge e f).lasers = s.lasers ∧ (s.updEdge e f).gang = s.gang ∧ (s.updEdge e f).peers = s.peers ∧
    (s.updEdge e f).outMsgs = s.outMsgs ∧ (s.updEdge e f).time = s.time ∧ (s.updEdge e f).ports = s.ports ∧
    (s.updEdge e f).tilePower = s.tilePower ∧ (s.updEdge e f).power = s.power ∧ (s.updEdge e f).domains = s.domains ∧
    (s.updEdge e f).flash = s.flash ∧ (s.updEdge e f).start = s.start ∧ (s.updEdge e f).flt = s.flt ∧
    (s.updEdge e f).selftest = s.selftest ∧ (s.updEdge e f).i3c = s.i3c ∧ (s.updEdge e f).taps = s.taps ∧
    (s.updEdge e f).resetLow = s.resetLow ∧ (s.updEdge e f).faultLow = s.faultLow ∧ (s.updEdge e f).pending = s.pending :=
  ⟨rfl, rfl, rfl, rfl, rfl, rfl, rfl, rfl, rfl, rfl, rfl, rfl, rfl, rfl, rfl, rfl, rfl, rfl, rfl, rfl, rfl, rfl, rfl, rfl,
   rfl, rfl, rfl, rfl, rfl, rfl, rfl, rfl, rfl, rfl, rfl, rfl, rfl, rfl, rfl, rfl, rfl, rfl, rfl, rfl, rfl, rfl, rfl,
   rfl, rfl, rfl, rfl, rfl, rfl, rfl, rfl, rfl, rfl, rfl, rfl, rfl, rfl, rfl⟩

@[simp] theorem State.updTpower_fields (s : State) (n : Nat) (f : TilePower → TilePower) :
    (s.updTpower n f).variant = s.variant ∧ (s.updTpower n f).clk = s.clk ∧ (s.updTpower n f).free = s.free ∧
    (s.updTpower n f).bus = s.bus ∧ (s.updTpower n f).busError = s.busError ∧ (s.updTpower n f).accepted = s.accepted ∧
    (s.updTpower n f).mem = s.mem ∧ (s.updTpower n f).poison = s.poison ∧ (s.updTpower n f).strikes = s.strikes ∧ (s.updTpower n f).stale = s.stale ∧
    (s.updTpower n f).ctxTable = s.ctxTable ∧ (s.updTpower n f).ctxStat = s.ctxStat ∧ (s.updTpower n f).ctxs = s.ctxs ∧
    (s.updTpower n f).nextCtx = s.nextCtx ∧ (s.updTpower n f).cplTimeout = s.cplTimeout ∧
    (s.updTpower n f).redCfg = s.redCfg ∧ (s.updTpower n f).redChecked = s.redChecked ∧
    (s.updTpower n f).redMismatch = s.redMismatch ∧ (s.updTpower n f).redFenced = s.redFenced ∧
    (s.updTpower n f).stCtrl = s.stCtrl ∧ (s.updTpower n f).stFailed = s.stFailed ∧ (s.updTpower n f).stNotRun = s.stNotRun ∧
    (s.updTpower n f).privs = s.privs ∧ (s.updTpower n f).gens = s.gens ∧ (s.updTpower n f).capLive = s.capLive ∧
    (s.updTpower n f).msgs = s.msgs ∧ (s.updTpower n f).cores = s.cores ∧ (s.updTpower n f).accs = s.accs ∧
    (s.updTpower n f).tiles = s.tiles ∧ (s.updTpower n f).tierCfg = s.tierCfg ∧
    (s.updTpower n f).sharedQuota = s.sharedQuota ∧ (s.updTpower n f).schedAhead = s.schedAhead ∧
    (s.updTpower n f).moved = s.moved ∧ (s.updTpower n f).freezeMax = s.freezeMax ∧
    (s.updTpower n f).forwarded = s.forwarded ∧ (s.updTpower n f).pages = s.pages ∧ (s.updTpower n f).direct = s.direct ∧
    (s.updTpower n f).sills = s.sills ∧ (s.updTpower n f).lostDirect = s.lostDirect ∧ (s.updTpower n f).hbm = s.hbm ∧
    (s.updTpower n f).home = s.home ∧ (s.updTpower n f).ucores = s.ucores ∧ (s.updTpower n f).charges = s.charges ∧
    (s.updTpower n f).links = s.links ∧ (s.updTpower n f).lasers = s.lasers ∧ (s.updTpower n f).gang = s.gang ∧
    (s.updTpower n f).peers = s.peers ∧ (s.updTpower n f).outMsgs = s.outMsgs ∧ (s.updTpower n f).time = s.time ∧
    (s.updTpower n f).ports = s.ports ∧ (s.updTpower n f).edges = s.edges ∧ (s.updTpower n f).power = s.power ∧
    (s.updTpower n f).domains = s.domains ∧ (s.updTpower n f).flash = s.flash ∧ (s.updTpower n f).start = s.start ∧
    (s.updTpower n f).flt = s.flt ∧ (s.updTpower n f).selftest = s.selftest ∧ (s.updTpower n f).i3c = s.i3c ∧
    (s.updTpower n f).taps = s.taps ∧ (s.updTpower n f).resetLow = s.resetLow ∧ (s.updTpower n f).faultLow = s.faultLow ∧
    (s.updTpower n f).pending = s.pending :=
  ⟨rfl, rfl, rfl, rfl, rfl, rfl, rfl, rfl, rfl, rfl, rfl, rfl, rfl, rfl, rfl, rfl, rfl, rfl, rfl, rfl, rfl, rfl, rfl, rfl,
   rfl, rfl, rfl, rfl, rfl, rfl, rfl, rfl, rfl, rfl, rfl, rfl, rfl, rfl, rfl, rfl, rfl, rfl, rfl, rfl, rfl, rfl, rfl,
   rfl, rfl, rfl, rfl, rfl, rfl, rfl, rfl, rfl, rfl, rfl, rfl, rfl, rfl, rfl⟩

@[simp] theorem State.updEntry_fields (s : State) (id : CmdId) (f : Entry → Entry) :
    (s.updEntry id f).variant = s.variant ∧ (s.updEntry id f).clk = s.clk ∧ (s.updEntry id f).free = s.free ∧
    (s.updEntry id f).bus = s.bus ∧ (s.updEntry id f).busError = s.busError ∧ (s.updEntry id f).accepted = s.accepted ∧
    (s.updEntry id f).mem = s.mem ∧ (s.updEntry id f).poison = s.poison ∧ (s.updEntry id f).strikes = s.strikes ∧ (s.updEntry id f).stale = s.stale ∧
    (s.updEntry id f).ctxTable = s.ctxTable ∧ (s.updEntry id f).ctxStat = s.ctxStat ∧ (s.updEntry id f).nextCtx = s.nextCtx ∧
    (s.updEntry id f).cplTimeout = s.cplTimeout ∧ (s.updEntry id f).redCfg = s.redCfg ∧
    (s.updEntry id f).redChecked = s.redChecked ∧ (s.updEntry id f).redMismatch = s.redMismatch ∧
    (s.updEntry id f).redFenced = s.redFenced ∧ (s.updEntry id f).stCtrl = s.stCtrl ∧
    (s.updEntry id f).stFailed = s.stFailed ∧ (s.updEntry id f).stNotRun = s.stNotRun ∧ (s.updEntry id f).privs = s.privs ∧
    (s.updEntry id f).gens = s.gens ∧ (s.updEntry id f).capLive = s.capLive ∧ (s.updEntry id f).msgs = s.msgs ∧
    (s.updEntry id f).cores = s.cores ∧ (s.updEntry id f).accs = s.accs ∧ (s.updEntry id f).tiles = s.tiles ∧
    (s.updEntry id f).tierCfg = s.tierCfg ∧ (s.updEntry id f).sharedQuota = s.sharedQuota ∧
    (s.updEntry id f).schedAhead = s.schedAhead ∧ (s.updEntry id f).moved = s.moved ∧
    (s.updEntry id f).freezeMax = s.freezeMax ∧ (s.updEntry id f).forwarded = s.forwarded ∧
    (s.updEntry id f).pages = s.pages ∧ (s.updEntry id f).direct = s.direct ∧ (s.updEntry id f).sills = s.sills ∧
    (s.updEntry id f).lostDirect = s.lostDirect ∧ (s.updEntry id f).hbm = s.hbm ∧ (s.updEntry id f).home = s.home ∧
    (s.updEntry id f).ucores = s.ucores ∧ (s.updEntry id f).charges = s.charges ∧ (s.updEntry id f).links = s.links ∧
    (s.updEntry id f).lasers = s.lasers ∧ (s.updEntry id f).gang = s.gang ∧ (s.updEntry id f).peers = s.peers ∧
    (s.updEntry id f).outMsgs = s.outMsgs ∧ (s.updEntry id f).time = s.time ∧ (s.updEntry id f).ports = s.ports ∧
    (s.updEntry id f).edges = s.edges ∧ (s.updEntry id f).tilePower = s.tilePower ∧ (s.updEntry id f).power = s.power ∧
    (s.updEntry id f).domains = s.domains ∧ (s.updEntry id f).flash = s.flash ∧ (s.updEntry id f).start = s.start ∧
    (s.updEntry id f).flt = s.flt ∧ (s.updEntry id f).selftest = s.selftest ∧ (s.updEntry id f).i3c = s.i3c ∧
    (s.updEntry id f).taps = s.taps ∧ (s.updEntry id f).resetLow = s.resetLow ∧ (s.updEntry id f).faultLow = s.faultLow ∧
    (s.updEntry id f).pending = s.pending :=
  ⟨rfl, rfl, rfl, rfl, rfl, rfl, rfl, rfl, rfl, rfl, rfl, rfl, rfl, rfl, rfl, rfl, rfl, rfl, rfl, rfl, rfl, rfl, rfl, rfl,
   rfl, rfl, rfl, rfl, rfl, rfl, rfl, rfl, rfl, rfl, rfl, rfl, rfl, rfl, rfl, rfl, rfl, rfl, rfl, rfl, rfl, rfl, rfl,
   rfl, rfl, rfl, rfl, rfl, rfl, rfl, rfl, rfl, rfl, rfl, rfl, rfl, rfl, rfl⟩

@[simp] theorem advanceTo_fields (s : State) (t : Nat) :
    (advanceTo t s).variant = s.variant ∧ (advanceTo t s).free = s.free ∧ (advanceTo t s).bus = s.bus ∧
    (advanceTo t s).busError = s.busError ∧ (advanceTo t s).accepted = s.accepted ∧ (advanceTo t s).mem = s.mem ∧
    (advanceTo t s).poison = s.poison ∧ (advanceTo t s).strikes = s.strikes ∧ (advanceTo t s).stale = s.stale ∧ (advanceTo t s).ctxTable = s.ctxTable ∧
    (advanceTo t s).ctxStat = s.ctxStat ∧ (advanceTo t s).ctxs = s.ctxs ∧ (advanceTo t s).nextCtx = s.nextCtx ∧
    (advanceTo t s).cplTimeout = s.cplTimeout ∧ (advanceTo t s).redCfg = s.redCfg ∧
    (advanceTo t s).redChecked = s.redChecked ∧ (advanceTo t s).redMismatch = s.redMismatch ∧
    (advanceTo t s).redFenced = s.redFenced ∧ (advanceTo t s).stCtrl = s.stCtrl ∧ (advanceTo t s).stFailed = s.stFailed ∧
    (advanceTo t s).stNotRun = s.stNotRun ∧ (advanceTo t s).privs = s.privs ∧ (advanceTo t s).gens = s.gens ∧
    (advanceTo t s).capLive = s.capLive ∧ (advanceTo t s).msgs = s.msgs ∧ (advanceTo t s).cores = s.cores ∧
    (advanceTo t s).accs = s.accs ∧ (advanceTo t s).tiles = s.tiles ∧ (advanceTo t s).tierCfg = s.tierCfg ∧
    (advanceTo t s).sharedQuota = s.sharedQuota ∧ (advanceTo t s).schedAhead = s.schedAhead ∧
    (advanceTo t s).moved = s.moved ∧ (advanceTo t s).freezeMax = s.freezeMax ∧ (advanceTo t s).forwarded = s.forwarded ∧
    (advanceTo t s).pages = s.pages ∧ (advanceTo t s).direct = s.direct ∧ (advanceTo t s).sills = s.sills ∧
    (advanceTo t s).lostDirect = s.lostDirect ∧ (advanceTo t s).hbm = s.hbm ∧ (advanceTo t s).home = s.home ∧
    (advanceTo t s).ucores = s.ucores ∧ (advanceTo t s).charges = s.charges ∧ (advanceTo t s).links = s.links ∧
    (advanceTo t s).lasers = s.lasers ∧ (advanceTo t s).gang = s.gang ∧ (advanceTo t s).peers = s.peers ∧
    (advanceTo t s).outMsgs = s.outMsgs ∧ (advanceTo t s).time = s.time ∧ (advanceTo t s).ports = s.ports ∧
    (advanceTo t s).edges = s.edges ∧ (advanceTo t s).tilePower = s.tilePower ∧ (advanceTo t s).power = s.power ∧
    (advanceTo t s).domains = s.domains ∧ (advanceTo t s).flash = s.flash ∧ (advanceTo t s).start = s.start ∧
    (advanceTo t s).flt = s.flt ∧ (advanceTo t s).selftest = s.selftest ∧ (advanceTo t s).i3c = s.i3c ∧
    (advanceTo t s).taps = s.taps ∧ (advanceTo t s).resetLow = s.resetLow ∧ (advanceTo t s).faultLow = s.faultLow ∧
    (advanceTo t s).pending = s.pending :=
  ⟨rfl, rfl, rfl, rfl, rfl, rfl, rfl, rfl, rfl, rfl, rfl, rfl, rfl, rfl, rfl, rfl, rfl, rfl, rfl, rfl, rfl, rfl, rfl, rfl,
   rfl, rfl, rfl, rfl, rfl, rfl, rfl, rfl, rfl, rfl, rfl, rfl, rfl, rfl, rfl, rfl, rfl, rfl, rfl, rfl, rfl, rfl, rfl,
   rfl, rfl, rfl, rfl, rfl, rfl, rfl, rfl, rfl, rfl, rfl, rfl, rfl, rfl, rfl⟩

@[simp] theorem State.draw_fields (s : State) :
    (s.draw.2).variant = s.variant ∧ (s.draw.2).clk = s.clk ∧ (s.draw.2).bus = s.bus ∧ (s.draw.2).busError = s.busError ∧
    (s.draw.2).accepted = s.accepted ∧ (s.draw.2).mem = s.mem ∧ (s.draw.2).poison = s.poison ∧ (s.draw.2).strikes = s.strikes ∧ (s.draw.2).stale = s.stale ∧
    (s.draw.2).ctxTable = s.ctxTable ∧ (s.draw.2).ctxStat = s.ctxStat ∧ (s.draw.2).ctxs = s.ctxs ∧
    (s.draw.2).nextCtx = s.nextCtx ∧ (s.draw.2).cplTimeout = s.cplTimeout ∧ (s.draw.2).redCfg = s.redCfg ∧
    (s.draw.2).redChecked = s.redChecked ∧ (s.draw.2).redMismatch = s.redMismatch ∧ (s.draw.2).redFenced = s.redFenced ∧
    (s.draw.2).stCtrl = s.stCtrl ∧ (s.draw.2).stFailed = s.stFailed ∧ (s.draw.2).stNotRun = s.stNotRun ∧
    (s.draw.2).privs = s.privs ∧ (s.draw.2).gens = s.gens ∧ (s.draw.2).capLive = s.capLive ∧ (s.draw.2).msgs = s.msgs ∧
    (s.draw.2).cores = s.cores ∧ (s.draw.2).accs = s.accs ∧ (s.draw.2).tiles = s.tiles ∧ (s.draw.2).tierCfg = s.tierCfg ∧
    (s.draw.2).sharedQuota = s.sharedQuota ∧ (s.draw.2).schedAhead = s.schedAhead ∧ (s.draw.2).moved = s.moved ∧
    (s.draw.2).freezeMax = s.freezeMax ∧ (s.draw.2).forwarded = s.forwarded ∧ (s.draw.2).pages = s.pages ∧
    (s.draw.2).direct = s.direct ∧ (s.draw.2).sills = s.sills ∧ (s.draw.2).lostDirect = s.lostDirect ∧
    (s.draw.2).hbm = s.hbm ∧ (s.draw.2).home = s.home ∧ (s.draw.2).ucores = s.ucores ∧ (s.draw.2).charges = s.charges ∧
    (s.draw.2).links = s.links ∧ (s.draw.2).lasers = s.lasers ∧ (s.draw.2).gang = s.gang ∧ (s.draw.2).peers = s.peers ∧
    (s.draw.2).outMsgs = s.outMsgs ∧ (s.draw.2).time = s.time ∧ (s.draw.2).ports = s.ports ∧ (s.draw.2).edges = s.edges ∧
    (s.draw.2).tilePower = s.tilePower ∧ (s.draw.2).power = s.power ∧ (s.draw.2).domains = s.domains ∧
    (s.draw.2).flash = s.flash ∧ (s.draw.2).start = s.start ∧ (s.draw.2).flt = s.flt ∧ (s.draw.2).selftest = s.selftest ∧
    (s.draw.2).i3c = s.i3c ∧ (s.draw.2).taps = s.taps ∧ (s.draw.2).resetLow = s.resetLow ∧ (s.draw.2).faultLow = s.faultLow ∧
    (s.draw.2).pending = s.pending :=
  ⟨rfl, rfl, rfl, rfl, rfl, rfl, rfl, rfl, rfl, rfl, rfl, rfl, rfl, rfl, rfl, rfl, rfl, rfl, rfl, rfl, rfl, rfl, rfl, rfl,
   rfl, rfl, rfl, rfl, rfl, rfl, rfl, rfl, rfl, rfl, rfl, rfl, rfl, rfl, rfl, rfl, rfl, rfl, rfl, rfl, rfl, rfl, rfl,
   rfl, rfl, rfl, rfl, rfl, rfl, rfl, rfl, rfl, rfl, rfl, rfl, rfl, rfl, rfl⟩

@[simp] theorem State.setCtx_reads (s : State) (n : Nat) (c : Ctx) :
    (∀ i j, (s.setCtx n c).core i j = s.core i j) ∧ (∀ i, (s.setCtx n c).tile i = s.tile i) ∧
    (∀ i, (s.setCtx n c).stack i = s.stack i) ∧ (∀ i j, (s.setCtx n c).pc i j = s.pc i j) ∧
    (∀ i j, (s.setCtx n c).ucore i j = s.ucore i j) ∧ (∀ i, (s.setCtx n c).page i = s.page i) ∧
    (∀ i, (s.setCtx n c).directPage i = s.directPage i) ∧ (∀ i, (s.setCtx n c).sill i = s.sill i) ∧
    (∀ i, (s.setCtx n c).link i = s.link i) ∧ (∀ i, (s.setCtx n c).laser i = s.laser i) ∧
    (∀ i, (s.setCtx n c).peer i = s.peer i) ∧ (∀ i, (s.setCtx n c).port i = s.port i) ∧
    (∀ i, (s.setCtx n c).edge i = s.edge i) ∧ (∀ i, (s.setCtx n c).tpower i = s.tpower i) ∧ (s.setCtx n c).now = s.now :=
  ⟨fun _ _ => rfl, fun _ => rfl, fun _ => rfl, fun _ _ => rfl, fun _ _ => rfl, fun _ => rfl, fun _ => rfl, fun _ => rfl,
   fun _ => rfl, fun _ => rfl, fun _ => rfl, fun _ => rfl, fun _ => rfl, fun _ => rfl, rfl⟩

@[simp] theorem State.updCtx_reads (s : State) (n : Nat) (f : Ctx → Ctx) :
    (∀ i j, (s.updCtx n f).core i j = s.core i j) ∧ (∀ i, (s.updCtx n f).tile i = s.tile i) ∧
    (∀ i, (s.updCtx n f).stack i = s.stack i) ∧ (∀ i j, (s.updCtx n f).pc i j = s.pc i j) ∧
    (∀ i j, (s.updCtx n f).ucore i j = s.ucore i j) ∧ (∀ i, (s.updCtx n f).page i = s.page i) ∧
    (∀ i, (s.updCtx n f).directPage i = s.directPage i) ∧ (∀ i, (s.updCtx n f).sill i = s.sill i) ∧
    (∀ i, (s.updCtx n f).link i = s.link i) ∧ (∀ i, (s.updCtx n f).laser i = s.laser i) ∧
    (∀ i, (s.updCtx n f).peer i = s.peer i) ∧ (∀ i, (s.updCtx n f).port i = s.port i) ∧
    (∀ i, (s.updCtx n f).edge i = s.edge i) ∧ (∀ i, (s.updCtx n f).tpower i = s.tpower i) ∧ (s.updCtx n f).now = s.now :=
  ⟨fun _ _ => rfl, fun _ => rfl, fun _ => rfl, fun _ _ => rfl, fun _ _ => rfl, fun _ => rfl, fun _ => rfl, fun _ => rfl,
   fun _ => rfl, fun _ => rfl, fun _ => rfl, fun _ => rfl, fun _ => rfl, fun _ => rfl, rfl⟩

@[simp] theorem State.setCore_reads (s : State) (t c : Nat) (k : Core) :
    (∀ i, (s.setCore t c k).ctx i = s.ctx i) ∧ (∀ i, (s.setCore t c k).tile i = s.tile i) ∧
    (∀ i, (s.setCore t c k).stack i = s.stack i) ∧ (∀ i j, (s.setCore t c k).pc i j = s.pc i j) ∧
    (∀ i j, (s.setCore t c k).ucore i j = s.ucore i j) ∧ (∀ i, (s.setCore t c k).page i = s.page i) ∧
    (∀ i, (s.setCore t c k).directPage i = s.directPage i) ∧ (∀ i, (s.setCore t c k).sill i = s.sill i) ∧
    (∀ i, (s.setCore t c k).link i = s.link i) ∧ (∀ i, (s.setCore t c k).laser i = s.laser i) ∧
    (∀ i, (s.setCore t c k).peer i = s.peer i) ∧ (∀ i, (s.setCore t c k).port i = s.port i) ∧
    (∀ i, (s.setCore t c k).edge i = s.edge i) ∧ (∀ i, (s.setCore t c k).tpower i = s.tpower i) ∧
    (∀ x, (s.setCore t c k).entry? x = s.entry? x) ∧ (s.setCore t c k).now = s.now :=
  ⟨fun _ => rfl, fun _ => rfl, fun _ => rfl, fun _ _ => rfl, fun _ _ => rfl, fun _ => rfl, fun _ => rfl, fun _ => rfl,
   fun _ => rfl, fun _ => rfl, fun _ => rfl, fun _ => rfl, fun _ => rfl, fun _ => rfl, fun _ => rfl, rfl⟩

@[simp] theorem State.updCore_reads (s : State) (t c : Nat) (f : Core → Core) :
    (∀ i, (s.updCore t c f).ctx i = s.ctx i) ∧ (∀ i, (s.updCore t c f).tile i = s.tile i) ∧
    (∀ i, (s.updCore t c f).stack i = s.stack i) ∧ (∀ i j, (s.updCore t c f).pc i j = s.pc i j) ∧
    (∀ i j, (s.updCore t c f).ucore i j = s.ucore i j) ∧ (∀ i, (s.updCore t c f).page i = s.page i) ∧
    (∀ i, (s.updCore t c f).directPage i = s.directPage i) ∧ (∀ i, (s.updCore t c f).sill i = s.sill i) ∧
    (∀ i, (s.updCore t c f).link i = s.link i) ∧ (∀ i, (s.updCore t c f).laser i = s.laser i) ∧
    (∀ i, (s.updCore t c f).peer i = s.peer i) ∧ (∀ i, (s.updCore t c f).port i = s.port i) ∧
    (∀ i, (s.updCore t c f).edge i = s.edge i) ∧ (∀ i, (s.updCore t c f).tpower i = s.tpower i) ∧
    (∀ x, (s.updCore t c f).entry? x = s.entry? x) ∧ (s.updCore t c f).now = s.now :=
  ⟨fun _ => rfl, fun _ => rfl, fun _ => rfl, fun _ _ => rfl, fun _ _ => rfl, fun _ => rfl, fun _ => rfl, fun _ => rfl,
   fun _ => rfl, fun _ => rfl, fun _ => rfl, fun _ => rfl, fun _ => rfl, fun _ => rfl, fun _ => rfl, rfl⟩

@[simp] theorem State.updTile_reads (s : State) (n : Nat) (f : Tile → Tile) :
    (∀ i, (s.updTile n f).ctx i = s.ctx i) ∧ (∀ i j, (s.updTile n f).core i j = s.core i j) ∧
    (∀ i, (s.updTile n f).stack i = s.stack i) ∧ (∀ i j, (s.updTile n f).pc i j = s.pc i j) ∧
    (∀ i j, (s.updTile n f).ucore i j = s.ucore i j) ∧ (∀ i, (s.updTile n f).page i = s.page i) ∧
    (∀ i, (s.updTile n f).directPage i = s.directPage i) ∧ (∀ i, (s.updTile n f).sill i = s.sill i) ∧
    (∀ i, (s.updTile n f).link i = s.link i) ∧ (∀ i, (s.updTile n f).laser i = s.laser i) ∧
    (∀ i, (s.updTile n f).peer i = s.peer i) ∧ (∀ i, (s.updTile n f).port i = s.port i) ∧
    (∀ i, (s.updTile n f).edge i = s.edge i) ∧ (∀ i, (s.updTile n f).tpower i = s.tpower i) ∧
    (∀ x, (s.updTile n f).entry? x = s.entry? x) ∧ (s.updTile n f).now = s.now :=
  ⟨fun _ => rfl, fun _ _ => rfl, fun _ => rfl, fun _ _ => rfl, fun _ _ => rfl, fun _ => rfl, fun _ => rfl, fun _ => rfl,
   fun _ => rfl, fun _ => rfl, fun _ => rfl, fun _ => rfl, fun _ => rfl, fun _ => rfl, fun _ => rfl, rfl⟩

@[simp] theorem State.updStack_reads (s : State) (n : Nat) (f : Stack → Stack) :
    (∀ i, (s.updStack n f).ctx i = s.ctx i) ∧ (∀ i j, (s.updStack n f).core i j = s.core i j) ∧
    (∀ i, (s.updStack n f).tile i = s.tile i) ∧ (∀ i j, (s.updStack n f).ucore i j = s.ucore i j) ∧
    (∀ i, (s.updStack n f).page i = s.page i) ∧ (∀ i, (s.updStack n f).directPage i = s.directPage i) ∧
    (∀ i, (s.updStack n f).sill i = s.sill i) ∧ (∀ i, (s.updStack n f).link i = s.link i) ∧
    (∀ i, (s.updStack n f).laser i = s.laser i) ∧ (∀ i, (s.updStack n f).peer i = s.peer i) ∧
    (∀ i, (s.updStack n f).port i = s.port i) ∧ (∀ i, (s.updStack n f).edge i = s.edge i) ∧
    (∀ i, (s.updStack n f).tpower i = s.tpower i) ∧ (∀ x, (s.updStack n f).entry? x = s.entry? x) ∧
    (s.updStack n f).now = s.now :=
  ⟨fun _ => rfl, fun _ _ => rfl, fun _ => rfl, fun _ _ => rfl, fun _ => rfl, fun _ => rfl, fun _ => rfl, fun _ => rfl,
   fun _ => rfl, fun _ => rfl, fun _ => rfl, fun _ => rfl, fun _ => rfl, fun _ => rfl, rfl⟩

@[simp] theorem State.updPc_reads (s : State) (n p : Nat) (f : Pc → Pc) :
    (∀ i, (s.updPc n p f).ctx i = s.ctx i) ∧ (∀ i j, (s.updPc n p f).core i j = s.core i j) ∧
    (∀ i, (s.updPc n p f).tile i = s.tile i) ∧ (∀ i j, (s.updPc n p f).ucore i j = s.ucore i j) ∧
    (∀ i, (s.updPc n p f).page i = s.page i) ∧ (∀ i, (s.updPc n p f).directPage i = s.directPage i) ∧
    (∀ i, (s.updPc n p f).sill i = s.sill i) ∧ (∀ i, (s.updPc n p f).link i = s.link i) ∧
    (∀ i, (s.updPc n p f).laser i = s.laser i) ∧ (∀ i, (s.updPc n p f).peer i = s.peer i) ∧
    (∀ i, (s.updPc n p f).port i = s.port i) ∧ (∀ i, (s.updPc n p f).edge i = s.edge i) ∧
    (∀ i, (s.updPc n p f).tpower i = s.tpower i) ∧ (∀ x, (s.updPc n p f).entry? x = s.entry? x) ∧
    (s.updPc n p f).now = s.now :=
  ⟨fun _ => rfl, fun _ _ => rfl, fun _ => rfl, fun _ _ => rfl, fun _ => rfl, fun _ => rfl, fun _ => rfl, fun _ => rfl,
   fun _ => rfl, fun _ => rfl, fun _ => rfl, fun _ => rfl, fun _ => rfl, fun _ => rfl, rfl⟩

@[simp] theorem State.updUcore_reads (s : State) (t u : Nat) (f : UCore → UCore) :
    (∀ i, (s.updUcore t u f).ctx i = s.ctx i) ∧ (∀ i j, (s.updUcore t u f).core i j = s.core i j) ∧
    (∀ i, (s.updUcore t u f).tile i = s.tile i) ∧ (∀ i, (s.updUcore t u f).stack i = s.stack i) ∧
    (∀ i j, (s.updUcore t u f).pc i j = s.pc i j) ∧ (∀ i, (s.updUcore t u f).page i = s.page i) ∧
    (∀ i, (s.updUcore t u f).directPage i = s.directPage i) ∧ (∀ i, (s.updUcore t u f).sill i = s.sill i) ∧
    (∀ i, (s.updUcore t u f).link i = s.link i) ∧ (∀ i, (s.updUcore t u f).laser i = s.laser i) ∧
    (∀ i, (s.updUcore t u f).peer i = s.peer i) ∧ (∀ i, (s.updUcore t u f).port i = s.port i) ∧
    (∀ i, (s.updUcore t u f).edge i = s.edge i) ∧ (∀ i, (s.updUcore t u f).tpower i = s.tpower i) ∧
    (∀ x, (s.updUcore t u f).entry? x = s.entry? x) ∧ (s.updUcore t u f).now = s.now :=
  ⟨fun _ => rfl, fun _ _ => rfl, fun _ => rfl, fun _ => rfl, fun _ _ => rfl, fun _ => rfl, fun _ => rfl, fun _ => rfl,
   fun _ => rfl, fun _ => rfl, fun _ => rfl, fun _ => rfl, fun _ => rfl, fun _ => rfl, fun _ => rfl, rfl⟩

@[simp] theorem State.updPage_reads (s : State) (p : Nat) (f : TierPage → TierPage) :
    (∀ i, (s.updPage p f).ctx i = s.ctx i) ∧ (∀ i j, (s.updPage p f).core i j = s.core i j) ∧
    (∀ i, (s.updPage p f).tile i = s.tile i) ∧ (∀ i, (s.updPage p f).stack i = s.stack i) ∧
    (∀ i j, (s.updPage p f).pc i j = s.pc i j) ∧ (∀ i j, (s.updPage p f).ucore i j = s.ucore i j) ∧
    (∀ i, (s.updPage p f).directPage i = s.directPage i) ∧ (∀ i, (s.updPage p f).sill i = s.sill i) ∧
    (∀ i, (s.updPage p f).link i = s.link i) ∧ (∀ i, (s.updPage p f).laser i = s.laser i) ∧
    (∀ i, (s.updPage p f).peer i = s.peer i) ∧ (∀ i, (s.updPage p f).port i = s.port i) ∧
    (∀ i, (s.updPage p f).edge i = s.edge i) ∧ (∀ i, (s.updPage p f).tpower i = s.tpower i) ∧
    (∀ x, (s.updPage p f).entry? x = s.entry? x) ∧ (s.updPage p f).now = s.now :=
  ⟨fun _ => rfl, fun _ _ => rfl, fun _ => rfl, fun _ => rfl, fun _ _ => rfl, fun _ _ => rfl, fun _ => rfl, fun _ => rfl,
   fun _ => rfl, fun _ => rfl, fun _ => rfl, fun _ => rfl, fun _ => rfl, fun _ => rfl, fun _ => rfl, rfl⟩

@[simp] theorem State.setDirect_reads (s : State) (p : Nat) (d : Option DirectPage) :
    (∀ i, (s.setDirect p d).ctx i = s.ctx i) ∧ (∀ i j, (s.setDirect p d).core i j = s.core i j) ∧
    (∀ i, (s.setDirect p d).tile i = s.tile i) ∧ (∀ i, (s.setDirect p d).stack i = s.stack i) ∧
    (∀ i j, (s.setDirect p d).pc i j = s.pc i j) ∧ (∀ i j, (s.setDirect p d).ucore i j = s.ucore i j) ∧
    (∀ i, (s.setDirect p d).page i = s.page i) ∧ (∀ i, (s.setDirect p d).sill i = s.sill i) ∧
    (∀ i, (s.setDirect p d).link i = s.link i) ∧ (∀ i, (s.setDirect p d).laser i = s.laser i) ∧
    (∀ i, (s.setDirect p d).peer i = s.peer i) ∧ (∀ i, (s.setDirect p d).port i = s.port i) ∧
    (∀ i, (s.setDirect p d).edge i = s.edge i) ∧ (∀ i, (s.setDirect p d).tpower i = s.tpower i) ∧
    (∀ x, (s.setDirect p d).entry? x = s.entry? x) ∧ (s.setDirect p d).now = s.now :=
  ⟨fun _ => rfl, fun _ _ => rfl, fun _ => rfl, fun _ => rfl, fun _ _ => rfl, fun _ _ => rfl, fun _ => rfl, fun _ => rfl,
   fun _ => rfl, fun _ => rfl, fun _ => rfl, fun _ => rfl, fun _ => rfl, fun _ => rfl, fun _ => rfl, rfl⟩

@[simp] theorem State.updSill_reads (s : State) (n : Nat) (f : Sill → Sill) :
    (∀ i, (s.updSill n f).ctx i = s.ctx i) ∧ (∀ i j, (s.updSill n f).core i j = s.core i j) ∧
    (∀ i, (s.updSill n f).tile i = s.tile i) ∧ (∀ i, (s.updSill n f).stack i = s.stack i) ∧
    (∀ i j, (s.updSill n f).pc i j = s.pc i j) ∧ (∀ i j, (s.updSill n f).ucore i j = s.ucore i j) ∧
    (∀ i, (s.updSill n f).page i = s.page i) ∧ (∀ i, (s.updSill n f).directPage i = s.directPage i) ∧
    (∀ i, (s.updSill n f).link i = s.link i) ∧ (∀ i, (s.updSill n f).laser i = s.laser i) ∧
    (∀ i, (s.updSill n f).peer i = s.peer i) ∧ (∀ i, (s.updSill n f).port i = s.port i) ∧
    (∀ i, (s.updSill n f).edge i = s.edge i) ∧ (∀ i, (s.updSill n f).tpower i = s.tpower i) ∧
    (∀ x, (s.updSill n f).entry? x = s.entry? x) ∧ (s.updSill n f).now = s.now :=
  ⟨fun _ => rfl, fun _ _ => rfl, fun _ => rfl, fun _ => rfl, fun _ _ => rfl, fun _ _ => rfl, fun _ => rfl, fun _ => rfl,
   fun _ => rfl, fun _ => rfl, fun _ => rfl, fun _ => rfl, fun _ => rfl, fun _ => rfl, fun _ => rfl, rfl⟩

@[simp] theorem State.updLink_reads (s : State) (k : Nat) (f : Link → Link) :
    (∀ i, (s.updLink k f).ctx i = s.ctx i) ∧ (∀ i j, (s.updLink k f).core i j = s.core i j) ∧
    (∀ i, (s.updLink k f).tile i = s.tile i) ∧ (∀ i, (s.updLink k f).stack i = s.stack i) ∧
    (∀ i j, (s.updLink k f).pc i j = s.pc i j) ∧ (∀ i j, (s.updLink k f).ucore i j = s.ucore i j) ∧
    (∀ i, (s.updLink k f).page i = s.page i) ∧ (∀ i, (s.updLink k f).directPage i = s.directPage i) ∧
    (∀ i, (s.updLink k f).sill i = s.sill i) ∧ (∀ i, (s.updLink k f).laser i = s.laser i) ∧
    (∀ i, (s.updLink k f).peer i = s.peer i) ∧ (∀ i, (s.updLink k f).port i = s.port i) ∧
    (∀ i, (s.updLink k f).edge i = s.edge i) ∧ (∀ i, (s.updLink k f).tpower i = s.tpower i) ∧
    (∀ x, (s.updLink k f).entry? x = s.entry? x) ∧ (s.updLink k f).now = s.now :=
  ⟨fun _ => rfl, fun _ _ => rfl, fun _ => rfl, fun _ => rfl, fun _ _ => rfl, fun _ _ => rfl, fun _ => rfl, fun _ => rfl,
   fun _ => rfl, fun _ => rfl, fun _ => rfl, fun _ => rfl, fun _ => rfl, fun _ => rfl, fun _ => rfl, rfl⟩

@[simp] theorem State.updLaser_reads (s : State) (n : Nat) (f : Laser → Laser) :
    (∀ i, (s.updLaser n f).ctx i = s.ctx i) ∧ (∀ i j, (s.updLaser n f).core i j = s.core i j) ∧
    (∀ i, (s.updLaser n f).tile i = s.tile i) ∧ (∀ i, (s.updLaser n f).stack i = s.stack i) ∧
    (∀ i j, (s.updLaser n f).pc i j = s.pc i j) ∧ (∀ i j, (s.updLaser n f).ucore i j = s.ucore i j) ∧
    (∀ i, (s.updLaser n f).page i = s.page i) ∧ (∀ i, (s.updLaser n f).directPage i = s.directPage i) ∧
    (∀ i, (s.updLaser n f).sill i = s.sill i) ∧ (∀ i, (s.updLaser n f).link i = s.link i) ∧
    (∀ i, (s.updLaser n f).peer i = s.peer i) ∧ (∀ i, (s.updLaser n f).port i = s.port i) ∧
    (∀ i, (s.updLaser n f).edge i = s.edge i) ∧ (∀ i, (s.updLaser n f).tpower i = s.tpower i) ∧
    (∀ x, (s.updLaser n f).entry? x = s.entry? x) ∧ (s.updLaser n f).now = s.now :=
  ⟨fun _ => rfl, fun _ _ => rfl, fun _ => rfl, fun _ => rfl, fun _ _ => rfl, fun _ _ => rfl, fun _ => rfl, fun _ => rfl,
   fun _ => rfl, fun _ => rfl, fun _ => rfl, fun _ => rfl, fun _ => rfl, fun _ => rfl, fun _ => rfl, rfl⟩

@[simp] theorem State.updPeer_reads (s : State) (a : Nat) (f : Peer → Peer) :
    (∀ i, (s.updPeer a f).ctx i = s.ctx i) ∧ (∀ i j, (s.updPeer a f).core i j = s.core i j) ∧
    (∀ i, (s.updPeer a f).tile i = s.tile i) ∧ (∀ i, (s.updPeer a f).stack i = s.stack i) ∧
    (∀ i j, (s.updPeer a f).pc i j = s.pc i j) ∧ (∀ i j, (s.updPeer a f).ucore i j = s.ucore i j) ∧
    (∀ i, (s.updPeer a f).page i = s.page i) ∧ (∀ i, (s.updPeer a f).directPage i = s.directPage i) ∧
    (∀ i, (s.updPeer a f).sill i = s.sill i) ∧ (∀ i, (s.updPeer a f).link i = s.link i) ∧
    (∀ i, (s.updPeer a f).laser i = s.laser i) ∧ (∀ i, (s.updPeer a f).port i = s.port i) ∧
    (∀ i, (s.updPeer a f).edge i = s.edge i) ∧ (∀ i, (s.updPeer a f).tpower i = s.tpower i) ∧
    (∀ x, (s.updPeer a f).entry? x = s.entry? x) ∧ (s.updPeer a f).now = s.now :=
  ⟨fun _ => rfl, fun _ _ => rfl, fun _ => rfl, fun _ => rfl, fun _ _ => rfl, fun _ _ => rfl, fun _ => rfl, fun _ => rfl,
   fun _ => rfl, fun _ => rfl, fun _ => rfl, fun _ => rfl, fun _ => rfl, fun _ => rfl, fun _ => rfl, rfl⟩

@[simp] theorem State.updPort_reads (s : State) (p : Nat) (f : Port → Port) :
    (∀ i, (s.updPort p f).ctx i = s.ctx i) ∧ (∀ i j, (s.updPort p f).core i j = s.core i j) ∧
    (∀ i, (s.updPort p f).tile i = s.tile i) ∧ (∀ i, (s.updPort p f).stack i = s.stack i) ∧
    (∀ i j, (s.updPort p f).pc i j = s.pc i j) ∧ (∀ i j, (s.updPort p f).ucore i j = s.ucore i j) ∧
    (∀ i, (s.updPort p f).page i = s.page i) ∧ (∀ i, (s.updPort p f).directPage i = s.directPage i) ∧
    (∀ i, (s.updPort p f).sill i = s.sill i) ∧ (∀ i, (s.updPort p f).link i = s.link i) ∧
    (∀ i, (s.updPort p f).laser i = s.laser i) ∧ (∀ i, (s.updPort p f).peer i = s.peer i) ∧
    (∀ i, (s.updPort p f).edge i = s.edge i) ∧ (∀ i, (s.updPort p f).tpower i = s.tpower i) ∧
    (∀ x, (s.updPort p f).entry? x = s.entry? x) ∧ (s.updPort p f).now = s.now :=
  ⟨fun _ => rfl, fun _ _ => rfl, fun _ => rfl, fun _ => rfl, fun _ _ => rfl, fun _ _ => rfl, fun _ => rfl, fun _ => rfl,
   fun _ => rfl, fun _ => rfl, fun _ => rfl, fun _ => rfl, fun _ => rfl, fun _ => rfl, fun _ => rfl, rfl⟩

@[simp] theorem State.updEdge_reads (s : State) (e : Nat) (f : Edge → Edge) :
    (∀ i, (s.updEdge e f).ctx i = s.ctx i) ∧ (∀ i j, (s.updEdge e f).core i j = s.core i j) ∧
    (∀ i, (s.updEdge e f).tile i = s.tile i) ∧ (∀ i, (s.updEdge e f).stack i = s.stack i) ∧
    (∀ i j, (s.updEdge e f).pc i j = s.pc i j) ∧ (∀ i j, (s.updEdge e f).ucore i j = s.ucore i j) ∧
    (∀ i, (s.updEdge e f).page i = s.page i) ∧ (∀ i, (s.updEdge e f).directPage i = s.directPage i) ∧
    (∀ i, (s.updEdge e f).sill i = s.sill i) ∧ (∀ i, (s.updEdge e f).link i = s.link i) ∧
    (∀ i, (s.updEdge e f).laser i = s.laser i) ∧ (∀ i, (s.updEdge e f).peer i = s.peer i) ∧
    (∀ i, (s.updEdge e f).port i = s.port i) ∧ (∀ i, (s.updEdge e f).tpower i = s.tpower i) ∧
    (∀ x, (s.updEdge e f).entry? x = s.entry? x) ∧ (s.updEdge e f).now = s.now :=
  ⟨fun _ => rfl, fun _ _ => rfl, fun _ => rfl, fun _ => rfl, fun _ _ => rfl, fun _ _ => rfl, fun _ => rfl, fun _ => rfl,
   fun _ => rfl, fun _ => rfl, fun _ => rfl, fun _ => rfl, fun _ => rfl, fun _ => rfl, fun _ => rfl, rfl⟩

@[simp] theorem State.updTpower_reads (s : State) (n : Nat) (f : TilePower → TilePower) :
    (∀ i, (s.updTpower n f).ctx i = s.ctx i) ∧ (∀ i j, (s.updTpower n f).core i j = s.core i j) ∧
    (∀ i, (s.updTpower n f).tile i = s.tile i) ∧ (∀ i, (s.updTpower n f).stack i = s.stack i) ∧
    (∀ i j, (s.updTpower n f).pc i j = s.pc i j) ∧ (∀ i j, (s.updTpower n f).ucore i j = s.ucore i j) ∧
    (∀ i, (s.updTpower n f).page i = s.page i) ∧ (∀ i, (s.updTpower n f).directPage i = s.directPage i) ∧
    (∀ i, (s.updTpower n f).sill i = s.sill i) ∧ (∀ i, (s.updTpower n f).link i = s.link i) ∧
    (∀ i, (s.updTpower n f).laser i = s.laser i) ∧ (∀ i, (s.updTpower n f).peer i = s.peer i) ∧
    (∀ i, (s.updTpower n f).port i = s.port i) ∧ (∀ i, (s.updTpower n f).edge i = s.edge i) ∧
    (∀ x, (s.updTpower n f).entry? x = s.entry? x) ∧ (s.updTpower n f).now = s.now :=
  ⟨fun _ => rfl, fun _ _ => rfl, fun _ => rfl, fun _ => rfl, fun _ _ => rfl, fun _ _ => rfl, fun _ => rfl, fun _ => rfl,
   fun _ => rfl, fun _ => rfl, fun _ => rfl, fun _ => rfl, fun _ => rfl, fun _ => rfl, fun _ => rfl, rfl⟩

@[simp] theorem State.updEntry_reads (s : State) (id : CmdId) (f : Entry → Entry) :
    (∀ i j, (s.updEntry id f).core i j = s.core i j) ∧ (∀ i, (s.updEntry id f).tile i = s.tile i) ∧
    (∀ i, (s.updEntry id f).stack i = s.stack i) ∧ (∀ i j, (s.updEntry id f).pc i j = s.pc i j) ∧
    (∀ i j, (s.updEntry id f).ucore i j = s.ucore i j) ∧ (∀ i, (s.updEntry id f).page i = s.page i) ∧
    (∀ i, (s.updEntry id f).directPage i = s.directPage i) ∧ (∀ i, (s.updEntry id f).sill i = s.sill i) ∧
    (∀ i, (s.updEntry id f).link i = s.link i) ∧ (∀ i, (s.updEntry id f).laser i = s.laser i) ∧
    (∀ i, (s.updEntry id f).peer i = s.peer i) ∧ (∀ i, (s.updEntry id f).port i = s.port i) ∧
    (∀ i, (s.updEntry id f).edge i = s.edge i) ∧ (∀ i, (s.updEntry id f).tpower i = s.tpower i) ∧
    (s.updEntry id f).now = s.now :=
  ⟨fun _ _ => rfl, fun _ => rfl, fun _ => rfl, fun _ _ => rfl, fun _ _ => rfl, fun _ => rfl, fun _ => rfl, fun _ => rfl,
   fun _ => rfl, fun _ => rfl, fun _ => rfl, fun _ => rfl, fun _ => rfl, fun _ => rfl, rfl⟩

@[simp] theorem advanceTo_reads (s : State) (t : Nat) :
    (∀ i, (advanceTo t s).ctx i = s.ctx i) ∧ (∀ i j, (advanceTo t s).core i j = s.core i j) ∧
    (∀ i, (advanceTo t s).tile i = s.tile i) ∧ (∀ i, (advanceTo t s).stack i = s.stack i) ∧
    (∀ i j, (advanceTo t s).pc i j = s.pc i j) ∧ (∀ i j, (advanceTo t s).ucore i j = s.ucore i j) ∧
    (∀ i, (advanceTo t s).page i = s.page i) ∧ (∀ i, (advanceTo t s).directPage i = s.directPage i) ∧
    (∀ i, (advanceTo t s).sill i = s.sill i) ∧ (∀ i, (advanceTo t s).link i = s.link i) ∧
    (∀ i, (advanceTo t s).laser i = s.laser i) ∧ (∀ i, (advanceTo t s).peer i = s.peer i) ∧
    (∀ i, (advanceTo t s).port i = s.port i) ∧ (∀ i, (advanceTo t s).edge i = s.edge i) ∧
    (∀ i, (advanceTo t s).tpower i = s.tpower i) ∧ (∀ x, (advanceTo t s).entry? x = s.entry? x) :=
  ⟨fun _ => rfl, fun _ _ => rfl, fun _ => rfl, fun _ => rfl, fun _ _ => rfl, fun _ _ => rfl, fun _ => rfl, fun _ => rfl,
   fun _ => rfl, fun _ => rfl, fun _ => rfl, fun _ => rfl, fun _ => rfl, fun _ => rfl, fun _ => rfl, fun _ => rfl⟩

@[simp] theorem State.draw_reads (s : State) :
    (∀ i, (s.draw.2).ctx i = s.ctx i) ∧ (∀ i j, (s.draw.2).core i j = s.core i j) ∧ (∀ i, (s.draw.2).tile i = s.tile i) ∧
    (∀ i, (s.draw.2).stack i = s.stack i) ∧ (∀ i j, (s.draw.2).pc i j = s.pc i j) ∧
    (∀ i j, (s.draw.2).ucore i j = s.ucore i j) ∧ (∀ i, (s.draw.2).page i = s.page i) ∧
    (∀ i, (s.draw.2).directPage i = s.directPage i) ∧ (∀ i, (s.draw.2).sill i = s.sill i) ∧
    (∀ i, (s.draw.2).link i = s.link i) ∧ (∀ i, (s.draw.2).laser i = s.laser i) ∧ (∀ i, (s.draw.2).peer i = s.peer i) ∧
    (∀ i, (s.draw.2).port i = s.port i) ∧ (∀ i, (s.draw.2).edge i = s.edge i) ∧ (∀ i, (s.draw.2).tpower i = s.tpower i) ∧
    (∀ x, (s.draw.2).entry? x = s.entry? x) ∧ (s.draw.2).now = s.now :=
  ⟨fun _ => rfl, fun _ _ => rfl, fun _ => rfl, fun _ => rfl, fun _ _ => rfl, fun _ _ => rfl, fun _ => rfl, fun _ => rfl,
   fun _ => rfl, fun _ => rfl, fun _ => rfl, fun _ => rfl, fun _ => rfl, fun _ => rfl, fun _ => rfl, fun _ => rfl, rfl⟩

/-! ### The component that an update changes -/

theorem State.ctx_updCtx {s : State} (h : Table.wf ({} : Ctx) s.ctxs = true) (n : Nat) (f : Ctx → Ctx) :
    (s.updCtx n f).ctx n = f (s.ctx n) := Table.get_upd_same _ h n f

theorem State.ctx_updCtx_other {s : State} (h : Table.wf ({} : Ctx) s.ctxs = true) {m n : Nat} (hm : m ≠ n) (f : Ctx → Ctx) :
    (s.updCtx n f).ctx m = s.ctx m := Table.get_upd_other _ h hm f

theorem State.tile_updTile {s : State} (h : Table.wf ({} : Tile) s.tiles = true) (n : Nat) (f : Tile → Tile) :
    (s.updTile n f).tile n = f (s.tile n) := Table.get_upd_same _ h n f

theorem State.tile_updTile_other {s : State} (h : Table.wf ({} : Tile) s.tiles = true) {m n : Nat} (hm : m ≠ n) (f : Tile → Tile) :
    (s.updTile n f).tile m = s.tile m := Table.get_upd_other _ h hm f

theorem State.stack_updStack {s : State} (h : Table.wf ({} : Stack) s.hbm = true) (n : Nat) (f : Stack → Stack) :
    (s.updStack n f).stack n = f (s.stack n) := Table.get_upd_same _ h n f

theorem State.stack_updStack_other {s : State} (h : Table.wf ({} : Stack) s.hbm = true) {m n : Nat} (hm : m ≠ n) (f : Stack → Stack) :
    (s.updStack n f).stack m = s.stack m := Table.get_upd_other _ h hm f

theorem State.page_updPage {s : State} (h : Table.wf ({} : TierPage) s.pages = true) (n : Nat) (f : TierPage → TierPage) :
    (s.updPage n f).page n = f (s.page n) := Table.get_upd_same _ h n f

theorem State.page_updPage_other {s : State} (h : Table.wf ({} : TierPage) s.pages = true) {m n : Nat} (hm : m ≠ n) (f : TierPage → TierPage) :
    (s.updPage n f).page m = s.page m := Table.get_upd_other _ h hm f

theorem State.sill_updSill {s : State} (h : Table.wf ({} : Sill) s.sills = true) (n : Nat) (f : Sill → Sill) :
    (s.updSill n f).sill n = f (s.sill n) := Table.get_upd_same _ h n f

theorem State.sill_updSill_other {s : State} (h : Table.wf ({} : Sill) s.sills = true) {m n : Nat} (hm : m ≠ n) (f : Sill → Sill) :
    (s.updSill n f).sill m = s.sill m := Table.get_upd_other _ h hm f

theorem State.link_updLink {s : State} (h : Table.wf ({} : Link) s.links = true) (n : Nat) (f : Link → Link) :
    (s.updLink n f).link n = f (s.link n) := Table.get_upd_same _ h n f

theorem State.link_updLink_other {s : State} (h : Table.wf ({} : Link) s.links = true) {m n : Nat} (hm : m ≠ n) (f : Link → Link) :
    (s.updLink n f).link m = s.link m := Table.get_upd_other _ h hm f

theorem State.laser_updLaser {s : State} (h : Table.wf ({} : Laser) s.lasers = true) (n : Nat) (f : Laser → Laser) :
    (s.updLaser n f).laser n = f (s.laser n) := Table.get_upd_same _ h n f

theorem State.laser_updLaser_other {s : State} (h : Table.wf ({} : Laser) s.lasers = true) {m n : Nat} (hm : m ≠ n) (f : Laser → Laser) :
    (s.updLaser n f).laser m = s.laser m := Table.get_upd_other _ h hm f

theorem State.peer_updPeer {s : State} (h : Table.wf ({} : Peer) s.peers = true) (n : Nat) (f : Peer → Peer) :
    (s.updPeer n f).peer n = f (s.peer n) := Table.get_upd_same _ h n f

theorem State.peer_updPeer_other {s : State} (h : Table.wf ({} : Peer) s.peers = true) {m n : Nat} (hm : m ≠ n) (f : Peer → Peer) :
    (s.updPeer n f).peer m = s.peer m := Table.get_upd_other _ h hm f

theorem State.port_updPort {s : State} (h : Table.wf ({} : Port) s.ports = true) (n : Nat) (f : Port → Port) :
    (s.updPort n f).port n = f (s.port n) := Table.get_upd_same _ h n f

theorem State.port_updPort_other {s : State} (h : Table.wf ({} : Port) s.ports = true) {m n : Nat} (hm : m ≠ n) (f : Port → Port) :
    (s.updPort n f).port m = s.port m := Table.get_upd_other _ h hm f

theorem State.edge_updEdge {s : State} (h : Table.wf ({} : Edge) s.edges = true) (n : Nat) (f : Edge → Edge) :
    (s.updEdge n f).edge n = f (s.edge n) := Table.get_upd_same _ h n f

theorem State.edge_updEdge_other {s : State} (h : Table.wf ({} : Edge) s.edges = true) {m n : Nat} (hm : m ≠ n) (f : Edge → Edge) :
    (s.updEdge n f).edge m = s.edge m := Table.get_upd_other _ h hm f

theorem State.tpower_updTpower {s : State} (h : Table.wf ({} : TilePower) s.tilePower = true) (n : Nat) (f : TilePower → TilePower) :
    (s.updTpower n f).tpower n = f (s.tpower n) := Table.get_upd_same _ h n f

theorem State.tpower_updTpower_other {s : State} (h : Table.wf ({} : TilePower) s.tilePower = true) {m n : Nat} (hm : m ≠ n) (f : TilePower → TilePower) :
    (s.updTpower n f).tpower m = s.tpower m := Table.get_upd_other _ h hm f

theorem State.core_setCore {s : State} (h : Table.wf ({} : Core) s.cores = true) (t c : Nat) (k : Core) :
    (s.setCore t c k).core t c = k := Table.get_put_same _ h _ k

theorem State.core_setCore_other {s : State} (h : Table.wf ({} : Core) s.cores = true) {t c t' c' : Nat}
    (hm : 64 * t' + c' ≠ 64 * t + c) (k : Core) : (s.setCore t c k).core t' c' = s.core t' c' := Table.get_put_other _ h hm k

theorem State.core_updCore {s : State} (h : Table.wf ({} : Core) s.cores = true) (t c : Nat) (f : Core → Core) :
    (s.updCore t c f).core t c = f (s.core t c) := State.core_setCore h t c _

theorem State.ucore_updUcore {s : State} (h : Table.wf ({} : UCore) s.ucores = true) (t u : Nat) (f : UCore → UCore) :
    (s.updUcore t u f).ucore t u = f (s.ucore t u) := Table.get_upd_same _ h _ f

theorem State.ucore_updUcore_other {s : State} (h : Table.wf ({} : UCore) s.ucores = true) {t u t' u' : Nat}
    (hm : 8 * t' + u' ≠ 8 * t + u) (f : UCore → UCore) : (s.updUcore t u f).ucore t' u' = s.ucore t' u' :=
  Table.get_upd_other _ h hm f

theorem State.directPage_setDirect {s : State} (h : Table.wf (none : Option DirectPage) s.direct = true) (p : Nat)
    (d : Option DirectPage) : (s.setDirect p d).directPage p = d := Table.get_put_same _ h p d

/-- Two updates of one link are one update: the same holds of every table. -/
theorem State.updLink_updLink {s : State} (h : Table.wf ({} : Link) s.links = true) (k : Nat) (f g : Link → Link) :
    (s.updLink k f).updLink k g = s.updLink k (fun l => g (f l)) := by
  simp only [State.updLink, Table.upd_upd _ h]

end Sys2Proof.Machine
end

