-- ==== Sys2Proof/Laws/Ops.lean ====
section
/-! SUPPORT. What the shared operations can do, said once each: commands at work, words of a run, engine ops, test ports, and the
parts of the state that an operation can touch. -/

namespace Sys2Proof.Machine

/-! ### Commands at work -/

/-- A command at work finishes with the result of its effect. -/
theorem runCmd_running {id : CmdId} {op : Nat} {s : State} {e : Entry} (h : Running s id op e)
    (f : Entry → State → State × CmdResult) : runCmd id op s f = .next (finishWith id (f e s).2 (f e s).1) := by
  obtain ⟨h1, h2, h3⟩ := h
  simp only [runCmd, h1, h2, h3, beq_self_eq_true, Bool.and_self, if_true]

/-- A command's own command always answers a next state. -/
theorem runCmd_next (id : CmdId) (op : Nat) (s : State) (f : Entry → State → State × CmdResult) :
    ∃ t, runCmd id op s f = .next t := by
  simp only [runCmd]
  split
  · split <;> exact ⟨_, rfl⟩
  · exact ⟨_, rfl⟩

/-! ### Memory access of the engines -/

theorem readMem_ok {s : State} {a n : Nat} {bs : List Byte} (h : s.accessErr a n = none) (h2 : s.poisoned (s.localAddr a) n = false)
    (h3 : s.peek a n = bs) : s.readMem a n = .ok bs := by
  simp [State.readMem, h, h2, h3]

theorem readMem_error {s : State} {a n : Nat} {e : AccErr} (h : s.accessErr a n = some e) : s.readMem a n = .error e := by
  simp [State.readMem, h]

theorem readMem_uncorrectable {s : State} {a n : Nat} (h : s.accessErr a n = none) (h2 : s.poisoned (s.localAddr a) n = true) :
    s.readMem a n = .error .uncorrectable := by
  simp [State.readMem, h, h2]

/-- A write by an engine that nothing refuses places its bytes. -/
theorem writeMem_ok {s : State} {a : Nat} {bs : List Byte} (h : s.accessErr a bs.length = none) (h2 : s.poison = [])
    (h3 : s.strikes = []) : s.writeMem a bs = .ok (s.poke a bs) := by
  simp [State.writeMem, h, h2, h3]

/-! ### Words and ops of a run -/

theorem atWord_some {s : State} {t c op : Nat} {i : Inst} {e : Entry} {w : List Byte} (h : AtWord s t c op i e w) :
    s.atWord t c op = some ⟨s.core t c, i, e, w⟩ := by
  obtain ⟨h1, h2, h3, h4, h5, h6, h7⟩ := h
  simp [State.atWord, h1, h2, h3, h4, h5, h6, h7]

theorem tokenOk_of {k : Core} {i : Inst} {e : Entry} {w : List Byte}
    (h : wordWaitEn w = true → wordStep w = true ∨ i.taken = true) : Issue.tokenOk ⟨k, i, e, w⟩ = true := by
  simp only [Issue.tokenOk]
  cases h1 : wordWaitEn w <;> simp_all

/-- A word of the sequencer's own that nothing holds passes. -/
theorem progWord_pass {s : State} {t c op : Nat} {i : Inst} {e : Entry} {w : List Byte} (h : AtWord s t c op i e w)
    (hm : MayPass i w) (ok : Issue → Bool) (hok : ok ⟨s.core t c, i, e, w⟩ = true) (f : Inst → List Byte → Nat × List Loop) :
    progWord op t c s ok f = .next ((s.setCore t c { s.core t c with
      run := some { signalled i w with pc := (f i w).1, loops := (f i w).2, taken := false, holdSince := none } }).settleCore t c) := by
  have ho : wordOp w = op := h.opcode
  have ht := tokenOk_of (k := s.core t c) (e := e) hm.1
  have hf : (wordSigEn w && decide (65535 ≤ i.token (wordSig w))) = false := by
    cases h1 : wordSigEn w
    · rfl
    · have := hm.2 h1
      simp
      omega
  subst ho
  simp only [progWord, atWord_some h, ht, hok, hf, signalled]
  rfl

/-- Where no earlier op of its engine waits to start, a word issues. -/
theorem issueOrStart_issue {op : Nat} {m : OpImpl} {t c : Nat} {i : Inst} {e : Entry} {w : List Byte} {s : State}
    (h : AtWord s t c op i e w) (h1 : m.ready op (s.core t c) i e.image.words = none)
    (h2 : wordWaitEn w = true → wordStep w = true ∨ i.taken = true) (h3 : i.queued m.eng < 8) :
    issueOrStart op m t c s = .next ((tryStart op m t c (pushOp m t c ⟨s.core t c, i, e, w⟩ s)).settleCore t c) := by
  have ht := tokenOk_of (k := s.core t c) (e := e) h2
  have hw : s.wordsOf i = e.image.words := by simp [State.wordsOf, h.entry]
  simp [issueOrStart, h.run, hw, h1, atWord_some h, Issue.engineOk, ht, h3]

/-- An op whose turn has come starts, where its writes find room. -/
theorem issueOrStart_start {op : Nat} {m : OpImpl} {t c : Nat} {i : Inst} {e : Entry} {o : OpRec} {s : State} (h : Runs s t c i e)
    (hp : e.phase = .running) (h1 : m.ready op (s.core t c) i e.image.words = some o)
    (h2 : (startOp m t c (s.core t c) i e o s).overfull = false) :
    issueOrStart op m t c s = .next ((startOp m t c (s.core t c) i e o s).settleCore t c) := by
  have hw : s.wordsOf i = e.image.words := by simp [State.wordsOf, h.entry]
  simp [issueOrStart, h.run, hw, h1, tryStart, h.entry, h.state, hp, State.orWait, h2]

/-! ### What an operation can touch -/

/-- Time passes and nothing else changes. -/
theorem advanceTo_frame (m : Nat) (s : State) : ∃ c, advanceTo m s = { s with clk := c } := ⟨_, rfl⟩

/-- The Louvre check touches cores and tiles. -/
theorem louvreCheck_frame (s : State) (t c : Nat) : ∃ a b, s.louvreCheck t c = { s with cores := a, tiles := b } := by
  unfold State.louvreCheck
  dsimp only
  split
  · exact ⟨_, _, rfl⟩
  · split
    · split <;> exact ⟨_, _, rfl⟩
    · exact ⟨_, _, rfl⟩

/-- Noting what is held of a core's run touches cores. -/
theorem settleRun_frame (s : State) (t c : Nat) : ∃ a, s.settleRun t c = { s with cores := a } := by
  unfold State.settleRun
  dsimp only
  split
  · exact ⟨_, rfl⟩
  · split <;> exact ⟨_, rfl⟩

/-- What follows from a change of a core's run touches cores and tiles. -/
theorem settleCore_frame (s : State) (t c : Nat) : ∃ a b, s.settleCore t c = { s with cores := a, tiles := b } := by
  obtain ⟨a, ha⟩ := settleRun_frame s t c
  obtain ⟨b, d, hb⟩ := louvreCheck_frame (s.settleRun t c) t c
  exact ⟨b, d, by rw [State.settleCore, hb, ha]⟩

/-- The sequencer's own words touch cores and tiles. -/
theorem progWord_frame {op t c : Nat} {s u : State} {ok : Issue → Bool} {f : Inst → List Byte → Nat × List Loop}
    (h : progWord op t c s ok f = .next u) : u = { s with cores := u.cores, tiles := u.tiles } := by
  unfold progWord at h
  split at h
  · cases h; rfl
  · dsimp only at h
    split at h
    · simp only [Host.Outcome.next.injEq] at h
      subst h
      obtain ⟨a, b, hab⟩ := settleCore_frame (s.setCore t c _) t c
      rw [hab]
      rfl
    · cases h; rfl

/-- A fold over links touches links. -/
theorem foldl_links {β : Type} (g : State → β → State) (hg : ∀ u k, ∃ a, g u k = { u with links := a }) :
    ∀ (n : List β) (s : State), ∃ a, n.foldl g s = { s with links := a }
  | [], _ => ⟨_, rfl⟩
  | k :: n, s => by
    obtain ⟨a, ha⟩ := hg s k
    obtain ⟨b, hb⟩ := foldl_links g hg n (g s k)
    exact ⟨b, by rw [List.foldl_cons, hb, ha]⟩

/-- A message that leaves, or waits to, touches links and what has left. -/
theorem emit_frame (s : State) (k ch dst size : Nat) (bs : List Byte) :
    ∃ a b, s.emit k ch dst size bs = { s with links := a, outMsgs := b } := by
  unfold State.emit
  dsimp only
  split <;> exact ⟨_, _, rfl⟩

/-- A fold of messages that leave touches links and what has left. -/
theorem foldl_emits {β : Type} (g : State → β → State) (hg : ∀ u x, ∃ a b, g u x = { u with links := a, outMsgs := b }) :
    ∀ (n : List β) (s : State), ∃ a b, n.foldl g s = { s with links := a, outMsgs := b }
  | [], _ => ⟨_, _, rfl⟩
  | x :: n, s => by
    obtain ⟨a, b, ha⟩ := hg s x
    obtain ⟨c, d, hb⟩ := foldl_emits g hg n (g s x)
    exact ⟨c, d, by rw [List.foldl_cons, hb, ha]⟩

/-- The messages that wait for a link, as room comes, touch links and what has left. -/
theorem pumpLink_frame (s : State) (k : Nat) : ∃ a b, s.pumpLink k = { s with links := a, outMsgs := b } := by
  obtain ⟨a, b, h⟩ := foldl_emits (fun (s : State) (w : WaitMsg) => s.emit k w.chan w.dst w.size w.bytes)
    (fun u w => emit_frame u k w.chan w.dst w.size w.bytes) (s.link k).waiting (s.updLink k (fun l => { l with waiting := [] }))
  exact ⟨a, b, by rw [State.pumpLink, h]; rfl⟩

/-- Time messages on every link that is UP touch links and what has left. -/
theorem sendTime_frame (s : State) (k : Option Nat) (n : Nat) : ∃ a b, s.sendTime k n = { s with links := a, outMsgs := b } :=
  foldl_emits _ (fun u _ => emit_frame u _ _ _ _ _) _ s

/-- A fold over cores touches cores. -/
theorem foldl_cores {β : Type} (g : State → β → State) (hg : ∀ u k, ∃ a, g u k = { u with cores := a }) :
    ∀ (n : List β) (s : State), ∃ a, n.foldl g s = { s with cores := a }
  | [], _ => ⟨_, rfl⟩
  | k :: n, s => by
    obtain ⟨a, ha⟩ := hg s k
    obtain ⟨b, hb⟩ := foldl_cores g hg n (g s k)
    exact ⟨b, by rw [List.foldl_cons, hb, ha]⟩

/-- A tile's issue limit touches cores. -/
theorem applyLimit_frame (t : Nat) (s : State) : ∃ a, applyLimit t s = { s with cores := a } := by
  unfold applyLimit
  split
  · exact ⟨_, rfl⟩
  · apply foldl_cores
    intro u c
    dsimp only
    split <;> exact ⟨_, rfl⟩

/-- A TAP instruction touches the TAPs, and only where the TAP has power. -/
theorem tapDo_frame {d : Nat} {f : Tap → Tap} {s t : State} (h : tapDo d f s = .next t) : t = { s with taps := t.taps } := by
  unfold tapDo at h
  split at h <;> (cases h; rfl)

end Sys2Proof.Machine
end

