-- ==== Sys2Proof/WellFormed.lean ====
section
/-! DEFINITION. Which commands are well formed: every number that names a unit is in the range the spec gives that kind
of unit, and every access has a width the spec knows. -/

namespace Sys2Proof

/-- A context (02: 1,024 contexts). -/
def wfCtx (c : Nat) : Bool := decide (c < 1024)
/-- A ring (02: 16 rings). -/
def wfRing (r : Nat) : Bool := decide (r < 16)
/-- An in-flight command. -/
def wfId (i : CmdId) : Bool := wfCtx i.ctx && wfRing i.ring && decide (i.seq < 2 ^ 32)
/-- A tile (01 R18). -/
def wfTile (t : Nat) : Bool := decide (t < 8)
/-- A matrix core (01 R24). -/
def wfCore (t c : Nat) : Bool := wfTile t && decide (c < 64)
/-- An Ultur core (01 R24). -/
def wfUcore (t u : Nat) : Bool := wfTile t && decide (u < 8)
/-- A pseudo-channel of a stack (10). -/
def wfPc (n p : Nat) : Bool := wfTile n && decide (p < 64)
/-- A link (01 R21). -/
def wfLink (k : Nat) : Bool := decide (k < 32)
/-- A host port (01 R25). -/
def wfPort (p : Nat) : Bool := decide (p < 4)
/-- A hinge edge (13 R418). -/
def wfEdge (e : Nat) : Bool := decide (e < 14)
/-- A Shutter offset (03 R92: 256 MiB). -/
def wfOff (o : Nat) : Bool := decide (o < 2 ^ 28)
/-- A fabric address (12 R393). -/
def wfFabric (a : Nat) : Bool := decide (a < 0x7FFF)
/-- A physical address (03 R86: 56 bits). -/
def wfAddr (a : Nat) : Bool := decide (a < 2 ^ 56)
/-- An access width. -/
def wfWidth (w : Nat) : Bool := w == 1 || w == 2 || w == 4 || w == 8
/-- Kinds of access that a load makes and that a store makes; the atomic ones are of 4 or 8 bytes (log 33). -/
def wfLoad (w : Nat) : AccKind → Bool
  | .plain | .fetch | .vector => true
  | .lr => decide (4 ≤ w)
  | .sc | .amo _ => false
def wfStore (w : Nat) : AccKind → Bool
  | .plain | .vector => true
  | .sc | .amo _ => decide (4 ≤ w)
  | .fetch | .lr => false
/-- A management message (12 R397: 128 bytes). -/
def wfMsg (k : Nat) (m : List Byte) : Bool := wfLink k && decide (m.length = 128)

/-- A unit that can be charged. -/
def ChargedUnit.wf : ChargedUnit → Bool
  | .core t c => wfCore t c
  | .sill n => wfTile n
  | .edge e => wfEdge e
  | .link k => wfLink k

/-- A path fault. -/
def PathFault.wf (f : PathFault) : Bool := (f.staging || decide (1 ≤ f.wrong)) && f.units.all ChargedUnit.wf

/-- A self-test outcome: tests 0 to 10 (15 R476). -/
def TestResult.wf (r : TestResult) : Bool := decide (r.test ≤ 10) && wfTile r.tile && !(r.failed && r.notRun)

/-- What timed out. -/
def TimeoutOf.wf : TimeoutOf → Bool
  | .store t u _ => wfUcore t u
  | .row t c _ => wfCore t c
  | .accumulate _ => true
  | .command i g _ _ => wfId i && decide (g < 16)

/-- A received flit: 12-bit numbers and at most 512 message bytes (12 R383, R384). -/
def Flit.wf (f : Flit) : Bool := decide (f.seq < 4096) && decide (f.ack < 4096) && decide (f.bytes ≤ 512)

/-- A training: its capability words are of 16 bits (13 R423). -/
def Training.wf (t : Training) : Bool := decide (t.loc < 2 ^ 16) && decide (t.peer < 2 ^ 16)

/-- A start image's view: a row of the lane plan for each of the six widths (13 R422). -/
def ImageView.wf (v : ImageView) : Bool := decide (v.plan.length = 6)

/-- What the environment gives a start stage names every tile and every edge. -/
def StageEnv.wf (e : StageEnv) : Bool :=
  decide (e.tileFeats.length = 8) && decide (e.hinges.length = 14) && e.hinges.all Training.wf && e.found.all TestResult.wf

/-- A request of another package: a fabric address and a link. -/
def Origin.wf (o : Origin) : Bool := wfFabric o.pkg && wfLink o.link

/-- Payload and read request of a host request: at most 512 and 4,096 bytes (12 R409). -/
def Tlp.wf (q : Tlp) : Bool := decide (q.data.length ≤ 512) && decide (q.len ≤ 4096)

/-- A supply domain. -/
def Domain.wf : Domain → Bool
  | .tile n => wfTile n
  | .laser n => wfTile n
  | _ => true

/-- Well-formed commands. -/
def Instr.wf : Instr → Bool
  | .enable c | .disable c | .terminate c | .dbCqHeadWrite c _ | .dbCqArmWrite c _ => wfCtx c
  | .doorbell c r w _ => wfCtx c && wfRing r && wfWidth w
  | .slotReread c r | .descBlockReread c r | .progImageReread c r | .shardMapReread c r => wfCtx c && wfRing r
  | .releaseTime i | .commandFinish i | .tokenWaitTimeout i | .sysNop i | .sysTokenSet i | .sysReset i | .segSync i
  | .progRun i | .tierLayerSchedule i | .tierQuota i | .tierPin i
  | .tierUnpin i | .tierEvict i | .tierPrefetch i | .timeMark i | .timeSource i _ | .pwrLimit i | .pwrIdle i
  | .secAttest i | .secCert i => wfId i
  | .redAllgather r | .redAlltoall r | .redBarrier r => wfId r.id
  | .redAllreduce r fs | .redReduceScatter r fs => wfId r.id && fs.all PathFault.wf
  | .sysSelftest i rs => wfId i && rs.all TestResult.wf
  | .commandDispatch i t c | .instanceStart i _ t c => wfId i && wfCore t c
  | .instanceEnd t c | .tileOpComplete t c _ | .progTokenWaitSatisfied t c
  | .progTokenHoldTimeout t c | .tileStepWait t c _ | .progNop t c | .progLoop t c | .progEndloop t c | .progDrain t c
  | .movLoad t c | .movStore t c | .movCopy t c | .movLs t c | .movZero t c | .mxWload t c | .mxStream t c
  | .streamSwap t c | .vxEw t c | .vxFunc t c | .vxCmp t c | .vxSelect t c | .vxCvt t c | .vxReduce t c | .vxNorm t c
  | .vxSoftmax t c | .vxAttarSum t c | .vxAttarFrom t c | .vxAttarRound t c | .gaGather t c | .gaBag t c
  | .gaScatterAdd t c | .gaScatter t c | .rowArrival t c _ | .runAheadRead t c _ | .paneCheckFault t c
  | .issueLimitStep t c | .coreCold t c => wfCore t c
  | .keepWarmGap t c n => wfCore t c && decide (n ≤ 256)
  | .louvreSlot t | .currentGuardTrip t | .currentGuardEnd t => wfTile t
  | .thermalRead t _ _ => decide (t < 10)
  | .packetFetch | .selftestDrainTimeout | .heatDecay | .tierScan | .ref10mLoss | .ppsMissing | .ptpSyncLoss
  | .ptpAnnounce | .holdoverExpire | .timEpochWrite _ | .ppsOutPulse | .powerSecond | .startStageTimeout | .startRetry
  | .watchdog | .clear | .restart | .fwUpdateDone _ | .commit | .mrExtend _ | .fltHeadWrite _
  | .ppsEdge _ | .pkgReset _ _ => true
  | .startStage e => e.wf
  | .fwUpdateStart v => v.wf
  | .preemptRelease t k => wfCore t k.core
  | .accumulateApply k => decide (k.errs ≤ 72)
  | .stewardRestart cs => cs.all wfCtx
  | .registerWrite _ o w _ => wfOff o && (w == 4 || w == 8)
  | .registerReadClear _ o w => wfOff o && (w == 1 || w == 2 || w == 4 || w == 8)
  | .shutterNarrowStore o w _ => wfOff o && (w == 1 || w == 2) && o % w == 0
  | .remoteGatherRequest o d n => o.wf && decide (d < 2 ^ 40) && decide (1 ≤ n)
  | .unitFence u => u.wf
  | .migrationCopy p | .migrationFreeze p | .directPageRelease p => decide (p < 2 ^ 40)
  | .staleEpochForward a e d => wfAddr a && decide (e < 256) && decide (d.length ≤ 64)
  | .hbmTempRead n _ => wfTile n
  | .mapoutGranuleStep n => wfTile n.stack
  | .hbmReadServe n p e => wfPc n p && decide (e ≤ 72)
  | .readAgePromote n p | .recalibration n p _ | .recalibrationDone n p _ | .degradingErrorRate n p => wfPc n p
  | .writeQueueEnter a d => wfAddr a && decide (1 ≤ d.length) && decide (d.length ≤ 64)
  | .scrubRead a e => (decide (a < 196608 * 2 ^ 21) || (decide (2 ^ 40 ≤ a) && decide (a < 2 ^ 40 + 2 ^ 34))) && decide (e ≤ 72)
  | .granuleMove g => decide (g < 196608)
  | .hostLoad t u a w k => wfUcore t u && wfAddr a && wfWidth w && wfLoad w k.kind && decide (k.errs ≤ 72)
  | .hostStore t u a w k _ => wfUcore t u && wfAddr a && wfWidth w && wfStore w k.kind
  | .storeDrain t u | .fence t u _ _ | .uberrInfoWrite t u _ | .ulturMachineCheck t u => wfUcore t u
  | .writeAck t u k => wfUcore t u && decide (k < 16)
  | .completionTimeout w => w.wf
  | .flitReceive k f => wfLink k && f.wf
  | .nakReceive k q => wfLink k && decide (q < 4096)
  | .linkSilenceTimeout k | .linkTrainingRetry k _ | .linkTrainingDone k _ | .linkRetrain k | .linkEnable k _
  | .ptpSync k _ => wfLink k
  | .wavelengthFailure k f => wfLink k && decide (f.wave < 9)
  | .laserDrain n _ | .laserDrained n | .laserModuleRemove n => wfTile n
  | .laserModuleInsert n m => wfTile n && decide (m < 512)
  | .messageForward m => decide (m.src < 2 ^ 15) && decide (m.dst < 2 ^ 15) && wfLink m.arrival
  | .remoteRequest o _ _ => o.wf
  | .gangSend r => decide (r ≤ 6)
  | .assign k m | .unassign k m | .route k m | .form k m | .formEnd k m | .join k m | .leave k m | .dissolve k m
  | .query k m | .reply k m | .down k m | .ready k m => wfMsg k m
  | .leaveEffect l p => (l == 1 || l == 2 || l == 3) && wfFabric p
  | .ptmDialogue p _ | .hostLinkLossTimeout p | .pcieEvtWrite p _ => wfPort p
  | .hostDown h => wfPort h.port
  | .hostTlp p q => wfPort p && q.wf
  | .pcieLinkUp p sp w _ => wfPort p && decide (1 ≤ sp) && decide (sp ≤ 6) && (w == 4 || w == 8 || w == 16)
  | .vfFlr p v => wfPort p && decide (v < 16)
  | .laneFailure e d _ => wfEdge e && decide (d < 2)
  | .hingeRetrain e t => wfEdge e && t.wf
  | .hingeCtrlRetrain x => wfEdge x.edge && x.training.wf
  | .hingeRetrainDone e => wfEdge e
  | .powerMeasure bs => decide (bs.length = 10)
  | .powerControl m => decide (m.length = 64)
  | .pwrBmcCapWrite _ o _ => wfOff o
  | .domainPowerGood d | .domainLost d => d.wf
  | .i3cPrivateWrite _ _ _ | .i3cPrivateRead _ | .entdaa _ | .setdasa _ _ | .setnewda _ _ => true
  | .bypass d | .idcode d | .samplePreload d _ _ | .extest d | .extestPulse d | .extestTrain d => decide (d < 2)

end Sys2Proof
end

