-- ==== Sys2Proof/Tests/Slice0.lean ====
section
/-! SUPPORT. Small tests. A theorem `witness_<obligation>` shows states and operands that meet the hypotheses of that
obligation's clauses; a `test_` runs one command whose outcome the spec gives; a `smoke_` shows ill-formed commands that the
well-formedness check refuses. -/

namespace Sys2Proof.Tests
open Sys2Proof Sys2Proof.Machine
set_option Elab.async false

/-! ### Small states -/

/-- The state that a command answers. -/
def after (i : Instr) (s : State) : State :=
  match exec i s with
  | .next t => t
  | _ => s

theorem next_of {i : Instr} {s : State} (h : (match exec i s with | .next _ => true | _ => false) = true) : ∃ t, exec i s = .next t := by
  cases hx : exec i s with
  | next t => exact ⟨t, rfl⟩
  | fault f => simp [hx] at h
  | refused r => simp [hx] at h

/-- The canonical form, as a check. -/
def canonical (s : State) : Bool :=
  Memory.wf s.mem && Memory.wf s.stale && Table.wf ({} : Ctx) s.ctxs && Table.wf 0 s.privs && Table.wf 0 s.gens &&
  Table.wf ({} : Core) s.cores && Table.wf ({} : Tile) s.tiles && Table.wf ({} : TierPage) s.pages &&
  Table.wf (none : Option DirectPage) s.direct && Table.wf ({} : Sill) s.sills && Table.wf ({} : Stack) s.hbm &&
  Table.wf ({} : UCore) s.ucores && Table.wf ({} : Link) s.links && Table.wf ({} : Laser) s.lasers &&
  Table.wf ({} : Peer) s.peers && Table.wf ({} : Port) s.ports && Table.wf ({} : Edge) s.edges &&
  Table.wf ({} : TilePower) s.tilePower && Table.wf 0 s.strikes && decide (s.start.mrs.length = 8)

theorem canonical_of {s : State} (h : canonical s = true) : s.Canonical := by
  simp only [canonical, Bool.and_eq_true, decide_eq_true_eq, and_assoc] at h
  obtain ⟨h1, h2, h3, h4, h5, h6, h7, h8, h9, h10, h11, h12, h13, h14, h15, h16, h17, h18, h19, h20⟩ := h
  exact ⟨h1, h2, h3, h4, h5, h6, h7, h8, h9, h10, h11, h12, h13, h14, h15, h16, h17, h18, h19, h20⟩

/-- A package in service, with 16 MiB of home memory and tile 0 with its sill, cores 0 and 1 and Ultur core 0. -/
def ready : State :=
  let s := State.reset
  let s := { s with start := { s.start with phase := .ready }, home := { s.home with granules := 8 } }
  let s := s.updTile 0 (fun t => { t with inService := true, memory := true })
  let s := (s.updCore 0 0 (fun k => { k with inService := true })).updCore 0 1 (fun k => { k with inService := true, phys := 1 })
  (s.updUcore 0 0 (fun u => { u with inService := true })).updStack 0 (fun k => { k with inService := true })

/-- A 64-byte packet: an opcode and a list of fields (first byte, value). -/
def pktOf (op : Nat) (fs : List (Nat × Nat)) : List Byte := bytesOfNat 64 (op + (fs.map (fun f => f.2 * 2 ^ (8 * f.1))).sum)

/-- A program word: an op and a list of fields (first bit, value). -/
def wordOf (op : Nat) (fs : List (Nat × Nat)) : List Byte := bytesOfNat 16 (op + (fs.map (fun f => f.2 * 2 ^ f.1)).sum)

/-- A context of the package scope, with `es` in flight. -/
def ctxWith (es : List Entry) : Ctx := { phase := .enabled, desc := { kind := 3, cqLog2 := 9, waitMs := 5 }, entries := es }

/-- Command 0 of ring 0 of context 0. -/
def cmd0 : CmdId := ⟨0, 0, 0⟩

/-- A dispatched command. -/
def going (op : Nat) (fs : List (Nat × Nat)) : Entry := { pkt := pktOf op fs, phase := .running, readyAt := some 0, waitDone := some 0 }

/-- The package with that command at work. -/
def atWork (op : Nat) (fs : List (Nat × Nat)) : State := ready.setCtx 0 (ctxWith [going op fs])

theorem atWork_running (op : Nat) (fs : List (Nat × Nat)) (h : fieldOf (pktOf op fs) 0 2 = op) :
    Running (atWork op fs) cmd0 op (going op fs) := ⟨rfl, rfl, h⟩

/-! ### The block and its commands -/

theorem test_front_command : step { State.reset with pending := [.clear] } = exec .clear State.reset := rfl

theorem witness_StepRunsFrontCommand : ({ State.reset with pending := [.clear, .restart] } : State).pending = [.clear, .restart] := rfl

/-- At 1.3 GHz thirteen cycles are ten nanoseconds. -/
theorem test_idle_cycle : step State.reset = .next { State.reset with clk := { ac := 1, now := 0, sub := 10, slew := 0 } } := by
  rfl

theorem witness_IdleStepIsOneCycle : State.reset.pending = [] ∧ State.reset.clk.slew = 0 ∧ State.reset.clk.sub < 13 ∧
    State.reset.clk.now + 1 < 2 ^ 64 := by decide +kernel

theorem witness_CommandsKeepQueueAndVariant : exec .clear State.reset = .next { State.reset with start := { State.reset.start with cleared := true } } := rfl

theorem witness_StepKeepsCanonicalForm : ({ State.reset with pending := [.clear] } : State).Canonical ∧
    step { State.reset with pending := [.clear] } = .next { State.reset with start := { State.reset.start with cleared := true } } :=
  ⟨canonical_of (by decide +kernel), rfl⟩

theorem test_ready_canonical : canonical ready = true := by decide +kernel

/-! ### Contexts (chapter 02) -/

/-- A context descriptor for the package scope: completion ring of 512 at 0x1000, ring 0 of 64 at 0x8000, host table at 0x200,
mirror in direct page 0, fault records at 0x400. -/
def descBytes : List Byte := bytesOfNat 1024
  (0x0100 + 3 * 2 ^ 16 + 9 * 2 ^ 32 + 0x1000 * 2 ^ 64 + 5 * 2 ^ 128 + 0x200 * 2 ^ 512 + 0x10000000000 * 2 ^ 576 + 0x400 * 2 ^ 640
    + 0x8000 * 2 ^ 2048 + (6 + 256) * 2 ^ 2112)

/-- The package with that descriptor for context 0 at 1 MiB. -/
def withDesc : State := { ready with mem := Memory.write [] 0x100000 descBytes, ctxTable := 0x100001 }

theorem witness_ContextControlCompletes_enable : ctxCmdIgnored withDesc = false ∧ withDesc.start.phase = .ready ∧
    enableResult withDesc 0 = none ∧
    (claimMirror 0 (CtxDesc.parse (withDesc.peek (bits withDesc.ctxTable 55 20 * 2 ^ 20 + 1024 * 0) 1024)) withDesc).isSome = true := by
  decide +kernel

theorem witness_ContextControlCompletes_refused : ctxCmdIgnored ready = false ∧ ready.start.phase = .ready ∧
    enableResult ready 1023 = some 3 := by decide +kernel

theorem witness_ContextControlCompletes_disable : ctxCmdIgnored (atWork 0 []) = false ∧ ((atWork 0 []).ctx 0).phase = .enabled := by
  decide +kernel

theorem witness_TerminateDiscards : canonical (atWork 0 []) = true ∧ ctxCmdIgnored (atWork 0 []) = false ∧
    ((atWork 0 []).ctx 0).phase ≠ .disabled ∧ (∃ t, exec (.terminate 0) (atWork 0 []) = .next t) := by
  refine ⟨by decide +kernel, by decide +kernel, by decide +kernel, _, rfl⟩

/-- ENABLE takes the completion ring and the rings from the descriptor (02 R31). -/
theorem test_enable_descriptor : (((after (.enable 0) withDesc).ctx 0).phase, ((after (.enable 0) withDesc).ctx 0).desc.cqBase,
    (((after (.enable 0) withDesc).ctx 0).ring 0).log2, (after (.enable 0) withDesc).ctxStat % 2 ^ 10) = (.enabled, 0x1000, 6, 0) := by decide +kernel

/-- The package with context 0 enabled and ring `r` of 64 slots, with `g`. -/
def withRing (r : Nat) (g : Ring) : State := ready.setCtx 0 { ctxWith [] with rings := (List.replicate 16 {}).set r g }

theorem witness_DoorbellsComplete : ∀ r ∈ [0, 15],
    ((withRing r { en := true, log2 := 6 }).ctx 0).phase = .enabled ∧ (((withRing r { en := true, log2 := 6 }).ctx 0).ring r).en = true ∧
    ((64 : Word).setWidth 32 - (((withRing r { en := true, log2 := 6 }).ctx 0).ring r).head).toNat ≤ 2 ^ 6 ∧
    2 ^ 6 < ((65 : Word).setWidth 32 - (((withRing r { en := true, log2 := 6 }).ctx 0).ring r).head).toNat := by decide +kernel

/-- A completion ring with one record that software has not consumed. -/
def withRecord : State := ready.setCtx 0 { ctxWith [] with cqTail := 1 }

theorem witness_DoorbellsComplete_head :
    ((1 : Word).setWidth 32 - (withRecord.ctx 0).cqHead).toNat ≤ ((withRecord.ctx 0).cqTail - (withRecord.ctx 0).cqHead).toNat ∧
    ((withRecord.ctx 0).cqTail - (withRecord.ctx 0).cqHead).toNat < ((2 : Word).setWidth 32 - (withRecord.ctx 0).cqHead).toNat := by
  decide +kernel

/-- A tail at the ring's size past the head is in range, one further is not (02 R43, R44). -/
theorem test_doorbell_range : (match exec (.doorbell 0 0 4 64) (withRing 0 { en := true, log2 := 6 }),
      exec (.doorbell 0 0 4 65) (withRing 0 { en := true, log2 := 6 }) with
    | .next a, .next b => (((a.ctx 0).ring 0).tail.toNat, ((b.ctx 0).ring 0).tail.toNat, (b.ctx 0).event)
    | _, _ => (0, 0, 0)) = (64, 0, 2 ^ 16) := by decide +kernel

/-- A slot at 0x8000 that waits to be read. -/
def withSlot (f : FetchState) : State := withRing 0 { en := true, log2 := 6, base := 0x8000, tail := 1, fetch := f }

theorem witness_FetchingCompletes : (withSlot .ready).window < 4096 ∧ (withSlot .ready).turn = some (0, 0) ∧
    (((withSlot (.slot 8)).ctx 0).ring 0).fetch = .slot 8 ∧ mayReread (withSlot (.slot 8)) 0 = true ∧
    (((withSlot (.reread .desc 0 [] [] [])).ctx 0).ring 0).fetch = .reread .desc 0 [] [] [] ∧
    mayReread (withSlot (.reread .desc 0 [] [] [])) 0 = true ∧
    (((withSlot (.reread .image 0 [] [] [])).ctx 0).ring 0).fetch = .reread .image 0 [] [] [] ∧
    mayReread (withSlot (.reread .image 0 [] [] [])) 0 = true ∧
    (((withSlot (.reread .shardMap 0 [] [] [])).ctx 0).ring 0).fetch = .reread .shardMap 0 [] [] [] ∧
    mayReread (withSlot (.reread .shardMap 0 [] [] [])) 0 = true := by decide +kernel

/-- A SYS_NOP of sequence 0 with the phase and CRC-32C that its slot needs (02 R33, R34). -/
def nopPkt : List Byte := let b := (pktOf 0 [(0x0A, 1)]).take 60
  b ++ bytesOfNat 4 (crc32c b)

theorem witness_SlotService : (withSlot .ready).readMem (slotAddr (((withSlot .ready).ctx 0).ring 0)) 64 = .ok (List.replicate 64 0) ∧
    slotValid (((withSlot .ready).ctx 0).ring 0) (List.replicate 64 0) = false ∧
    { withSlot .ready with mem := Memory.write [] 0x8000 nopPkt }.readMem 0x8000 64 = .ok nopPkt ∧
    slotValid (((withSlot .ready).ctx 0).ring 0) nopPkt = true ∧
    { withSlot .ready with home := {} }.readMem (slotAddr (((withSlot .ready).ctx 0).ring 0)) 64 = .error .refused :=
  ⟨readMem_ok (by decide +kernel) (by decide +kernel) (by decide +kernel), by decide +kernel,
   readMem_ok (by decide +kernel) (by decide +kernel) (by decide +kernel), by decide +kernel, readMem_error (by decide +kernel)⟩

/-- A valid packet is accepted and the head moves (02 R46, R49). -/
theorem test_fetch_accepts : (match exec .packetFetch { withSlot .ready with mem := Memory.write [] 0x8000 nopPkt } with
    | .next t => (((t.ctx 0).ring 0).head.toNat, (t.ctx 0).entries.length, t.accepted)
    | _ => (0, 0, 0)) = (1, 1, 1) := by decide +kernel

/-- A waiting command. -/
def waiting (op : Nat) (fs : List (Nat × Nat)) : Entry := { pkt := pktOf op fs }

/-- The package with one command in flight. -/
def holding (e : Entry) : State := ready.setCtx 0 (ctxWith [e])

theorem witness_CommandLifeCompletes_release : (holding { waiting 0 [] with released := false }).entry? cmd0 = some { waiting 0 [] with released := false } ∧
    (waiting 0 []).phase = .waiting := by decide +kernel

theorem witness_CommandLifeCompletes_dispatch :
    (holding { waiting 0 [] with readyAt := some 0 }).entry? cmd0 = some { waiting 0 [] with readyAt := some 0 } ∧
    outranked (holding { waiting 0 [] with readyAt := some 0 }) 0 { waiting 0 [] with readyAt := some 0 } = false ∧ (waiting 0 []).isTileWork = false ∧
    tensorBusy ((holding { waiting 0 [] with readyAt := some 0 }).ctx 0) { waiting 0 [] with readyAt := some 0 } = false ∧
    (waiting 0x2001 []).isTileWork = true ∧
    outranked (holding { waiting 0x2001 [] with readyAt := some 0 }) 0 { waiting 0x2001 [] with readyAt := some 0 } = false ∧
    tensorBusy ((holding { waiting 0x2001 [] with readyAt := some 0 }).ctx 0) { waiting 0x2001 [] with readyAt := some 0 } = false := by
  decide +kernel

theorem witness_CommandLifeCompletes_timeout : (holding (waiting 0 [(0x0A, 0x40), (0x14, 1)])).entry? cmd0 = some (waiting 0 [(0x0A, 0x40), (0x14, 1)]) ∧
    (waiting 0 [(0x0A, 0x40), (0x14, 1)]).waitEn = true ∧ (waiting 0 [(0x0A, 0x40), (0x14, 1)]).waitDone = none ∧
    ((holding (waiting 0 [(0x0A, 0x40), (0x14, 1)])).ctx 0).desc.waitMs ≠ 0 := by decide +kernel

/-- A command that has finished with S_OK. -/
def finished (op : Nat) (fs : List (Nat × Nat)) : Entry := { pkt := pktOf op fs, phase := .finished (.of sOk) }

theorem witness_CommandLifeCompletes_finish : (holding (finished 0 [])).entry? cmd0 = some (finished 0 []) ∧ (finished 0 []).opcode ≠ 0x0401 ∧
    (holding (finished 0 [])).accsOf cmd0 = false ∧ (holding (finished 0 [])).readsOfCmd cmd0 = false ∧ ((holding (finished 0 [])).ctx 0).held = [] ∧ ((holding (finished 0 [])).ctx 0).cqRoom = true ∧
    ((ready.setCtx 0 { ctxWith [finished 0 []] with cqTail := 512 }).ctx 0).cqRoom = false ∧
    ((ready.setCtx 0 { ctxWith [finished 0 []] with cqTail := 512 }).ctx 0).cqLost = false ∧ (finished 0 []).quiet = false := by decide +kernel

/-- A finished command leaves its context with its record written (02 R64, R67). -/
theorem test_finish_record : (match exec (.commandFinish cmd0) (holding (finished 0 [])) with
    | .next t => ((t.ctx 0).entries.length, (t.ctx 0).cqTail.toNat)
    | _ => (9, 0)) = (0, 1) := by decide +kernel
/-! ### Commands that the stewards run -/

theorem ok_of {ε α : Type} {x : Except ε α} (h : (match x with | .ok _ => true | .error _ => false) = true) : ∃ a, x = .ok a := by
  cases x with
  | ok a => exact ⟨a, rfl⟩
  | error e => cases h

theorem error_of {ε α : Type} {x : Except ε α} (h : (match x with | .ok _ => true | .error _ => false) = false) : ∃ e, x = .error e := by
  cases x with
  | ok a => cases h
  | error e => exact ⟨e, rfl⟩

theorem witness_BarrierAndCollectivesFinish : Running (atWork 0x0000 []) cmd0 0x0000 (going 0x0000 []) ∧
    Running (atWork 0x2401 []) cmd0 0x2401 (going 0x2401 []) ∧ Running (atWork 0x1805 []) cmd0 0x1805 (going 0x1805 []) ∧
    ((atWork 0x1805 []).ctx 0).entries.any (fun f => decide (f.order < (going 0x1805 []).order)) = false ∧
    Running (atWork 0x1801 []) cmd0 0x1801 (going 0x1801 []) ∧ Running (atWork 0x1802 []) cmd0 0x1802 (going 0x1802 []) ∧
    Running (atWork 0x1803 []) cmd0 0x1803 (going 0x1803 []) ∧ Running (atWork 0x1804 []) cmd0 0x1804 (going 0x1804 []) ∧
    RedRun.err { s := atWork 0x1804 [], id := cmd0, e := going 0x1804 [] } = none ∧
    RedRun.lastUse { s := atWork 0x1804 [], id := cmd0, e := going 0x1804 [] } = [] := by
  refine ⟨?_, ?_, ?_, by decide +kernel, ?_, ?_, ?_, ?_, rfl, rfl⟩ <;> exact atWork_running _ _ (by decide +kernel)

theorem witness_FinishHoldsResult : (atWork 0 []).Canonical ∧ (atWork 0 []).entry? cmd0 = some (going 0 []) ∧ (going 0 []).isFinished = false :=
  ⟨canonical_of (by decide +kernel), rfl, rfl⟩

/-- Context 0 with its mirror in direct page 0 and a command at work. -/
def syncing : State := ready.setCtx 0 { ctxWith [going 0x0401 [(0x20, 7)]] with desc := { kind := 3, segHost := 0x200, segMirror := 0x10000000000 } }

theorem witness_TokenSegAndProgramCommandsFinish : Running (atWork 0x0002 [(0x20, 65535), (0x24, 3)]) cmd0 0x0002 (going 0x0002 [(0x20, 65535), (0x24, 3)]) ∧
    stillSignals ((atWork 0x0002 [(0x20, 65535), (0x24, 3)]).ctx 0) (going 0x0002 [(0x20, 65535), (0x24, 3)]) 65535 = false ∧
    Running syncing cmd0 0x0401 (going 0x0401 [(0x20, 7)]) ∧
    (∀ f ∈ (syncing.ctx 0).entries, f.order = (going 0x0401 [(0x20, 7)]).order) ∧
    (∃ r, checkTables syncing (syncing.ctx 0) false = .ok r) ∧
    (∃ r, checkTables { syncing with home := {} } (syncing.ctx 0) false = .error r) ∧
    Running (atWork 0x2001 []) cmd0 0x2001 (going 0x2001 []) ∧ (going 0x2001 []).failure = none ∧
    (going 0x2001 []).ended = (going 0x2001 []).instances :=
  ⟨atWork_running _ _ (by decide +kernel), by decide +kernel, ⟨rfl, rfl, by decide +kernel⟩, by decide +kernel, ok_of (by decide +kernel),
   error_of (by decide +kernel), atWork_running _ _ (by decide +kernel), rfl, by decide +kernel⟩

/-- A PROG_RUN one of whose runs failed, with every started run ended. -/
theorem witness_TokenSegAndProgramCommandsFinish_failed :
    Running (holding { going 0x2001 [] with failure := some ⟨0, 0, sTimeout, 0⟩ }) cmd0 0x2001 { going 0x2001 [] with failure := some ⟨0, 0, sTimeout, 0⟩ } ∧
    (going 0x2001 []).started.length = (going 0x2001 []).ended := ⟨⟨rfl, rfl, by decide +kernel⟩, by decide +kernel⟩

/-- SYS_TOKEN_SET writes COUNT (02 R59). -/
theorem test_token_set : (Table.get {} ((after (.sysTokenSet cmd0) (atWork 0x0002 [(0x20, 65535), (0x24, 3)])).ctx 0).tokens 65535).count = 3 := by
  decide +kernel

/-- A region of `n` bytes at offset 0 of segment 0. -/
def region (n : Nat) : List Byte := bytesOfNat 60 (n * 2 ^ 128)

/-- A tier command on such a region; segment 0 is 4 MiB of home memory, or the first 2 MiB of the Sill direct window. -/
def tierCmd (op n : Nat) (home : Bool) (fs : List (Nat × Nat)) : Entry :=
  { going op fs with descs := [region n], segs := [if home then ⟨1, 0x400000, 0, 0⟩ else ⟨0x10000000011, 0x10000200000, 0, 0⟩] }

/-- The package with the sills of all tiles. -/
def sills : State := (upTo 8).foldl (fun s n => s.updTile n (fun t => { t with memory := true })) ready

/-- The package with a tier command at work in a context of quota 4. -/
def tierWork (op n : Nat) (home : Bool) (fs : List (Nat × Nat)) : State :=
  sills.setCtx 0 { ctxWith [tierCmd op n home fs] with quota := 4, segs := (tierCmd op n home fs).segs }

theorem tierWork_running (op n : Nat) (home : Bool) (fs : List (Nat × Nat)) (h : fieldOf (pktOf op fs) 0 2 = op) :
    Running (tierWork op n home fs) cmd0 op (tierCmd op n home fs) := ⟨rfl, rfl, h⟩

theorem witness_TierCommandsFinish : Running (tierWork 0x1C01 65536 true []) cmd0 0x1C01 (tierCmd 0x1C01 65536 true []) ∧
    ¬((regionsOf (tierCmd 0x1C01 65536 true []).descs).length = 1 ∧
      ((regionsOf (tierCmd 0x1C01 65536 true []).descs).headD (Region9.parse [])).bytes = 0) ∧
    Running (tierWork 0x1C01 0 true []) cmd0 0x1C01 (tierCmd 0x1C01 0 true []) ∧
    (regionsOf (tierCmd 0x1C01 0 true []).descs).length = 1 ∧ (Region9.parse (region 0)).bytes = 0 ∧
    Running (tierWork 0x1C02 0 true [(0x28, 65536)]) cmd0 0x1C02 (tierCmd 0x1C02 0 true [(0x28, 65536)]) :=
  ⟨tierWork_running _ _ _ _ (by decide +kernel), by decide +kernel, tierWork_running _ _ _ _ (by decide +kernel), by decide +kernel, by decide +kernel,
   tierWork_running _ _ _ _ (by decide +kernel)⟩

/-- A command is at work, as a check. -/
def runningB (s : State) (id : CmdId) (op : Nat) : Bool :=
  match s.entry? id with
  | some e => e.phase == .running && e.opcode == op
  | none => false

theorem running_of {s : State} {id : CmdId} {op : Nat} (h : runningB s id op = true) : ∃ e, Running s id op e := by
  simp only [runningB] at h
  split at h
  · rename_i e he
    simp only [Bool.and_eq_true, beq_iff_eq] at h
    exact ⟨e, he, h.1, h.2⟩
  · cases h

/-- The state after a TIER_PIN has placed its pages, and after it has claimed them. -/
def pinned (n : Nat) : State := ((tierCmd 0x1C03 n true []).homeRegion (tierWork 0x1C03 n true [])).foldl (State.pinPage 0) (tierWork 0x1C03 n true [])
def claimed (n : Nat) : State := (tierCmd 0x1C03 n false []).directRegion.foldl (State.claimPage 0) (tierWork 0x1C03 n false [])

theorem witness_TierCommandsFinish_pin : (tierCmd 0x1C03 65536 true []).regionHome = true ∧
    Running (tierWork 0x1C03 65536 true []) cmd0 0x1C03 (tierCmd 0x1C03 65536 true []) ∧
    (∃ f, Running (pinned 65536) cmd0 0x1C03 f) ∧
    (tierCmd 0x1C03 65536 true []).homeRegion (tierWork 0x1C03 65536 true []) = [0] ∧ ((pinned 65536).page 0).pin.isSome = true ∧
    (∃ f, Running (State.pinPage 0 (ready.setCtx 0 (ctxWith [tierCmd 0x1C03 65536 true []])) 0) cmd0 0x1C03 f) ∧
    ((State.pinPage 0 (ready.setCtx 0 (ctxWith [tierCmd 0x1C03 65536 true []])) 0).page 0).pin = none :=
  ⟨by decide +kernel, tierWork_running _ _ _ _ (by decide +kernel), running_of (by decide +kernel), by decide +kernel, by decide +kernel,
   running_of (by decide +kernel), by decide +kernel⟩

theorem witness_TierCommandsFinish_claim : (tierCmd 0x1C03 65536 false []).regionHome = false ∧
    Running (tierWork 0x1C03 65536 false []) cmd0 0x1C03 (tierCmd 0x1C03 65536 false []) ∧ (∃ f, Running (claimed 65536) cmd0 0x1C03 f) ∧
    (tierCmd 0x1C03 65536 false []).directRegion = [0] ∧
    ((claimed 65536).directPage 0).any (fun d => d.claim == .ctx 0 && !d.releasing) = true ∧
    (∃ f, Running ((tierCmd 0x1C03 65536 false []).directRegion.foldl (State.claimPage 0)
      (ready.setCtx 0 (ctxWith [tierCmd 0x1C03 65536 false []]) |>.updTile 0 (fun t => { t with memory := false }))) cmd0 0x1C03 f) ∧
    ((tierCmd 0x1C03 65536 false []).directRegion.foldl (State.claimPage 0)
      (ready.setCtx 0 (ctxWith [tierCmd 0x1C03 65536 false []]) |>.updTile 0 (fun t => { t with memory := false }))).directPage 0 = none :=
  ⟨by decide +kernel, tierWork_running _ _ _ _ (by decide +kernel), running_of (by decide +kernel), by decide +kernel, by decide +kernel,
   running_of (by decide +kernel), by decide +kernel⟩

theorem witness_TierCommandsFinish_rest : Running (tierWork 0x1C04 65536 true []) cmd0 0x1C04 (tierCmd 0x1C04 65536 true []) ∧
    (tierCmd 0x1C04 65536 true []).regionHome = true ∧ Running (tierWork 0x1C04 65536 false []) cmd0 0x1C04 (tierCmd 0x1C04 65536 false []) ∧
    (tierCmd 0x1C04 65536 false []).regionHome = false ∧ Running (tierWork 0x1C05 65536 true []) cmd0 0x1C05 (tierCmd 0x1C05 65536 true []) ∧
    Running (tierWork 0x1C06 65536 true []) cmd0 0x1C06 (tierCmd 0x1C06 65536 true []) ∧
    ((tierCmd 0x1C06 65536 true []).seg (tierCmd 0x1C06 65536 true []).region.seg).policy ≠ 1 ∧
    (({ tierCmd 0x1C06 65536 true [] with segs := [⟨0x101, 0x400000, 0, 0⟩] }).seg (tierCmd 0x1C06 65536 true []).region.seg).policy = 1 := by
  refine ⟨tierWork_running _ _ _ _ ?_, ?_, tierWork_running _ _ _ _ ?_, ?_, tierWork_running _ _ _ _ ?_, tierWork_running _ _ _ _ ?_, ?_, ?_⟩ <;>
    decide +kernel

/-- A TIER_PIN of one page reports one page (09 R306). -/
theorem test_tier_pin : ((after (.tierPin cmd0) (tierWork 0x1C03 65536 true [])).entry? cmd0).map (fun e => e.phase) = some (.finished ⟨sOk, 0, 1, 0⟩) := by
  decide +kernel

/-- The same command at work in a context of kind 4, a gang of level 1. -/
def inGang (op : Nat) (fs : List (Nat × Nat)) : State :=
  ready.setCtx 0 { ctxWith [going op fs] with desc := { kind := 4, index := 1 } }

theorem witness_PowerTimeSecurityCommandsFinish :
    Running (atWork 0x2801 [(0x20, 2000), (0x24, 2)]) cmd0 0x2801 (going 0x2801 [(0x20, 2000), (0x24, 2)]) ∧
    ((atWork 0x2801 [(0x20, 2000), (0x24, 2)]).ctx 0).desc.kind = 3 ∧
    Running (inGang 0x2801 [(0x20, 2000)]) cmd0 0x2801 (going 0x2801 [(0x20, 2000)]) ∧ ((inGang 0x2801 [(0x20, 2000)]).ctx 0).desc.kind = 4 ∧
    Running (atWork 0x2802 [(0x20, 1)]) cmd0 0x2802 (going 0x2802 [(0x20, 1)]) ∧
    Running (atWork 0x2402 [(0x20, 2)]) cmd0 0x2402 (going 0x2402 [(0x20, 2)]) ∧ fieldOf (going 0x2402 [(0x20, 2)]).pkt 0x20 1 ≠ 1 ∧
    (atWork 0x2402 [(0x20, 2)]).outerLevel = none ∧
    Running ({ atWork 0x2402 [(0x20, 1)] with variant := .f8l }) cmd0 0x2402 (going 0x2402 [(0x20, 1)]) ∧
    fieldOf (going 0x2402 [(0x20, 1)]).pkt 0x20 1 = 1 ∧
    ({ atWork 0x2402 [(0x20, 2)] with gang := { levels := [{ formed := true }, {}, {}] } } : State).outerLevel ≠ none ∧
    Running (atWork 0x2C01 []) cmd0 0x2C01 (going 0x2C01 []) ∧ Running (atWork 0x2C02 []) cmd0 0x2C02 (going 0x2C02 []) := by
  refine ⟨atWork_running _ _ ?_, ?_, ⟨rfl, rfl, ?_⟩, ?_, atWork_running _ _ ?_, atWork_running _ _ ?_, ?_, ?_, ⟨rfl, rfl, ?_⟩, ?_, ?_,
    atWork_running _ _ ?_, atWork_running _ _ ?_⟩ <;> decide +kernel

/-- PWR_LIMIT writes the limit of the package (14 R447). -/
theorem test_pwr_limit : (after (.pwrLimit cmd0) (atWork 0x2801 [(0x20, 2000), (0x24, 2)])).power.limitW = 2000 := by decide +kernel

/-- A self-test with another command in flight on the same cores. -/
def testing (excl : Nat) (es : List Entry) : State := ready.setCtx 0 (ctxWith (going 0x0003 [(0x20, excl)] :: es))

theorem witness_SelftestAndResetFinish : Running (testing 0 []) cmd0 0x0003 (going 0x0003 [(0x20, 0)]) ∧ (testing 0 []).selftest = none ∧
    fieldOf (going 0x0003 [(0x20, 0)]).pkt 0x20 1 ≠ 1 ∧ Running (testing 1 []) cmd0 0x0003 (going 0x0003 [(0x20, 1)]) ∧
    fieldOf (going 0x0003 [(0x20, 1)]).pkt 0x20 1 = 1 ∧ drained cmd0 (testing 1 []) = true ∧
    drained cmd0 (testing 1 [{ waiting 0x2001 [] with seq := 1 }]) = false ∧ (testing 1 [{ waiting 0x2001 [] with seq := 1 }]).selftest = none ∧
    ({ ready with selftest := some ⟨cmd0, 5⟩ } : State).selftest = some ⟨cmd0, 5⟩ := by
  refine ⟨⟨rfl, rfl, ?_⟩, rfl, ?_, ⟨rfl, rfl, ?_⟩, ?_, ?_, ?_, rfl, rfl⟩ <;> decide +kernel

/-- SCOPE of a reset of tile 0, of a core that is absent, and a context whose completion ring is full. -/
theorem witness_SelftestAndResetFinish_reset : Running (atWork 0x0005 [(0x20, 2)]) cmd0 0x0005 (going 0x0005 [(0x20, 2)]) ∧
    scopeOk (fieldOf (going 0x0005 [(0x20, 2)]).pkt 0x20 2 % 8) (fieldOf (going 0x0005 [(0x20, 2)]).pkt 0x20 2 / 8) = true ∧
    (atWork 0x0005 [(0x20, 2)]).scopeUp (fieldOf (going 0x0005 [(0x20, 2)]).pkt 0x20 2 % 8) (fieldOf (going 0x0005 [(0x20, 2)]).pkt 0x20 2 / 8) = true ∧
    (finishEntry cmd0 (finishWith cmd0 (.of sOk) (beginReset cmd0 2 0 (atWork 0x0005 [(0x20, 2)])))).entry? cmd0 = none ∧
    (finishEntry cmd0 (finishWith cmd0 (.of sOk) (beginReset cmd0 2 0
      (ready.setCtx 0 { ctxWith [going 0x0005 [(0x20, 2)]] with cqTail := 512 })))).entry? cmd0 ≠ none ∧
    Running (atWork 0x0005 [(0x20, 8 * 63 + 1)]) cmd0 0x0005 (going 0x0005 [(0x20, 8 * 63 + 1)]) ∧
    (atWork 0x0005 [(0x20, 8 * 63 + 1)]).scopeUp (fieldOf (going 0x0005 [(0x20, 8 * 63 + 1)]).pkt 0x20 2 % 8) (fieldOf (going 0x0005 [(0x20, 8 * 63 + 1)]).pkt 0x20 2 / 8) = false := by
  refine ⟨atWork_running _ _ ?_, ?_, ?_, ?_, ?_, atWork_running _ _ ?_, ?_⟩ <;> decide +kernel

/-- A core of the tile whose store waits for its line, and one without a store. -/
theorem witness_SelftestAndResetFinish_drain :
    (beginReset cmd0 2 0 (atWork 0x0005 [(0x20, 2)])).scopeDrained 2 0 = true ∧
    (beginReset cmd0 2 0 ((atWork 0x0005 [(0x20, 2)]).updUcore 0 0 (fun x => { x with
      buffer := [{ addr := 64, width := 8, value := 1 }] }))).scopeDrained 2 0 = false ∧
    (atWork 0x0005 [(0x20, 2)]).resetRuns cmd0 = false := by decide +kernel

/-- A reset that runs, of a core that is not there any more; and another one that comes meanwhile. -/
def resetting (scope : Nat) : State :=
  ready.setCtx 0 (ctxWith [{ going 0x0005 [(0x20, scope)] with asked := true }, { going 0x0005 [(0x20, 2)] with seq := 1 }])

theorem witness_SelftestAndResetFinish_left : Running (resetting 505) cmd0 0x0005 { going 0x0005 [(0x20, 505)] with asked := true } ∧
    (resetting 505).resetRuns cmd0 = false ∧
    (resetting 505).scopeUp (fieldOf (going 0x0005 [(0x20, 505)]).pkt 0x20 2 % 8) (fieldOf (going 0x0005 [(0x20, 505)]).pkt 0x20 2 / 8) = false ∧
    (beginReset cmd0 1 63 (resetting 505)).scopeDrained 1 63 = true ∧
    (finishEntry cmd0 (finishWith cmd0 (.of sOk) (beginReset cmd0 1 63 (resetting 505)))).entry? cmd0 = none ∧
    Running (resetting 505) { cmd0 with seq := 1 } 0x0005 { going 0x0005 [(0x20, 2)] with seq := 1 } ∧
    (resetting 505).resetRuns { cmd0 with seq := 1 } = true := by
  refine ⟨⟨rfl, rfl, ?_⟩, ?_, ?_, ?_, ?_, ⟨rfl, rfl, ?_⟩, ?_⟩ <;> decide +kernel

/-! ### Tile programs (chapters 04, 06, 07, 08) -/

/-- A PROG_RUN of one run with a program. -/
def prog (words : List (List Byte)) : Entry := { going 0x2001 [(0x2C, 1)] with image := { words }, started := [0] }

/-- Its run. -/
def run0 : Inst := { cmd := cmd0, index := 0 }

/-- The package with that run on core 0 of tile 0. -/
def withRun (words : List (List Byte)) (i : Inst) : State :=
  (ready.setCtx 0 (ctxWith [prog words])).updCore 0 0 (fun k => { k with run := some i, state := .running, warm := true })

theorem withRun_runs (words : List (List Byte)) (i : Inst) (h : i.cmd = cmd0) : Runs (withRun words i) 0 0 i (prog words) := by
  obtain ⟨⟩ := i
  cases h
  exact ⟨rfl, rfl, rfl⟩

theorem withRun_atWord (ws : List (List Byte)) (i : Inst) (op : Nat) (w : List Byte) (h : i.cmd = cmd0) (hw : ws[i.pc]? = some w)
    (ho : wordOp w = op) : AtWord (withRun ws i) 0 0 op i (prog ws) w := by
  obtain ⟨⟩ := i
  cases h
  exact ⟨rfl, rfl, hw, ho, rfl, rfl, rfl⟩

/-- The program [PROG_LOOP of 2 trips, PROG_ENDLOOP] in its loop, with a trip left or not. -/
def looping (n : Nat) : Inst := { run0 with pc := 1, loops := [⟨0, 2, n⟩] }

theorem witness_SequencerWordsPass : AtWord (withRun [wordOf 0x2000 [(25, 1)]] run0) 0 0 0x2000 run0 (prog [wordOf 0x2000 [(25, 1)]]) (wordOf 0x2000 [(25, 1)]) ∧
    MayPass run0 (wordOf 0x2000 [(25, 1)]) ∧
    AtWord (withRun [wordOf 0x2002 [(100, 1)]] run0) 0 0 0x2002 run0 (prog [wordOf 0x2002 [(100, 1)]]) (wordOf 0x2002 [(100, 1)]) ∧
    MayPass run0 (wordOf 0x2002 [(100, 1)]) ∧
    AtWord (withRun [wordOf 0x2002 [(100, 1)], wordOf 0x2003 []] (looping 0)) 0 0 0x2003 (looping 0) (prog [wordOf 0x2002 [(100, 1)], wordOf 0x2003 []])
      (wordOf 0x2003 []) ∧
    (looping 0).loops = [] ++ [⟨0, 2, 0⟩] ∧ (looping 1).loops = [] ++ [⟨0, 2, 1⟩] ∧ MayPass (looping 0) (wordOf 0x2003 []) ∧
    AtWord (withRun [wordOf 0x2004 []] run0) 0 0 0x2004 run0 (prog [wordOf 0x2004 []]) (wordOf 0x2004 []) ∧ run0.ops = [] := by
  refine ⟨withRun_atWord _ _ _ _ rfl rfl ?_, ⟨?_, ?_⟩, withRun_atWord _ _ _ _ rfl rfl ?_, ⟨?_, ?_⟩, withRun_atWord _ _ _ _ rfl rfl ?_, rfl, rfl,
    ⟨?_, ?_⟩, withRun_atWord _ _ _ _ rfl rfl ?_, rfl⟩ <;> decide +kernel

/-- A loop with IMM 1 has 2 trips: the first PROG_ENDLOOP repeats it, the second closes it (04 R143). -/
theorem test_endloop : (([0, 1].map (fun n => (((after (.progEndloop 0 0) (withRun [wordOf 0x2002 [(100, 1)], wordOf 0x2003 []] (looping n))).core 0 0).run.map
    (fun i => (i.pc, i.loops))))) : List _) = [some (1, [⟨0, 2, 1⟩]), some (2, [])] := by decide +kernel

/-- An op that waits to start. -/
def opAt (word : Nat) (eng : Engine) : OpRec := { word, eng, loops := [] }

/-- A word of `op` may issue and, once issued, start. -/
def issues (op : Nat) (m : OpImpl) : Bool :=
  let ws := [wordOf op []]
  let k := (withRun ws run0).core 0 0
  (m.ready op k run0 ws).isNone && wordOp (wordOf op []) == op && !wordWaitEn (wordOf op []) && decide (run0.queued m.eng < 8) &&
    m.ready op ((withRun ws { run0 with ops := [opAt 0 m.eng] }).core 0 0) { run0 with ops := [opAt 0 m.eng] } ws == some (opAt 0 m.eng)

theorem witness_issues {op : Nat} {m : OpImpl} (h : issues op m = true) :
    (∃ (i : Inst) (e : Entry) (w : List Byte) (s : State), AtWord s 0 0 op i e w ∧ m.ready op (s.core 0 0) i e.image.words = none ∧
      wordWaitEn w = false ∧ i.queued m.eng < 8) ∧
    ∃ (i : Inst) (e : Entry) (o : OpRec) (s : State), Runs s 0 0 i e ∧ e.phase = .running ∧ m.ready op (s.core 0 0) i e.image.words = some o := by
  simp only [issues, Bool.and_eq_true, Option.isNone_iff_eq_none, beq_iff_eq, Bool.not_eq_true', decide_eq_true_eq, and_assoc] at h
  obtain ⟨h1, h2, h3, h4, h5⟩ := h
  exact ⟨⟨_, _, _, withRun [wordOf op []] run0, withRun_atWord _ _ _ _ rfl rfl h2, h1, h3, h4⟩,
    _, _, _, withRun [wordOf op []] { run0 with ops := [opAt 0 m.eng] }, withRun_runs _ _ rfl, rfl, h5⟩

theorem witness_EngineOpsIssueAndStart : issues 0x0801 movImpl ∧ issues 0x0802 movImpl ∧ issues 0x0803 movImpl ∧ issues 0x0804 movImpl ∧
    issues 0x0805 (zeroRow.impl .mov (fun _ _ _ => true)) ∧ issues 0x0C01 wloadImpl ∧ issues 0x0C02 streamImpl ∧
    issues 0x1001 (vecImpl { vecRow true false ewLine with plan := ewPlan }) ∧ issues 0x1002 (vecImpl (vecRow false false funcLine)) ∧
    issues 0x1003 (vecImpl (vecRow true false cmpLine)) ∧ issues 0x1004 (vecImpl (vecRow true true selectLine)) ∧
    issues 0x1005 (vecImpl (vecRow false false cvtLine)) ∧ issues 0x1006 (vecImpl (vecRow false false reduceLine)) ∧
    issues 0x1007 (vecImpl { vecRow false false normLine with plan := normPlan }) ∧ issues 0x1008 (vecImpl (vecRow false false softmaxLine)) ∧
    issues 0x1009 (vecImpl (vecRow true false attarSumLine)) ∧ issues 0x100A (vecImpl (vecRow false false attarFromLine)) ∧
    issues 0x100B (vecImpl (vecRow false false attarRoundLine)) ∧ issues 0x1401 gatherImpl ∧ issues 0x1402 gatherImpl ∧
    issues 0x1403 { eng := .ga, plan := scatterPlan, start := scatterAddStart } ∧
    issues 0x1404 { eng := .ga, plan := scatterPlan, start := scatterStart } := by decide +kernel

/-- Two MOV_ZERO words, the first of them issued and not started on a core at work. -/
def twoOps : State := withRun [wordOf 0x0803 [], wordOf 0x0805 []] { run0 with pc := 1, ops := [opAt 0 .mov] }

theorem witness_IssueOnlyQueues : (∀ (k : Core) (r : Option Inst) (w : List Byte) (o : OpRec), (zeroRow.impl .mov (fun _ _ _ => true)).ok { k with run := r } w o
      = (zeroRow.impl .mov (fun _ _ _ => true)).ok k w o) ∧ twoOps.Canonical ∧
    (∃ i e w, AtWord twoOps 0 0 0x0805 i e w ∧ (i.unstarted .mov).isSome = true ∧
      (zeroRow.impl .mov (fun _ _ _ => true)).ready 0x0805 (twoOps.core 0 0) i e.image.words = none) :=
  ⟨fun _ _ _ _ => rfl, canonical_of (by decide +kernel), _, _, _, withRun_atWord _ _ _ _ rfl rfl (by decide +kernel), by decide +kernel, by decide +kernel⟩

/-- A tile of [MOV_COPY, …] is not the word's turn: MOV_ZERO enters the queue behind it (04 R139). -/
theorem test_issue_behind : (((after (.movZero 0 0) twoOps).core 0 0).run.map (fun i => (i.pc, i.ops.map (fun o => (o.word, o.started)))))
    = some (2, [(0, false), (1, false)]) := by decide +kernel

theorem witness_RunsStartAndEnd : (atWork 0x2001 [(0x2C, 1)]).entry? cmd0 = some (going 0x2001 [(0x2C, 1)]) ∧ (going 0x2001 [(0x2C, 1)]).isTileWork = true ∧
    0 < (going 0x2001 [(0x2C, 1)]).instances ∧ ((0, 0) : Nat × Nat) ∈ (atWork 0x2001 [(0x2C, 1)]).scopeCores ((atWork 0x2001 [(0x2C, 1)]).ctx 0).desc.kind ((atWork 0x2001 [(0x2C, 1)]).ctx 0).desc.index ∧
    ((atWork 0x2001 [(0x2C, 1)]).core 0 0).takes (atWork 0x2001 [(0x2C, 1)]).now (going 0x2001 [(0x2C, 1)]).prio = true ∧ coreRival (atWork 0x2001 [(0x2C, 1)]) 0 0 (going 0x2001 [(0x2C, 1)]) = false ∧
    Runs (withRun [] run0) 0 0 run0 (prog []) ∧ (prog []).isProg = true := by
  refine ⟨rfl, ?_, ?_, ?_, ?_, ?_, withRun_runs _ _ rfl, ?_⟩ <;> decide +kernel

/-- Core 0 of tile 0 in a state, with a pre-empted run beside it. -/
def onHeld (st : CoreState) : State := (withRun [] run0).updCore 0 0 (fun k => { k with run := none, held := some run0, state := st })

/-- A single tile-op command at its end. -/
theorem witness_RunsStartAndEnd_single : let s := (ready.setCtx 0 (ctxWith [going 0x0803 []])).updCore 0 0 (fun k => { k with run := some run0, state := .running })
    Runs s 0 0 run0 (going 0x0803 []) ∧ (going 0x0803 []).image.words.length ≤ run0.pc ∧ (going 0x0803 []).isProg = false :=
  ⟨⟨rfl, rfl, rfl⟩, by decide +kernel, by decide +kernel⟩

/-- A core that keeps a pre-empted run beside it, and one that restores it. -/
theorem witness_RunsStartAndEnd_resume : ((onHeld .idle).core 0 0).run = none ∧ ((onHeld .idle).core 0 0).held = some run0 ∧
    ((onHeld .idle).core 0 0).state = .idle ∧ (let s := (withRun [] { run0 with restoring := true }).updCore 0 0 (fun k => { k with state := .resuming })
     ((s.core 0 0).run.map (fun i => i.restoring), (s.entry? cmd0).isSome, (s.core 0 0).state) = (some true, true, .resuming)) :=
  ⟨rfl, rfl, rfl, by decide +kernel⟩

/-- The run of a PROG_RUN ends and the command completes with one run (04 R137). -/
theorem test_run_ends : ((after (.progRun cmd0) (after (.instanceEnd 0 0) (withRun [] run0))).entry? cmd0).map (fun e => e.phase)
    = some (.finished ⟨sOk, 0, 1, 0⟩) := by decide +kernel

/-- A run whose token `n` has `v`. -/
def tokened (n v : Nat) : Inst := run0.setToken n v

/-- A started op with nothing left to do. -/
def opDoneAt (word : Nat) (eng : Engine) : OpRec := { opAt word eng with started := true }

theorem witness_ProgramTokens_wait : ∀ n ∈ [0, 15], wordWaitEn (wordOf 0x2000 [(24, 1), (32, n)]) = true ∧ wordStep (wordOf 0x2000 [(24, 1), (32, n)]) = false ∧
    (tokened n 1).taken = false ∧ 0 < (tokened n 1).token (wordWait (wordOf 0x2000 [(24, 1), (32, n)])) ∧
    wordOp (wordOf 0x2000 [(24, 1), (32, n)]) = 0x2000 := by decide +kernel

theorem witness_ProgramTokens : Runs (withRun [wordOf 0x0803 []] { run0 with ops := [opDoneAt 0 .mov] }) 0 0 { run0 with ops := [opDoneAt 0 .mov] } (prog [wordOf 0x0803 []]) ∧
    ({ run0 with ops := [opDoneAt 0 .mov] } : Inst).oldest .mov = some (opDoneAt 0 .mov) ∧
    opDone (withRun [wordOf 0x0803 []] { run0 with ops := [opDoneAt 0 .mov] }) { run0 with ops := [opDoneAt 0 .mov] } (opDoneAt 0 .mov) = true ∧
    wordSigEn (wordOf 0x0803 []) = false ∧ (opDoneAt 0 .mov).failed = false ∧ wordSigEn (wordOf 0x0803 [(25, 1), (36, 3)]) = true ∧
    wordStep (wordOf 0x0803 [(25, 1), (36, 3)]) = false ∧ (tokened 3 65534).token (wordSig (wordOf 0x0803 [(25, 1), (36, 3)])) < 65535 ∧
    65535 ≤ (tokened 3 65535).token (wordSig (wordOf 0x0803 [(25, 1), (36, 3)])) := by
  refine ⟨withRun_runs _ _ rfl, rfl, ?_, ?_, ?_, ?_, ?_, ?_, ?_⟩ <;> decide +kernel

theorem witness_ProgramTokens_timeout : let i := { run0 with holdSince := some 0 }
    let s := withRun [wordOf 0x2000 [(24, 1)]] i
    (s.core 0 0).run = some i ∧ s.entry? i.cmd = some (prog [wordOf 0x2000 [(24, 1)]]) ∧ i.holdStart = some 0 ∧
    (s.ctx i.cmd.ctx).desc.waitMs ≠ 0 := ⟨rfl, rfl, by decide +kernel, by decide +kernel⟩

/-- A hold of WAIT_MS fails the command with S_TIMEOUT (04 R140). -/
theorem test_hold_timeout : ((after (.progTokenHoldTimeout 0 0) (withRun [wordOf 0x2000 [(24, 1)]] { run0 with holdSince := some 0 })).entry? cmd0).map (fun e => e.failure.map (fun f => f.status))
    = some (some sTimeout) := by decide +kernel

/-- A TILE_STEP op of two tiles, or one with a held signal. -/
def steppingOp (sig : Option Nat) (eng : Engine) : OpRec := { opAt 0 eng with started := true, tiles := 2, sigSince := sig }

theorem witness_StepsSwapsAndPreemption : ∀ op ∈ [0x0801, 0x0802, 0x0804], wordStep (wordOf op [(23, 1)]) = true ∧ wordWaitEn (wordOf op [(23, 1)]) = false ∧
    wordSigEn (wordOf op [(23, 1)]) = false ∧ (stepRow (wordOp (wordOf op [(23, 1)]))).isSome = true ∧
    ({ run0 with ops := [steppingOp none .mov] } : Inst).stepping .mov [wordOf op [(23, 1)]] = some (steppingOp none .mov) ∧
    (steppingOp none .mov).sigDue = false ∧ (steppingOp none .mov).sigSince = none ∧ (steppingOp none .mov).failed = false ∧
    ({ run0 with ops := [steppingOp none .mov] } : Inst).tileHeld [wordOf op [(23, 1)]] (steppingOp none .mov) = false := by decide +kernel

theorem witness_StepsSwapsAndPreemption_signal : let w := wordOf 0x0C02 [(23, 1), (25, 1), (36, 15)]
    ({ run0 with ops := [steppingOp (some 4) .mx] } : Inst).stepping .mx [w] = some (steppingOp (some 4) .mx) ∧ 
    (withRun [w] { run0 with ops := [steppingOp (some 4) .mx] }).readsOf { run0 with ops := [steppingOp (some 4) .mx] } 0 = false ∧
    ({ run0 with ops := [steppingOp (some 4) .mx] } : Inst).token (wordSig w) < 65535 := by decide +kernel

/-- A stream that wants its swap, with a full shadow set. -/
def swapping : Inst := { run0 with shadowFull := true, ops := [opAt 0 .mx] }

theorem witness_StepsSwapsAndPreemption_swap : Runs (withRun [wordOf 0x0C02 [(16, 1)]] swapping) 0 0 swapping (prog [wordOf 0x0C02 [(16, 1)]]) ∧
    (prog [wordOf 0x0C02 [(16, 1)]]).phase = .running ∧ swapping.unstarted .mx = some (opAt 0 .mx) ∧
    wantsSwap ([wordOf 0x0C02 [(16, 1)]].getD (opAt 0 .mx).word []) = true ∧ swapping.settled .mx = true := by
  refine ⟨withRun_runs _ _ rfl, rfl, rfl, ?_, ?_⟩ <;> decide +kernel

/-- A core that stops. -/
def stopping : State := (withRun [wordOf 0x0803 []] run0).updCore 0 0 (fun k => { k with state := .stopping })

theorem witness_StepsSwapsAndPreemption_stop : (stopping.core 0 0).run = some run0 ∧ (stopping.core 0 0).state = .stopping ∧ (stopping.core 0 0).held = none ∧
    run0.restoring = false ∧ stopping.entry? run0.cmd = some (prog [wordOf 0x0803 []]) ∧ run0.ops = [] :=
  ⟨rfl, rfl, rfl, rfl, rfl, rfl⟩

/-- A core that stops inside a restore. -/
theorem witness_StepsSwapsAndPreemption_restore : let s := (withRun [] { run0 with restoring := true }).updCore 0 0 (fun k => { k with state := .stopping })
    ((s.core 0 0).run.map (fun i => i.restoring), (s.core 0 0).state, (s.core 0 0).held) = (some true, .stopping, none) := by decide +kernel

/-- The core is released with the instance beside it and the command still in flight (06 R220). -/
theorem test_preempt_release : ((((after (.preemptRelease 0 ⟨0, [], 0⟩) stopping).core 0 0).held.map (fun i => i.cmd)),
    ((after (.preemptRelease 0 ⟨0, [], 0⟩) stopping).core 0 0).run.isNone) = (some cmd0, true) := by decide +kernel
/-! ### The gather engine and the adders (chapter 08) -/

/-- A gather of rows 0 and 1 of a table at byte 0 of home memory, its words and descriptors: rows of 16 dims of code 0, 64 bytes apart. -/
def gatherWords : List (List Byte) := [wordOf 0x1401 [(40, 0), (60, 1), (80, 2)]]
def tableDesc : List Byte := bytesOfNat 64 (2 * 2 ^ 16 + 0xFFFF * 2 ^ 32 + 4 * 2 ^ 128 + 16 * 2 ^ 192 + 64 * 2 ^ 256)

/-- A gather at work with one position out and, past it, one more. -/
def gatherOp (arrived : Bool) : OpRec :=
  { opAt 0 .ga with started := true, ga := some { poss := [{ index := 0, addr := some 0, asked := true, arrived, data := if arrived then List.replicate 16 0 else [] }, { index := 1, addr := some 64, out := 1 }], outs := 2 } }

def gatherRun (o : OpRec) : Inst := { run0 with ops := [o] }

def gatherEntry (segs : List Seg) : Entry := { prog gatherWords with image := { words := gatherWords, descs := [tableDesc, [], []] }, segs }

def gatherState (o : OpRec) : State :=
  (ready.setCtx 0 (ctxWith [gatherEntry [⟨1, 0x400000, 0, 0⟩]])).updCore 0 0 (fun k => { k with run := some (gatherRun o), state := .running, warm := true })

def gatherExec (o : OpRec) : Exec := Exec.of (gatherState o) ((gatherState o).core 0 0) (gatherRun o) 0 0 (gatherEntry [⟨1, 0x400000, 0, 0⟩]) o

theorem witness_GatherAndAdderEventsComplete_row : Runs (gatherState (gatherOp false)) 0 0 (gatherRun (gatherOp false)) (gatherEntry [⟨1, 0x400000, 0, 0⟩]) ∧
    (gatherRun (gatherOp false)).gathering = some (gatherOp false) ∧
    (let x := gatherExec (gatherOp false)
     let tb := (x.table 0).t
     (gatherState (gatherOp false)).linesPending (x.reader (whereSeg tb.where_)) 0 tb.rowBytes = false ∧
     (∃ bs, x.arrivedRow tb { index := 0, addr := some 0, asked := true } 0 = .ok bs) ∧
     (match ({ x with s := { x.s with poison := [0] } } : Exec).arrivedRow tb { index := 0, addr := some 0, asked := true } 0 with
       | .error er => er == .uncorrectable
       | .ok _ => false) = true) :=
  ⟨⟨rfl, rfl, rfl⟩, by decide +kernel, by decide +kernel, ok_of (by decide +kernel), by decide +kernel⟩

/-- A gather that holds slots for 256 positions, and the position past them. -/
def fullOp : OpRec :=
  { opAt 0 .ga with started := true, ga := some { poss := (List.range 257).map (fun k => { index := k, addr := some (64 * k), out := k }), outs := 257 } }

def fullExec : Exec := gatherExec fullOp

theorem witness_GatherAndAdderEventsComplete_ahead :
    aheadOf (gatherState fullOp) ((gatherState fullOp).core 0 0) (gatherRun fullOp) (gatherEntry [⟨1, 0x400000, 0, 0⟩]) 0 0 256
      = some ⟨(fullExec.table 0).t, 64 * 256, 64 * 256, ⟨1, 0x400000, 0, 0⟩, none⟩ ∧
    (gatherRun fullOp).gaCurrent = some fullOp ∧ (fullOp.ga.getD {}).slotEnd (fullExec.table 0).t.dims fullExec.isBag = 256 ∧
    64 * 256 + (fullExec.table 0).t.rowBytes ≤ 0x400000 ∧ (⟨1, 0x400000, 0, 0⟩ : Seg).type ≠ 2 ∧
    (∃ bs, (gatherState fullOp).readMem (64 * 256) (fullExec.table 0).t.rowBytes = .ok bs) ∧
    ((gatherState fullOp).core 0 0).runAhead = [] :=
  ⟨by decide +kernel, by decide +kernel, by decide +kernel, by decide +kernel, by decide +kernel, ok_of (by decide +kernel), rfl⟩

/-- A package of a gang. -/
def member : State := { ready with gang := { ready.gang with addr := some 5 } }

theorem witness_GatherAndAdderEventsComplete_remote : member.gang.addr ≠ none ∧
    (member.homeBytesAt (lineOf (64 % 2 ^ 40)) ((linesOf (64 % 2 ^ 40) 64).length * 64)).isSome = true ∧
    member.homeBytesAt (lineOf (0x5000000000 % 2 ^ 40)) ((linesOf (0x5000000000 % 2 ^ 40) 64).length * 64) = none := by decide +kernel

/-- An accumulate that is in flight. -/
def acc0 : Acc := { own := true, tile := 0, core := 0, cmd := cmd0, word := 0, inst := 0, seg := 0, hint := 0, addr := 0, fp32 := true }

theorem witness_GatherAndAdderEventsComplete_apply : ({ ready with accs := [acc0] } : State).accs[0]? = some acc0 ∧
    ({ ready with accs := [acc0] } : State).accPending acc0 = false ∧
    (∃ line, ({ ready with accs := [] } : State).readMem acc0.addr 64 = .ok line) ∧
    ({ ready with accs := [], poison := [0] } : State).readMem acc0.addr 64 = .error .uncorrectable :=
  ⟨rfl, by decide +kernel, ok_of (by decide +kernel), readMem_uncorrectable (by decide +kernel) (by decide +kernel)⟩

/-! ### The panes' events (chapter 06; 11 R373) -/

/-- Core 0 of tile 0, changed. -/
def onCore (f : Core → Core) : State := ready.updCore 0 0 f

theorem witness_PaneEventsComplete : (ready.updTile 0 (fun t => { t with louvreFrom := some 0 })).tile 0 = { ready.tile 0 with louvreFrom := some 0 } ∧
    ((onCore (fun k => { k with limit := 8, target := 64 })).core 0 0).limit < ((onCore (fun k => { k with limit := 8, target := 64 })).core 0 0).target ∧
    (let k := (onCore (fun k => { k with keepWarm := true, warm := true, recent := [100, 64] })).core 0 0
     k.gapFrom = some 109 ∧ k.keepWarm = true ∧ k.warm = true ∧ k.gap = none ∧ k.inService = true) ∧
    ((onCore (fun k => { k with warm := true, recent := [100] })).core 0 0).coldAt = some 229 ∧
    ((onCore (fun k => { k with warm := true, thresh := 1, gap := some (0, 1, 0) })).core 0 0).coldAt = some (325 + 128) := by decide +kernel

/-- The rate of a keep-warm gap is that of the rows of the last 256 cycles, in 64ths, and at least 1 (06 R213). -/
theorem test_gap_rate : [[], [100], List.range 256].map (fun l => ({ recent := l } : Core).gapRate 256) = [1, 1, 64] := by decide +kernel

/-- A charge whose third record is due. -/
def charged : State := { ready with charges := [{ unit := .core 0 0, times := [0, 0, 0], tensor := 1, chunk := 2, due := some cmd0 }] }

theorem witness_PaneEventsComplete_fence : (charged.charges.find? (fun g => g.unit == .core 0 0)).map (fun g => g.due) = some (some cmd0) ∧
    charged.entry? cmd0 = none := by decide +kernel

/-- A rising limit takes 8/64 (06 R216). -/
theorem test_limit_step : ((after (.issueLimitStep 0 0) (onCore (fun k => { k with limit := 60, target := 64 }))).core 0 0).limit = 64 := by decide +kernel

/-! ### The tier engine (chapter 09) -/

/-- Page 0 of home, changed. -/
def onPage (f : TierPage → TierPage) : State := { sills with pages := [(0, f {})] }

/-- A hot page at home. -/
def hotPage : TierPage := { heat := 200, last := .ctx 0 }

theorem witness_TierEventsComplete : ready.pages = [] ∧ (onPage (fun _ => hotPage)).pages = [(0, hotPage)] ∧ (onPage (fun _ => hotPage)).hot hotPage = true ∧
    hotPage.state = .home ∧ hotPage.deferred = [] := by decide +kernel

/-- A promoting page: sub-block 15 is left, or nothing. -/
def promoting (n : Nat) : State := onPage (fun g => { g with state := .promoting, copied := n })

/-- A demoting page with sub-block 3 dirty: it is left, or nothing is. -/
def demoting (n : Nat) : State := onPage (fun g => { g with state := .demoting, dirty := 8, copied := n })

theorem witness_TierEventsComplete_copy : ((promoting 0x7FFF).page 0).nextCopy = some (15, 0) ∧ ((promoting 0x7FFF).page 0).state ≠ .demoting ∧
    ((demoting 0).page 0).nextCopy = some (3, 0) ∧ ((demoting 0).page 0).state = .demoting ∧
    ((promoting 0xFFFF).page 0).migrating = true ∧ ((promoting 0xFFFF).page 0).nextCopy = none ∧
    ((demoting 8).page 0).migrating = true ∧ ((demoting 8).page 0).nextCopy = none ∧ ((demoting 8).page 0).state = .demoting := by decide +kernel

theorem witness_TierEventsComplete_freeze : (promoting 0xFFFF).draw = ((promoting 0xFFFF).draw.1, (promoting 0xFFFF).draw.2) := rfl

theorem witness_TierEventsComplete_epoch : 64 < 0x6000000000 ∧ 255 % 256 ≠ (ready.page (64 / 65536)).epoch ∧ (∃ u, ready.writeMem 64 [1] = .ok u) :=
  ⟨by decide, by decide +kernel, ok_of (by decide +kernel)⟩

/-- A direct page that is being released. -/
def releasing : State := { ready with direct := [(0, some { claim := .ctx 0, frame := 0, releasing := true })] }

theorem witness_TierEventsComplete_release : (releasing.directPage 0).map (fun d => (d.releasing, d.holds, d.next)) = some (true, 0, none) := by decide +kernel

theorem witness_HeatDecayHalvesEveryPage : (onPage (fun _ => hotPage)).Canonical ∧ (∃ t, exec .heatDecay (onPage (fun _ => hotPage)) = .next t) :=
  ⟨canonical_of (by decide +kernel), _, rfl⟩

/-- 201 halves to 100 (09 R299). -/
theorem test_heat_decay : ((after .heatDecay (onPage (fun g => { g with heat := 201 }))).page 0).heat = 100 := by decide +kernel

/-! ### The HBM controllers (chapter 10) -/

theorem witness_HbmEventsComplete_temp : (ready.stack 0).inService = true ∧ ((105 : Int) ≤ 105) ∧ (105 : Int) < 106 ∧ (ready.pc 0 0).state ≠ .recalibrating ∧
    ready.nextRead 0 0 = none := by decide +kernel

/-- A read that waits. -/
def read0 : PcRead := { line := 0, who := .host 0 0, since := 0 }

/-- The package with that read in its pseudo-channel. -/
def reading : State := ready.updPc 0 0 (fun q => { q with reads := [read0] })

theorem witness_HbmEventsComplete_read : (reading.stack 0).inService = true ∧ (reading.pc 0 0).state ≠ .recalibrating ∧ reading.nextRead 0 0 = some read0 ∧
    (reading.pc 0 0).reads.find? (fun r => !r.held && !r.first) = some read0 ∧
    (servedRead read0 0 reading).2 = false ∧ (servedRead read0 5 reading).2 = true ∧
    (servedRead { read0 with who := .steward } 0 reading).2 = false := by decide +kernel

theorem witness_HbmEventsComplete_lines : (∃ u, ready.writeMem 0 [1] = .ok u) ∧ ready.noRoom (linesOf 0 1) = false ∧
    (ready.stack (ready.variant.stackOf 0).1).inService = true ∧ (ready.homeLine 0).isSome = true ∧
    ({ ready with home := {} } : State).homeLine 0 = none ∧
    (7 < ready.home.granules ∧ ({ ready with home := { ready.home with moves := [7] } } : State).home.moves = [7]) :=
  ⟨ok_of (by decide +kernel), by decide +kernel⟩

/-- A pseudo-channel in a recalibration. -/
def recal (b : PcState) : State := ready.updPc 0 0 (fun q => { q with state := .recalibrating, before := b })

theorem witness_HbmEventsComplete_recal : ready.mayRecalibrate 0 0 = true ∧ (ready.pc 0 0).lastCal = none ∧ ready.recalAt 0 0 .period = 10000000000 ∧
    8 ≤ (((ready.updStack 0 (fun k => { k with temp := -8 })).stack 0).temp - ((ready.updStack 0 (fun k => { k with temp := -8 })).pc 0 0).calTemp).natAbs ∧
    (let s := (ready.updPc 0 0 (fun q => { q with lastCal := some 0 })); let s := { s with clk := { s.clk with now := 250000000 } }
     s.mayRecalibrate 0 0 = true ∧ (s.pc 0 0).lastCal = some 0 ∧ 0 + 250000000 ≤ s.now) ∧
    ((recal .inService).pc 0 0).state = .recalibrating ∧ ((recal .inService).pc 0 0).before ≠ .degrading ∧
    ((recal .degrading).pc 0 0).before = .degrading ∧ (ready.pc 0 0).state = .inService ∧
    (ready.updPc 0 0 (fun q => { q with overSeconds := 10 }) |>.pc 0 0).degradingRate = true := by decide +kernel

/-- A stack with a map-out of pseudo-channel 5. -/
def mapping (st done : Nat) : State := ready.updStack 0 (fun k => { k with mapPc := some 5, mapState := st, done, total := 3 })

theorem witness_HbmEventsComplete_mapout : ((mapping 1 0).stack 0).mapPc = some 5 ∧ ((mapping 1 0).stack 0).inService = true ∧ ((mapping 1 0).stack 0).mapState = 1 ∧
    ((mapping 2 0).stack 0).mapState = 2 ∧ ((mapping 3 1).stack 0).done + 1 < ((mapping 3 1).stack 0).total ∧
    ((mapping 3 1).stack 0).mapFailed = false ∧ ((mapping 3 2).stack 0).total ≤ ((mapping 3 2).stack 0).done + 1 := by decide +kernel

theorem witness_LineReadCounts : [0, 1, 4, 5].map (fun n => (lineRead 0 (some 0) n ready).2) = [false, false, false, true] := by decide +kernel

theorem witness_RefreshHysteresis : ∀ temp ∈ [(83 : Int), 84, 85, 86, 93, 94, 95, 96, 105],
    canonical ready = true ∧ (ready.stack 0).inService = true ∧ temp ≤ 105 ∧ (ready.stack 0).refresh ≤ 2 := by decide +kernel

theorem witness_QueuedWriteIsVisible : ready.Canonical ∧ 3 + [(1 : Byte), 2].length ≤ ready.homeBytes ∧ ready.homeBytes ≤ 0x6000000000 ∧ ready.poison = [] ∧
    ready.noRoom (linesOf 3 2) = false ∧ (∀ l ∈ linesOf 3 2, ready.sillBad l = false) ∧
    (∃ t, exec (.writeQueueEnter 3 [1, 2]) ready = .next t) :=
  ⟨canonical_of (by decide +kernel), by decide +kernel, by decide +kernel, rfl, by decide +kernel, by decide +kernel, next_of (by decide +kernel)⟩

/-- The bytes written stand in memory (10 R330). -/
theorem test_write_visible : (after (.writeQueueEnter 3 [1, 2]) ready).mem = [⟨3, 1⟩, ⟨4, 2⟩] := by decide +kernel

/-! ### Ultur cores (chapter 03) -/

/-- Ultur core 0 with a store buffer and a tracker. -/
def storing (buffer tracker : List UStore) : State := ready.updUcore 0 0 (fun u => { u with buffer, tracker })

/-- A store of four bytes to home byte 8. -/
def store0 : UStore := { addr := 8, width := 4, value := 0x11223344 }

/-- The same to another package. -/
def store1 : UStore := { store0 with addr := 2 ^ 55 + 2 ^ 40 }

theorem witness_UlturAccessesComplete_load : ready.ucoreRuns 0 0 = true ∧ forbidden 0xF000000000 8 .plain = false ∧ regionOf 0xF000000000 = .shutter 0 ∧
    (ready.ucore 0 0).buffer = [] ∧ forbidden 0xC000000000 8 .plain = false ∧ regionOf 0xC000000000 = .aperture 0 0 ∧
    forbidden 8 4 .plain = false ∧ regionOf 8 = .home 8 ∧ regionOf 0x10000000008 = .direct 8 ∧
    needsDrain (forwards ((storing [store0] []).ucore 0 0).buffer 8 4) = false ∧
    ((storing [store0] []).ucore 0 0).tracks 8 (forwards ((storing [store0] []).ucore 0 0).buffer 8 4) = false ∧
    (forwards ((storing [store0] []).ucore 0 0).buffer 8 4).all Option.isSome = true ∧ (forwards [] 8 4).all Option.isSome = false ∧
    (ready.ucore 0 0).tracks 0xC000000000 (List.replicate 8 none) = false ∧ (ready.ucore 0 0).noStores = true := by decide +kernel

/-- Ultur core 0 with line 0 in its caches. -/
def cached : State := ready.updUcore 0 0 (fun u => { u with lines := [0] })

/-- The lines of an access in the caches; a load from an aperture of a host that answers. -/
theorem witness_UlturAccessesComplete_lines : (∀ l ∈ linesOf 8 4, l ∈ (cached.ucore 0 0).lines ∧ l ∉ (cached.ucore 0 0).badFills) ∧
    cached.localAddr 8 = 8 ∧ cached.accessErr 8 4 = none ∧ cached.ucoreRuns 0 0 = true ∧ storeUnbacked cached 8 4 = false ∧
    forbidden 8 4 .sc = false ∧ forbidden 8 4 (.amo .add) = false ∧ (cached.ucore 0 0).noStores = true ∧
    (let s := ready.updPort 0 (fun p => { p with linkUp := true, busMaster := true, size := 2 ^ 30 })
     s.localAddr 0xC000000000 = 0xC000000000 ∧ regionOf 0xC000000000 = .aperture 0 0 ∧ s.accessErr 0xC000000000 8 = none) := by decide +kernel

/-- An AMO on a line that the core owns returns the old value, and its sum stands in memory (03 R90). -/
theorem test_amo : let s := after (.hostStore 0 0 8 4 ⟨.amo .add, false⟩ 5) { cached with mem := [⟨8, 7⟩] }
    ((s.ucore 0 0).loaded, s.mem) = (7, [⟨8, 12⟩]) := by decide +kernel

/-- A store-conditional without a reservation writes nothing (03 R90). -/
theorem test_sc : let s := after (.hostStore 0 0 8 4 ⟨.sc, false⟩ 5) cached
    ((s.ucore 0 0).loaded, s.mem) = (1, []) := by decide +kernel

theorem witness_UlturAccessesComplete_store : forbidden 8 4 .plain = false ∧ storeUnbacked ready 8 4 = false ∧
    ((storing (List.replicate 63 store0) []).ucore 0 0).buffer.length < 64 ∧ ((storing [store0] []).ucore 0 0).buffer = [store0] ∧
    ((storing [store0] []).ucore 0 0).tracker = [] ∧ isTracked store0.addr = false ∧ regionOf store0.addr = .home 8 ∧
    ready.accessErr 8 4 = none := by decide +kernel

theorem witness_UlturAccessesComplete_tracked : ((storing [store1] (List.replicate 15 store1)).ucore 0 0).tracker.length < 16 ∧
    (∀ z ∈ ((storing [store1] (List.replicate 15 store1)).ucore 0 0).tracker, targetOf z.addr = targetOf store1.addr) ∧
    isTracked store1.addr = true ∧ ((storing [] [store1]).ucore 0 0).tracker = [store1] ∧
    (storing [] [store1]).now < store1.since + (storing [] [store1]).timeoutNs := by decide +kernel

/-- A gang of two in which the peer is reachable: a store to it is not ended at once. -/
def peerUp : State :=
  { (storing [store1] []).updPort 0 (fun p => { p with answers := true }) with gang := { ready.gang with addr := some 5 } }

theorem witness_UlturAccessesComplete_aperture : let s := ready.updUcore 0 0 (fun u => { u with buffer := [{ store0 with addr := 0xC000000000 }] })
    targetDown s 0xC000000000 4 = none ∧ isTracked 0xC000000000 = true ∧ s.accessErr 0xC000000000 4 ≠ some .timeout := by decide +kernel

theorem witness_UlturAccessesComplete_fence : ready.ucoreRuns 0 0 = true ∧ (ready.ucore 0 0).tracker = [] ∧ (ready.ucore 0 0).buffer = [] := by decide +kernel

theorem witness_UlturErrorsComplete : ((storing [] [store1]).ucore 0 0).tracker = [store1] ∧ (storing [] [store1]).silentAt store1.addr = none ∧
    (let s := { storing [] [store1] with clk := { now := 10000000 } }; store1.since + s.timeoutNs ≤ s.now) ∧ ready.ucoreRuns 0 0 = true ∧ ready.draw = (ready.draw.1, ready.draw.2) :=
  ⟨by decide +kernel, by decide +kernel, by decide +kernel, by decide +kernel, rfl⟩

theorem witness_BusErrorKeepsFirst : ready.Canonical ∧ (ready.ucore 0 0).errValid = false ∧
    ((ready.updUcore 0 0 (fun u => { u with errValid := true })).ucore 0 0).errValid = true ∧ 8 * 7 + 7 ≠ 8 * 0 + 0 :=
  ⟨canonical_of (by decide +kernel), by decide +kernel, by decide +kernel, by decide⟩

theorem witness_ShutterAccessRules : ready.ucoreRuns 0 0 = true ∧ regionOf 0xF000000004 = .shutter 4 ∧ AccKind.fetch ≠ .plain ∧ 0xF000000004 % 8 ≠ 0 ∧
    reaches ready .core 6 = true ∧ ready.start.phase = .ready := by decide +kernel

theorem witness_LoadForwarding : needsDrain (forwards ((storing [store0, { store0 with addr := 10 }] []).ucore 0 0).buffer 8 4) = true ∧
    ((storing [store0] []).ucore 0 0).buffer = [] ++ store0 :: [] ∧ regionOf 9 = .home 9 ∧ store0.addr ≤ 9 ∧ 9 + 2 ≤ store0.addr + store0.width ∧
    ((storing [store0] []).ucore 0 0).buffer ≠ [] ∧ forbidden 0xF000000000 8 .plain = false := by decide +kernel

/-- A load of two bytes inside a buffered store takes them from it (03 R119). -/
theorem test_forward : ((after (.hostLoad 0 0 9 2 ⟨.plain, false, 0⟩) (storing [store0] [])).ucore 0 0).loaded = 0x2233 := by decide +kernel

theorem witness_StoresWaitInBuffer : ∃ t, exec (.hostStore 0 0 8 4 ⟨.plain, false⟩ 7) ready = .next t := next_of (by decide +kernel)
/-! ### Registers and the paths to them -/

theorem witness_RegisterAccessesComplete : pathOpen ready .core = true ∧ 0x60008 % 8 = 0 ∧ pathOpen State.reset .core = false ∧
    pathOpen ready .bar0 = true ∧ pathOpen ready .i3c = true := by decide +kernel

/-- A request of the host at port 0, and the package with that port up. -/
def tlp (vf : Option Nat) (bar off : Nat) (mem : Bool) (len : Nat := 8) : Tlp := ⟨vf, bar, off, false, len, [], mem⟩
def ported : State := ready.updPort 0 (fun p => { p with linkUp := true, cxl := true })

theorem witness_RegisterAccessesComplete_tlp : ported.portOpen 0 = true ∧ tlpTarget ported 0 (tlp none 0 0xFFFFFF8 false) = .reg 0xFFFFFF8 ∧
    tlpTarget ported 0 (tlp (some 15) 0 0 false) = .reg 0x13C0000 ∧ tlpTarget ported 0 (tlp none 2 64 false) = .mem 64 ∧
    tlpTarget ported 0 (tlp none 4 64 false) = .mem 0x10000000040 ∧ tlpTarget ported 0 (tlp none 0 64 true) = .mem 64 ∧
    tlpTarget ported 0 (tlp none 7 0 false) = .config ∧ ready.portOpen 0 = false ∧ tlpTarget ready 0 (tlp none 0 0 false) ≠ .config ∧
    tlpTarget ported 0 (tlp none 1 0 false) = .unsupported ∧ tlpTarget ported 0 (tlp none 0 0xFFFFFFC false) = .unsupported := by decide +kernel

theorem witness_RegisterReadsBack : ready.start.phase = .ready := rfl

/-- A host write of 4 bytes to home memory through BAR2 stands there (12 R410). -/
theorem test_bar2_write : (after (.hostTlp 0 ⟨none, 2, 64, true, 4, [1, 2, 3, 4], false⟩) ported).mem = [⟨64, 1⟩, ⟨65, 2⟩, ⟨66, 3⟩, ⟨67, 4⟩] := by decide +kernel

/-! ### Pins (chapters 12 and 16) -/

/-- The package with a dynamic address on I3C, and with PKG_RESET_N low. -/
def addressed (offset : Nat) : State := { ready with i3c := { ready.i3c with dynamic := some 9, offset } }
def lowReset : State := { ready with resetLow := true }

theorem witness_PinBusesComplete : ready.i3cOn = true ∧ ready.i3c.dynamic = none ∧ (addressed 0).i3cOn = true ∧ (addressed 0).i3c.dynamic = some 9 ∧
    (addressed 0).i3cAt 9 = true ∧ isRegister (0x60008 % 2 ^ 32) = true ∧ isRegister (addressed 0xFFFFFF8).i3c.offset = true ∧
    ready.tapOn 0 = true := by decide +kernel

theorem witness_ExtestOnlyInReset : lowReset.tapOn 0 = true ∧ lowReset.resetLow = true ∧ ready.resetLow = false := by decide +kernel

/-- EXTEST drives the pins in reset and is BYPASS otherwise (16 R503). -/
theorem test_extest : ((after (.extest 0) lowReset).tap 0).instr = .extest ∧ ((after (.extest 0) ready).tap 0).instr = .bypass := by decide +kernel

/-! ### Links and laser modules (chapter 12) -/

/-- Link 0, changed, in an assigned package. -/
def onLink (f : Link → Link) : State := { ready.updLink 0 f with gang := { ready.gang with addr := some 5 } }

theorem witness_LinkTrafficCompletes : ∀ st ∈ [LinkState.loc, .up, .draining], ((onLink (fun l => { l with state := st })).link 0).carries = true ∧
    canonical (onLink (fun l => { l with state := st })) = true ∧ ((onLink (fun l => { l with state := st, expected := 4095 })).link 0).expected = 4095 ∧
    ((onLink (fun l => { l with joined := true })).link 0).joined = true ∧ ((onLink (fun l => { l with joined := true })).link 0).state ≠ .disabled := by
  decide +kernel

theorem witness_LinkTrafficCompletes_nak : ∀ n ∈ [14, 15],
    ((((onLink (fun l => { l with state := .up, replayTimes := List.replicate n 0 })).link 0).replayTimes ++ [(onLink id).now]).filter
      (fun t => decide ((onLink id).now < t + 1000000))).length = n + 1 := by decide +kernel

/-- A message on its way to package 6, after `hops` links. -/
def message (cls : MsgClass) (hops : Nat) : FwdMsg := ⟨4, 6, hops, cls, 0, 0, 0, 64, 0⟩

theorem witness_LinkTrafficCompletes_forward : (onLink id).gang.addr.isSome = true ∧ (onLink id).isSelf (message .rs 0).dst = false ∧
    [MsgClass.mg, .rq, .rs].all (fun m => decide ((message m 2).hops < 3) && (message m 2).cls == m) ∧ 3 ≤ (message .rs 3).hops ∧
    (Table.get [] (onLink id).gang.seen 4).contains 0 = false ∧ (onLink id).awaits 4 7 6 = true ∧
    ({ onLink id with gang := { (onLink id).gang with seen := [(4, [6])] } } : State).awaits 4 7 6 = false := by decide +kernel

/-- A flit out of order changes no number that is expected (12 R385). -/
theorem test_flit_order : ((after (.flitReceive 0 ⟨7, 0, true, 0, 10, []⟩) (onLink (fun l => { l with state := .up, expected := 6 }))).link 0).expected = 6 ∧
    ((after (.flitReceive 0 ⟨6, 0, true, 0, 10, []⟩) (onLink (fun l => { l with state := .up, expected := 6 }))).link 0).expected = 7 := by decide +kernel

/-- Laser module 0 in place and ready. -/
def lit (f : Link → Link) : State :=
  { (onLink f).updLaser 0 (fun m => { m with present := true, ready := true, sources := 0x1FF }) with
    domains := [⟨.io0, true, false⟩, ⟨.tile 0, true, false⟩, ⟨.laser 0, true, false⟩] }

theorem witness_LinkChangesComplete : ((lit id).link 0).state = .down ∧ (lit id).linksOn = true ∧ (lit id).mayTrain 0 = true ∧
    ((lit (fun l => { l with state := .training })).link 0).state = .training ∧
    (lit (fun l => { l with state := .training })).linkPower 0 = true ∧
    [3, 4, 8, 9].map (fun w => (lit (fun l => { l with state := .training })).working 0 ⟨6, true, 0, 0, 0, 0, w⟩) = [3, 4, 8, 9] ∧
    ((lit (fun l => { l with state := .training })).link 0).spareUsed = false ∧ ((lit (fun l => { l with state := .up })).link 0).carries = true ∧
    (lit id).variant.hasLink 0 = true ∧ ((lit id).link 0).failed.contains 8 = false ∧
    (lit id).vflash = true ∧ waveLinks 0 ⟨8, true⟩ (lit id) = [0, 1, 2, 3] := by decide +kernel

theorem witness_LinkChangesComplete_module : (lit id).variant.hasLink (4 * 7) = true ∧
    (((lit id).updLaser 0 (fun m => { m with drain := true })).laser 0).drain = true ∧ (∀ k ∈ moduleLinks 0, ((lit id).link k).unacked = [] ∧ ((lit id).link k).waiting = []) ∧
    (ready.laser 0).present = false ∧ ((lit id).laser 0).present = true := by decide +kernel

/-- Eight working wavelengths and a peer with an address: the link is UP with its spare in use (12 R389, R391). -/
theorem test_trained : let l := (after (.linkTrainingDone 0 ⟨6, true, 3, 0, 0, 0, 8⟩) (lit (fun l => { l with state := .training }))).link 0
    (l.state, l.half, l.spareUsed, l.peerAddr, l.peerLink) = (.up, false, true, 6, 3) := by decide +kernel

/-! ### Gangs (chapter 12) -/

/-- The public key of a gang manager, made for these tests. -/
def gmKey : Nat × Nat :=
  (0xc8dd58918b34bfed15c42115093d1241fa9dbc6202e024e3e0852f49d9fc71fe,
   0x38ece450fff6520d7622b1fbf7a57cb5b755d5e4f25bbdc724a62a293b025011)

/-- A signed gang message: type, level, target, value, gang and data with GM_SEQ 1 and nonce 0, and the two halves of its signature. -/
def gm (type level target value gang data r s : Nat) : List Byte :=
  bytesOfNat 64 (type + level * 2 ^ 8 + target * 2 ^ 16 + 2 ^ 128 + gang * 2 ^ 160 + value * 2 ^ 192 + data * 2 ^ 256) ++ bytesOfNatBE 32 r ++ bytesOfNatBE 32 s

/-- A signed message of each type. -/
def gmAssign : List Byte := gm 1 0 0x7FFF 5 0 0
  0x54df67469c44bc3b4b943cc9bda050b96311022ba8cc62b502f45f40b76c67e1
  0xe3bc2517fbbf6119e5a19925b7dbae83522fb86a77af191e3c2dad76c35201cd
def gmUnassign : List Byte := gm 2 0 5 0 0 0
  0x5d0ee885f03b4154bf66fcf36816039bf2a036528d77e296e12970c4b8494edb
  0x47980c7c4fa0cd59b12e87af0ad1c0c835c453d9daeedd09df595788a2d112f3
def gmRouteMsg : List Byte := gm 3 0 5 6 0 0x80000001
  0x6ffd33f5e7f5ba8c6589afb9115a8414af084e940cedae9119ece4133e2031d8
  0x8611864caade19e5a339c3706ef8c6f0a65e050bd39df14f10c2a7f13ba757fc
def gmForm : List Byte := gm 4 1 5 0 9 0x60
  0xbb8db5039a6a3def83383e59887cf3c2b8422c92fbc3e52c5ecea51095638741
  0x4f35b44cd918b065df9ff5a4f96c32ba9bb233e6b0a00f61e73af27b09cd6d01
def gmFormEnd : List Byte := gm 5 1 5 0 9 0x20002
  0xbdf120bb6cf2f74c92cb67c7f25e08e12f13ad5538f7c22bf2e721d8978a8a24
  0x28fbd55e0c8ee3fbd1e13a3b52543d0703979ad686e606bf5255e4a696308430
def gmJoin : List Byte := gm 6 1 5 7 9 0
  0xd26119cd9127069703c914c83d5217e3bc8ab3abd19e6cb5db871d6dcc7f0e24
  0x53dc8b0dc189d2552e42074f5c9bf50a931ec5d746350eb72938f30d6cccca5c
def gmLeave : List Byte := gm 7 1 5 6 9 0
  0xd9340f7baedda7f618918454724aaa868d9ab56c4e42c12141896e4b6145054a
  0xe2569e1330f2f15312f7ae809452fdea163397c35e94ede13436fd118c9dc14d
def gmDissolve : List Byte := gm 8 1 5 0 9 0
  0xc81e3a5b8471e2d4b33a4593148db990ebe49b30570e24836787c9d7dab92534
  0xd1545a5a43d29a1eb0073b5fec1838f39adcc2d321158d3c9ea99cc5d3f36ae
def gmQuery : List Byte := gm 9 0 5 0 0 0
  0x65ec4c5a562302c11ff3ee6c1d1798d4b721a52a332be09c90972dfa66ccd615
  0xecf3b91d9cf260599c2eeef07958aa2aa91b82d567b9a38d5591150b19298ce8

/-- The package with that manager's key; the state of link 0, its own address, and level 1. -/
def gangState (l : LinkState) (addr : Option Nat) (level : Level) : State :=
  let s := ready.updLink 0 (fun k => { k with state := l })
  { s with start := { s.start with image := { s.start.image with keys := [gmKey] } },
           gang := { s.gang with addr, levels := [level, {}, {}] } }

theorem witness_GangMessagesComplete_signed_assign : (gangState .loc none {}).gangCheck gmAssign = none := by decide +kernel

/-- Level 1 as a gang 9 of packages 5 and 6: recorded, or formed. -/
def level1 (formed : Bool) : Level := { formed, gang := 9, members := [5, 6] }

theorem witness_GangMessagesComplete_signed : (∀ m ∈ [gmUnassign, gmRouteMsg], (gangState .up (some 5) {}).gangCheck m = none) ∧
    (∀ m ∈ [gmForm, gmFormEnd, gmJoin], (gangState .up (some 5) {}).gangCheck m = none) ∧
    (∀ m ∈ [gmLeave, gmDissolve, gmQuery], (gangState .up (some 5) {}).gangCheck m = none) := by
  refine ⟨?_, ?_, ?_⟩ <;> decide +kernel

theorem witness_GangMessagesComplete_arrives : (gangState .loc none {}).gangArrives 0 1 gmAssign = true ∧
    [(2, gmUnassign), (3, gmRouteMsg), (4, gmForm), (5, gmFormEnd), (6, gmJoin), (7, gmLeave), (8, gmDissolve), (9, gmQuery)].all
      (fun p => (gangState .up (some 5) {}).gangArrives 0 p.1 p.2) = true := by decide +kernel

theorem witness_GangMessagesComplete_effects : (∃ u, doAssign gmAssign (gangState .loc none {}) = .ok u) ∧ (∃ u, doUnassign (gangState .up (some 5) {}) = .ok u) ∧
    (∃ u, doRoute gmRouteMsg (gangState .up (some 5) {}) = .ok u) ∧ (∃ u, doForm gmForm (gangState .up (some 5) {}) = .ok u) ∧
    (∃ u, doFormEnd gmFormEnd (gangState .up (some 5) (level1 false)) = .ok u) ∧ (∃ u, doJoin gmJoin (gangState .up (some 5) (level1 true)) = .ok u) ∧
    (∃ u, doLeave gmLeave (gangState .up (some 5) (level1 true)) = .ok u) ∧ (∃ u, doDissolve gmDissolve (gangState .up (some 5) (level1 true)) = .ok u) ∧
    (∃ u, doQuery (some 0) gmQuery (gangState .up (some 5) {}) = .ok u) := by
  refine ⟨ok_of ?_, ok_of ?_, ok_of ?_, ok_of ?_, ok_of ?_, ok_of ?_, ok_of ?_, ok_of ?_, ok_of ?_⟩ <;> decide +kernel

/-- A message whose signature does not verify. -/
theorem witness_GangMessagesComplete_refused : (gangState .up (some 5) {}).gangArrives 0 3 (gm 3 0 5 6 0 0 1 1) = true ∧
    (gangState .up (some 5) {}).gangCheck (gm 3 0 5 6 0 0 1 1) = some 1 := by decide +kernel

/-- A message of a device, to package 5: type, level, gang and value. -/
def dm (type level gang value : Nat) : List Byte := gm type level 5 value gang 0 0 0

theorem witness_GangMessagesComplete_devices : deviceArrives 0x0A 0 (dm 0x0A 0 0 0) (gangState .up (some 5) {}) = true ∧
    deviceArrives 0x0B 0 (dm 0x0B 0 0 6) (gangState .up (some 5) {}) = true ∧ bit (gmValue (dm 0x0B 0 0 6)) 15 = false ∧
    deviceArrives 0x0C 0 (dm 0x0C 1 9 6) (gangState .up (some 5) (level1 true)) = true ∧ levelOk (gmLevel (dm 0x0C 1 9 6)) = true ∧
    ((gangState .up (some 5) (level1 true)).level (gmLevel (dm 0x0C 1 9 6))).gang = gmGang (dm 0x0C 1 9 6) ∧
    gmValue (dm 0x0C 1 9 6) % 2 ^ 15 ∈ ((gangState .up (some 5) (level1 true)).level (gmLevel (dm 0x0C 1 9 6))).members := by decide +kernel

/-- Package 6, or this package, is leaving. -/
theorem witness_GangMessagesComplete_leave : ∀ p ∈ [5, 6], let s := gangState .up (some 5) { level1 true with leaving := [p] }
    levelOk 1 = true ∧ (s.level 1).formed = true ∧ (s.level 1).leaving.contains p = true ∧ s.gangWork 1 p = false ∧ s.isSelf p = decide (p = 5) := by
  decide +kernel

/-- A message in the mailbox: to this package, or by its route to package 6. -/
def sending (target : Nat) : State :=
  let s := gangState .up (some 5) {}
  { s with gang := { s.gang with tx := gm 9 0 target 0 0 0 0 0, routes := [(6, 0x80000000)] } }

theorem witness_GangMessagesComplete_send : (gangState .up none {}).variant.gangs = true ∧ (gangState .up none {}).gang.addr = none ∧
    (sending 5).gang.addr.isSome = true ∧ (sending 5).isSelf (gmTarget (sending 5).gang.tx) = true ∧
    (sending 6).isSelf (gmTarget (sending 6).gang.tx) = false ∧ ((sending 6).gangLink (sending 6).gang.tx).isSome = true ∧ 5 < gmNoAnswer := by decide +kernel

/-- A signed ASSIGN gives the package its address, and the LOCAL link whose peer is assigned comes UP (12 R391, R394). -/
theorem test_assign : (after (.assign 0 gmAssign) ((gangState .loc none {}).updLink 0 (fun l => { l with peerAssigned := true }))).gang.addr = some 5 ∧
    ((after (.assign 0 gmAssign) ((gangState .loc none {}).updLink 0 (fun l => { l with peerAssigned := true }))).link 0).state = .up := by decide +kernel

/-- The same message with one bit changed is refused and logged. -/
theorem test_assign_forged : (after (.assign 0 (setAt gmAssign 24 4)) (gangState .loc none {})).gang.addr = none ∧
    (after (.assign 0 (setAt gmAssign 24 4)) (gangState .loc none {})).flt.tail = 1 := by decide +kernel
/-! ### Station time (chapter 12) -/

/-- The package with time changed, in gang 9 of packages 5 and 6 or in none. -/
def timed (member : Bool) (f : Time → Time) : State :=
  let s := gangState .up (some 5) (level1 member)
  { s with time := f s.time }

/-- Such a package whose I/O die 1 has its supply and is joined to I/O die 0 by the edges 10, 0, 1, 2 and 12. -/
def joined (f : Time → Time) : State :=
  let s := [10, 0, 1, 2, 12].foldl (fun s e => s.updEdge e (fun x => { x with state := .inService })) (timed false f)
  { s with domains := s.domains ++ [⟨.io1, true, false⟩] }

theorem witness_TimeEventsComplete_edges : (timed false id).io1Up = false ∧ (joined id).io1Up = true ∧
    (joined (fun t => { t with source := 0, lastPps := some 0, tod := some 1 })).io1Up = true ∧
    (advanceTo (1000000000 : Word).toNat (joined id)).time.onTime
      (((1000000000 : Word).toNat : Int) - (advanceTo (1000000000 : Word).toNat (joined id)).time.ppsDelay + (advanceTo (1000000000 : Word).toNat (joined id)).clk.slew) = true ∧
    (advanceTo (1000000000 : Word).toNat (joined id)).time.tod = none ∧
    (let v := advanceTo (1000000000 : Word).toNat (joined (fun t => { t with source := 0, lastPps := some 0, tod := some 1 }))
     v.time.onTime (((1000000000 : Word).toNat : Int) - v.time.ppsDelay + v.clk.slew) = true ∧ v.time.tod = some 1 ∧ v.time.source = 0) := by decide +kernel

theorem witness_TimeEventsComplete_pins : (timed false (fun t => { t with tenOk := true })).time.tenOk = true ∧ (timed false (fun t => { t with tenOk := true })).time.source ≠ 0 ∧
    (timed false (fun t => { t with tenOk := true, ppsOk := true, source := 0, lastPps := some 7 })).time.source = 0 ∧
    (timed false (fun t => { t with tenOk := true, ppsOk := true, source := 0, lastPps := some 7 })).time.lastPps = some 7 := by decide +kernel

/-- A Sync of package 6, whose time this package follows. -/
def sync6 (hops : Nat) : SyncMsg := ⟨3, 0, hops, 6, 100, 2500, [⟨6, 1, true⟩]⟩
def following : State := (timed true (fun t => { t with ptpOk := true, srcAddr := 6 })).updPeer 6 (fun p => { p with priority := 1 })

theorem witness_TimeEventsComplete_sync : ∀ h ∈ [0, 2], let s := following.setLevel 1 { level1 true with ready := [5, 6] }
    let v := learnSource (sync6 h) (s.updLink 0 (fun l => { l with oneWay := 2500 }))
    (s.link 0).state = .up ∧ s.outerLevel.isSome = true ∧ s.isSelf (sync6 h).source = false ∧ v.time.isSource = false ∧
    v.time.srcAddr = 6 ∧ v.time.follows 0 (h + 1) = true := by decide +kernel

theorem witness_TimeEventsComplete_rest : following.time.ptpOk = true ∧ (following.link 0).state = .up ∧ 31 < 32 ∧
    ((ready.updPort 1 (fun p => { p with linkUp := true })).port 1).linkUp = true ∧
    ((ready.updPort 1 (fun p => { p with linkUp := true })).port 1).hostDown = false ∧ 1 ≠ ready.time.ptmPort ∧ ready.time.ptmFails < 3 ∧
    (timed false (fun t => { t with cls := .holdover })).time.cls = .holdover ∧ (timed false (fun t => { t with cls := .holdover })).leads = true ∧
    ready.outerLevel = none ∧ (timed false (fun t => { t with cls := .locked })).time.cls.ok = true := by decide +kernel

theorem witness_TimeEventsComplete_loss : let v := advanceTo (following.time.lastSync + 4 * following.time.interval) following
    v.outerLevel.isSome = true ∧ v.time.isSource = false := by decide +kernel

/-! ### Host ports and hinges -/

/-- An edge of the package, changed. -/
def onEdge (e : Nat) (f : Edge → Edge) : State := ready.updEdge e f

theorem witness_PortAndHingeEventsComplete_ports : ready.portPower 0 = true ∧ ready.start.phase ≠ .stopped ∧
    ((ready.updPort 0 (fun p => { p with hostDown := true })).port 0).hostDown = true ∧ (ported.port 0).linkUp = true := by decide +kernel

theorem witness_PortAndHingeEventsComplete_lane : ∀ lane ∈ [0, dataLanes 0 + spareLanes 0 - 1], ∀ st ∈ [EdgeState.inService, .retraining],
    ((onEdge 0 (fun x => { x with state := st })).edge 0).state = st ∧ lane < dataLanes 0 + spareLanes 0 ∧
    (∀ f ∈ ((onEdge 0 (fun x => { x with state := st })).edge 0).lanes, ¬ (f.dir = 1 ∧ f.lane = lane)) := by decide +kernel

theorem witness_PortAndHingeEventsComplete_retrain : let s := onEdge 0 (fun x => { x with state := .inService, due := some 7 })
    (s.edge 0).due = some 7 ∧ s.edgeWaits 0 = false ∧ (s.updEdge 1 (fun x => { x with state := .retraining })).edgeWaits 0 = true := by decide +kernel

/-- An edge in a retrain, with failed lanes in `n` groups. -/
def retraining (n groups : Nat) : State :=
  onEdge 0 (fun x => { x with state := .retraining, groups, lanes := (List.range n).map (fun g => { dir := 0, lane := 32 * g, met := true }) })

theorem witness_PortAndHingeEventsComplete_done : ((retraining 0 16).edge 0).width 0 = some 16 ∧ ((retraining 1 16).edge 0).width 0 = some 8 ∧
    ((retraining 9 16).edge 0).width 0 = none ∧ ((retraining 0 16).edge 0).groups = 16 ∧ ((retraining 0 16).edge 0).state = .retraining := by decide +kernel

/-! ### Power and heat (chapter 14) -/

theorem witness_PowerEventsComplete : ready.start.phase ≠ .vestibule ∧ ready.wattsOk (bits (1200 + 2 ^ 16 : Word).toNat 15 0) = true ∧
    bits (1200 + 2 ^ 16 : Word).toNat 19 16 = 1 ∧ ready.variant.hasTile 7 = true ∧ (ready.tile 0).inService = true ∧
    ((ready.updTpower 0 (fun x => { x with guard := true })).tpower 0).guard = true ∧ ready.variant.hasDomain (.tile 0) = true ∧
    (∀ x ∈ ready.domains, ¬ (x.dom = .tile 0 ∧ x.lost = true)) ∧ ready.resetLow = false ∧ ({ ready with domains := [] } : State).powered .io0 = false ∧
    ({ ready with domains := [⟨.tile 0, true, false⟩, ⟨.io1, true, false⟩] } : State).powered (.tile 0) = true ∧
    ({ ready with domains := [⟨.tile 0, true, false⟩, ⟨.io1, true, false⟩] } : State).powered .io1 = true ∧
    ready.powered .io0 = true ∧ ready.start.phase ≠ .stopped := by decide +kernel

/-- Window 4 s is 4 in PWR_LIMIT's bits 19:16 (14 R457). -/
theorem test_limit_write : ((after (.pwrBmcCapWrite .bar0 offPwrLimit (1500 + 4 * 2 ^ 16)) ready).power.limitW,
    (after (.pwrBmcCapWrite .bar0 offPwrLimit (1500 + 4 * 2 ^ 16)) ready).power.windowS) = (1500, 4) := by decide +kernel

/-! ### Start, reset and security (chapter 15) -/

/-- What the environment gives a first start stage. -/
def env0 (romOk : Bool) : StageEnv := ⟨romOk, true, 2, 255, 0, 0, [], [], 255, 0, [], [], [], 255, none, 0, []⟩

theorem witness_StartAndSecurityEventsComplete_stage : State.reset.starting = true ∧ (runStage (env0 true) State.reset).2 = none ∧
    (runStage (env0 false) State.reset).2.isSome = true ∧ ({ State.reset with start := { State.reset.start with stage := 1 } } : State).starting = true ∧
    ({ State.reset with start := { State.reset.start with phase := .stopped } } : State).powered .io0 = true ∧ ready.start.phase = .ready ∧
    ready.powered .io0 = true ∧ ready.resetLow = false ∧
    ({ State.reset with start := { State.reset.start with phase := .vestibule, cleared := true } } : State).start.cleared = true := by decide +kernel

/-- The first stage passes, and a boot ROM that fails its check stops the package (15 R464, R466). -/
theorem test_stage_rom : (after (.startStage (env0 true)) State.reset).start.stage = 1 ∧ (after (.startStage (env0 false)) State.reset).start.phase = .stopped := by
  decide +kernel

/-- An update with a source, and an image that is good or of a lower version. -/
def updating (busy trial : Bool) : State :=
  { ready with start := { ready.start with fwSrc := 0, fwLen := 4096, fwBusy := busy, trial, fwImage := ⟨true, true, 3, shippedPlan, [], []⟩ },
               flash := ready.flash.setBank { ready.flash.bank with trial, tried := trial, highest := 2 } }

theorem witness_StartAndSecurityEventsComplete_update : (updating false false).fwResult ⟨true, true, 2, shippedPlan, [], []⟩ = none ∧
    (updating false false).fwResult ⟨true, true, 1, shippedPlan, [], []⟩ = some 2 ∧ (updating true false).start.fwBusy = true ∧
    (updating false true).start.trial = true ∧ (updating false true).flash.bank.trial = true ∧ (updating false true).flash.bank.tried = true ∧
    (updating false true).flash.bank.committed = false ∧ bit (0x102 : Word).toNat 8 = true ∧ bits (0x102 : Word).toNat 1 0 = 2 := by decide +kernel

/-- Compaction drops a repaired row's older record but the newest of its kind, and keeps what is in force (15 R481). -/
theorem test_compact :
    let r (type data : Nat) : RepairRecord := ⟨type, 0, 1, 0, 0, data⟩
    keepInForce (markSuperseded [r 9 1, r 9 2, r 0x0A 1, r 0x0A 2, r 9 3]) = [r 9 2, r 0x0A 1, r 0x0A 2, r 9 3] ∧
    ({ repairs := [r 0x0D 0] } : Flash).journals = [(0, 1, true)] ∧ ({ repairs := [r 0x10 5, r 0x0F 5] } : Flash).failingRows 0 = [((1, 5), 1)] := by
  decide +kernel

/-- A repair that a later record follows and none supersedes. -/
theorem witness_StartAndSecurityEventsComplete_compact :
    let r (type data : Nat) : RepairRecord := ⟨type, 0, 1, 0, 0, data⟩
    ({ repairs := [r 9 1, r 0x0A 1, r 9 3] } : Flash).repairs = [r 9 1] ++ r 0x0A 1 :: [r 9 3] ∧ ∀ x ∈ [r 9 3], x.supersedes (r 0x0A 1) = false := by
  decide +kernel

/-- A reset while the record is written leaves a record whose CRC holds in force (15 R485). -/
theorem witness_StartAndSecurityEventsComplete_tear : (updating true false).start.fwBusy = true ∧
    (updating true false).flash.copy0 = (updating true false).flash.copy1 ∧ (updating true false).flash.copy1.good = true := by decide +kernel

theorem test_bank_copies :
    ({ copy0 := { count := 3, good := false }, copy1 := { count := 2 } } : Flash).bank.count = 2 ∧
    ({ copy0 := { count := 3 }, copy1 := { count := 2 } } : Flash).bank.count = 3 := by decide +kernel

/-! ### Rules of the spec -/

/-- The largest numbers and the sums past them (05 R175). -/
theorem witness_AttarAddition : ((2 ^ 127 - 3 : Int) + 1).natAbs ≤ 2 ^ 127 - 2 ∧ 2 ^ 127 - 2 < ((2 ^ 127 - 2 : Int) + 1).natAbs ∧
    2 ^ 127 - 2 < (-(2 ^ 127 - 2 : Int) + -1).natAbs ∧ Attar.add (.num (2 ^ 127 - 2)) (.num 1) = .satP ∧
    Attar.add (.num (-(2 ^ 127 - 2))) (.num (-1)) = .satN := by decide +kernel

/-- Subnormal, normal and largest codes of formats of several widths are the rounding of their values (05 R161, R180). -/
theorem test_round_codes : [Fmt.fp32, .bf16, .fp16].all (fun f => f.isTarget && !f.isMx && [1, 2 ^ (f.bits - 1) + 1, 2 ^ (f.bits - 2)].all (fun c =>
    match decodeElem f c with
    | .fin neg m e => m != 0 && roundNum f .rne 0 (.fin neg m e) == c
    | _ => false)) = true := by decide +kernel

/-- Two groupings of three terms, one of them not a number. -/
def leaves3 (l : Bool) (a b c : Attar) : SumTree := if l then .node (.node (.leaf a) (.leaf b)) (.leaf c) else .node (.leaf c) (.node (.leaf b) (.leaf a))

theorem witness_AttarSumOrderFree : (leaves3 true (.num (2 ^ 96 - 1)) .satP (.num (-5))).leaves.isPerm (leaves3 false (.num (2 ^ 96 - 1)) .satP (.num (-5))).leaves = true ∧
    (leaves3 true (.num (2 ^ 96 - 1)) .satP (.num (-5))).leaves.length < 2 ^ 31 ∧ (2 ^ 96 - 1 : Int).natAbs < 2 ^ 96 ∧
    (leaves3 true (.num (2 ^ 96 - 1)) .satP (.num (-5))).sum = (leaves3 false (.num (2 ^ 96 - 1)) .satP (.num (-5))).sum ∧
    (leaves3 true (.num 7) (.num 8) (.num (-5))).sum = .num 10 := by decide +kernel

/-- A command that waits for token 3 to reach 2³² − 1. -/
def waits : Entry := waiting 0 [(0x0A, 0x40), (0x10, 3), (0x14, 2 ^ 32 - 1)]

theorem witness_TokenRules : waits.waitEn = true ∧ waits.phase = .waiting ∧ waits.waitDone = none ∧ waits.readyAt = none ∧
    (holding waits).entry? cmd0 = some waits ∧ canonical (holding waits) = true ∧ (CmdResult.of sDiscarded).status = sDiscarded ∧
    (waitHolds (ctxWith [waits]) waits, waitHolds { ctxWith [waits] with tokens := Table.put {} [] waits.waitIdx { count := 0x7FFFFFFE } } waits,
      waitHolds { ctxWith [waits] with tokens := Table.put {} [] waits.waitIdx { count := 0x7FFFFFFF } } waits) = (true, true, false) := by decide +kernel

theorem witness_IssueLimitSteps : canonical (onCore (fun k => { k with limit := 0, target := 20 })) = true ∧
    ((onCore (fun k => { k with limit := 0, target := 20 })).core 0 0).limit < ((onCore (fun k => { k with limit := 0, target := 20 })).core 0 0).target ∧
    8 ≤ ({ limit := 0 } : Core).limit + 8 ∧ ({ limit := 0 } : Core).limit + 8 < 9 ∧ (ready.core 0 0).target ≤ (ready.core 0 0).limit := by decide +kernel

theorem witness_RowsUnderLimit : (64 : Nat) ≤ 64 ∧ (3 : Nat) ≤ 70 ∧ rowsUnder 8 3 70 = ((List.range 67).filter (fun i => decide ((3 + i) % 64 * 8 / 64 < ((3 + i) % 64 + 1) * 8 / 64))).length := by
  decide +kernel

/-- A full list of numbers, and one short of full. -/
theorem witness_AppliedAtMostOnce : (7 : Nat) ∈ Table.get [] ({ ready.gang with seen := [(4, [6, 7])] } : Gang).seen 4 ∧
    (List.replicate 4096 0).length = 4096 ∧ (List.replicate 4095 0).length < 4096 := by decide +kernel

/-- The fault ring with `n` records that software has not consumed. -/
def ring (n : Nat) (held : List FltRecord) : State := { ready with flt := { ready.flt with tail := BitVec.ofNat 32 n, held } }

/-- A record of a class. -/
def record (cls : Nat) : FltRecord := { seq := 0, cls, code := 1 }

theorem witness_FaultRing : 1024 ≤ (ring 1024 []).flt.count ∧ (ring 1023 []).flt.count < 1024 ∧ (record 8).cls = 8 ∧ (record 7).cls ≠ 8 ∧
    (ring 1023 [record 8]).flt.held = record 8 :: [] := by decide +kernel

theorem witness_MeasurementRegisters : ready.start.mrs.length = 8 ∧ 7 < 8 ∧ (6 : Nat) ≠ 7 := by decide +kernel

theorem witness_ThermalLimits : [703, 704, 752, 759, 760].map lSillOf = [64, 64, 16, 9, 8] ∧ [815, 816, 839, 840].map (lDieOf 64) = [64, 64, 64, 8] ∧
    [815, 816, 839, 840].map (lDieOf 8) = [64, 8, 8, 8] ∧ canonical ready = true ∧ ready.variant.hasTile 7 = true ∧ 799 < 800 ∧ 879 < 880 := by decide +kernel

/-- Each kind of command of the frame statement answers a next state. -/
theorem witness_CommandFrames : ∀ i ∈ [Instr.flitReceive 0 ⟨0, 0, true, 0, 0, []⟩, .linkTrainingRetry 0 true, .laserDrain 0 true, .laserDrained 0, .laserModuleInsert 0 0,
    .pcieLinkUp 0 6 16 true, .pcieEvtWrite 0 7, .ptpAnnounce, .ppsOutPulse, .pwrBmcCapWrite .i3c offBmcCap 1500, .currentGuardEnd 0, .clear,
    .fwUpdateDone true, .commit, .fence 0 0 true true, .uberrInfoWrite 0 0 (.info false 1), .progNop 0 0, .progLoop 0 0, .progEndloop 0 0, .progDrain 0 0,
    .streamSwap 0 0, .keepWarmGap 0 0 0, .coreCold 0 0, .louvreSlot 0, .issueLimitStep 0 0, .entdaa 9, .setdasa 0x30 9, .setnewda 9 10, .bypass 0,
    .idcode 0, .samplePreload 0 1 2, .extest 0, .extestPulse 0, .extestTrain 0], (match exec i (lit id) with | .next _ => true | _ => false) = true := by decide +kernel

theorem witness_CommandFrames_security : (∃ t, exec (.fwUpdateStart ⟨true, true, 3, shippedPlan, [], []⟩) (updating false false) = .next t) ∧
    (∃ t, exec (.mrExtend 0x100) ready = .next t) := ⟨next_of (by decide +kernel), next_of (by decide +kernel)⟩
/-! ### The other cases of the statements' clauses -/

/-- A RED_ALLREDUCE that has asked for its lines, one of them still queued or none. -/
def reducing (reads : List PcRead) : State :=
  (ready.setCtx 0 (ctxWith [{ going 0x1801 [] with asked := true }])).updPc 0 0 (fun q => { q with reads })

theorem witness_BarrierAndCollectivesFinish_served :
    Running (reducing []) cmd0 0x1801 { going 0x1801 [] with asked := true } ∧
    (askReads cmd0 { going 0x1801 [] with asked := true } (markLate ⟨cmd0, false⟩ { going 0x1801 [] with asked := true } (reducing []))).readsFor cmd0 = false ∧
    (askReads cmd0 { going 0x1801 [] with asked := true } (markLate ⟨cmd0, false⟩ { going 0x1801 [] with asked := true }
      (reducing [{ read0 with who := .command cmd0 0 }]))).readsFor cmd0 = true ∧
    (askReads cmd0 (going 0x1801 []) (markLate ⟨cmd0, false⟩ (going 0x1801 []) (atWork 0x1801 []))).readsFor cmd0 = false ∧
    (RedRun.run { s := reducing [], id := cmd0, e := { going 0x1801 [] with asked := true } } []).1.overfull = false ∧
    (RedRun.copy { s := reducing [], id := cmd0, e := { going 0x1801 [] with asked := true } } (fun q _ => q)).1.overfull = false := by
  refine ⟨⟨rfl, rfl, ?_⟩, ?_, ?_, ?_, ?_, ?_⟩ <;> decide +kernel

/-- A TIME_SOURCE command of input 0 in a package whose I/O die 1 works, and in one where it does not. -/
theorem witness_PowerTimeSecurityCommandsFinish_input :
    let s := { joined id with ctxs := (atWork 0x2402 []).ctxs, gang := ready.gang }
    Running s cmd0 0x2402 (going 0x2402 []) ∧ fieldOf (going 0x2402 []).pkt 0x20 1 = 0 ∧ s.outerLevel = none ∧ s.inputUp 0 = true ∧
    (atWork 0x2402 []).inputUp 0 = false := by
  refine ⟨⟨rfl, rfl, ?_⟩, ?_, ?_, ?_, ?_⟩ <;> decide +kernel

/-- An op whose signal is already made, one whose pane fault fails its run, and a run that goes on. -/
theorem witness_ProgramTokens_signalled : ({ opDoneAt 0 .mov with signalled := true } : OpRec).signalled = true ∧ (opDoneAt 0 .mov).signalled = false ∧
    ({ run0 with ops := [{ opDoneAt 0 .mx with failed := true }] } : Inst).paneFault = true ∧ run0.paneFault = false ∧ run0.cut = false ∧
    (releaseRun 0 0 [] (stopping.core 0 0) run0 (prog [wordOf 0x0803 []]) stopping).overfull = false := by decide +kernel

/-- A row that has been served gives its output, and the rows asked for then find room. -/
theorem witness_GatherAndAdderEventsComplete_output : let x := gatherExec (gatherOp false)
    let g := ((gatherOp false).ga.getD {})
    let y := ({ x with s := x.s.unkeep 0 } : Exec).tryOut { g with poss := g.poss.set 0 { index := 0, addr := some 0, asked := true, arrived := true, data := List.replicate 64 0 } } 0
    y.1.err = none ∧ (y.1.askRows y.2).1.s.overfull = false := by decide +kernel

/-- The same gather with its 300 indices in home memory, and a second one queued behind it. -/
def aheadEntry : Entry :=
  { prog gatherWords with image := { words := gatherWords, descs := [tableDesc, bytesOfNat 64 (0x0E * 2 ^ 8 + 2 ^ 16 + 0xFFFF * 2 ^ 32 + 4096 * 2 ^ 64 + 300 * 2 ^ 128), []] }, segs := [⟨1, 0x400000, 0, 0⟩] }

/-- Its run. -/
def aheadRun : Inst := { gatherRun fullOp with ops := [fullOp, { opAt 0 .ga with num := 1 }] }

/-- The package with it. -/
def aheadState : State := (ready.setCtx 0 (ctxWith [aheadEntry])).updCore 0 0 (fun k => { k with run := some aheadRun, state := .running, warm := true })
theorem witness_GatherAndAdderEventsComplete_index :
    (aheadOf aheadState (aheadState.core 0 0) aheadRun aheadEntry 0 0 257).map (fun r => (r.addr, r.index)) = some (0, some (4096, 4)) ∧
    aheadRun.gaCurrent = some fullOp ∧ aheadState.linesPending (.ahead 0 0) 4096 4 = false ∧
    (let x := Exec.of aheadState (aheadState.core 0 0) aheadRun 0 0 aheadEntry fullOp
     decide ((fullOp.ga.getD {}).slotEnd (x.table 0).t.dims x.isBag ≤ 257) && decide (257 < (fullOp.ga.getD {}).slotEnd (x.table 0).t.dims x.isBag + 64)) = true := by
  decide +kernel

/-- A line that a queued write covers, and one that is read from its stack. -/
theorem witness_GatherAndAdderEventsComplete_served : let w := member.updPc 0 0 (fun q => { q with writes := [0] })
    (w.demandRead (.remote ⟨4, 0⟩ w.freshTag 0 (List.replicate 64 0)) 0 64).linesPending (.remote ⟨4, 0⟩ w.freshTag 0 (List.replicate 64 0)) 0 64 = false ∧
    (member.demandRead (.remote ⟨4, 0⟩ member.freshTag 0 (List.replicate 64 0)) 0 64).linesPending (.remote ⟨4, 0⟩ member.freshTag 0 (List.replicate 64 0)) 0 64 = true ∧
    member.homeBytesAt 0 64 = some (List.replicate 64 0) := by decide +kernel

/-- An accumulate of another package, one of this package, and one whose line the adder still waits for. -/
theorem witness_GatherAndAdderEventsComplete_adder : let s := { ready.updPc 0 0 (fun q => { q with reads := [{ read0 with who := .adder }] }) with accs := [acc0] }
    let f := { ready with accs := [{ acc0 with own := false }] }
    s.accPending acc0 = true ∧ s.localAddr acc0.addr = 0 ∧ ((s.rowOfHome 0).stack, (s.rowOfHome 0).pc) = (0, 0) ∧ (s.stack 0).inService = true ∧
    (s.pc 0 0).state ≠ .recalibrating ∧ s.nextRead 0 0 = some { read0 with who := .adder } ∧ s.accAt 0 = some (0, acc0) ∧
    f.accPending { acc0 with own := false } = false ∧ f.noRoom [0] = false ∧
    (match (readCode 0 0 (State.forwardAcc { acc0 with own := false } { f with accs := [] })).readMem 0 64 with 
      | .ok _ => true
      | .error _ => false) = true ∧
    (match (readCode 0 0 (State.forwardAcc { acc0 with own := false } { f with accs := [], poison := [0] })).readMem 0 64 with
      | .ok _ => false
      | .error er => er == .uncorrectable) = true := by
  decide +kernel
/-- A package with an edge that retrains, or none. -/
theorem witness_TierEventsComplete_stalled : (onEdge 0 (fun x => { x with state := .retraining })).stalled = true ∧ (promoting 0x7FFF).stalled = false ∧
    ((((promoting 0x7FFF).readBlock 0 15).page 0).nextCopy) = some (15, 0) ∧ ((promoting 0x7FFF).page 0).target = [] ∧
    ready.noRoom (linesOf 64 1) = false ∧ ready.stalled = false := by decide +kernel

theorem witness_HbmEventsComplete_reader : read0.who ≠ .adder ∧ ({ reading with accs := [acc0] } : State).accAt 0 = some (0, acc0) ∧ reading.accAt 0 = none ∧
    directBase ≤ directBase ∧ 64 < directBase ∧ (ready.updStack 0 (fun k => { k with temp := 8 })).calTemp 0 0 = 0 := by decide +kernel

/-- Loads: one that its buffer covers, of a home line kept or not; one under a PBMT of NC, one by the package's own address. -/
theorem witness_UlturAccessesComplete_kept : ready.accessErr 8 4 = none ∧ ready.localAddr 8 = 8 ∧ member.localAddr (2 ^ 55 + 5 * 2 ^ 40 + 8) ≠ 2 ^ 55 + 5 * 2 ^ 40 + 8 ∧
    (∀ k ∈ linesOf 8 4, k ∈ (cached.ucore 0 0).lines) ∧ cached.noRoom (linesOf 8 4) = false ∧
    (ready.accessErr (2 ^ 55 + 2 ^ 40) 8).isSome = true ∧ regionOf (ready.localAddr 8) ≠ .none := by decide +kernel

/-- A tracked store whose acknowledgement comes in time, after the timeout, or after its peer was declared down; the CSRs. -/
theorem witness_UlturErrorsComplete_late : let s := storing [] [store1]
    let late := { s with clk := { s.clk with now := 10000000 } }
    s.now < (store1.bound s).1 ∧ s.accessErr store1.addr store1.width ≠ some .timeout ∧ (store1.bound late).1 ≤ late.now ∧
    ((ready.updUcore 0 0 (fun u => { u with mideleg16 := true })).ucore 0 0).mideleg16 = true ∧
    (ready.ucore 0 0).csr false 0x7C0 = some 0 ∧ ((ready.updUcore 0 0 (fun u => { u with mideleg16 := true })).ucore 0 0).csr true 0x5C1 = some 0 := by decide +kernel
theorem witness_RegisterAccessesComplete_served : let q := tlp none 2 64 false
    (∃ bs, ported.readMem 64 (tlpSize q) = .ok bs) ∧ q.isWrite = false ∧
    (ported.demandRead (.tlp 0 ported.freshTag 64 false (List.replicate 8 0)) 64 8).linesPending (.tlp 0 ported.freshTag 64 false (List.replicate 8 0)) 64 8 = true ∧
    (let w := ported.updPc 0 0 (fun q => { q with writes := [64] })
     (w.demandRead (.tlp 0 w.freshTag 64 false (List.replicate 8 0)) 64 8).linesPending (.tlp 0 w.freshTag 64 false (List.replicate 8 0)) 64 8) = false ∧
    (∃ u, ported.writeMem 64 [1, 2] = .ok u) ∧ ported.noRoom (linesOf (ported.localAddr 64) 2) = false := by
  refine ⟨ok_of ?_, rfl, ?_, ?_, ok_of ?_, ?_⟩ <;> decide +kernel
/-- A DOWN of a link; the laser domains, I/O die 0 before service, and I/O dies too hot. -/
theorem witness_GangMessagesComplete_link : deviceArrives 0x0B 0 (dm 0x0B 0 0 (2 ^ 15)) (gangState .up (some 5) {}) = true ∧
    bit (gmValue (dm 0x0B 0 0 (2 ^ 15))) 15 = true := by decide +kernel

theorem witness_PowerEventsComplete_domains : ready.variant.hasDomain (.laser 7) = true ∧ (∀ x ∈ ready.domains, ¬ (x.dom = .laser 7 ∧ x.lost = true)) ∧
    (lit id).powered (.laser 0) = true ∧ lowReset.resetLow = true ∧ (lit id).powered .io0 = true ∧ (lit id).start.phase ≠ .running ∧
    ({ lit id with start := { ready.start with phase := .running } } : State).start.phase = .running ∧
    (∀ x ∈ (lit id).domains, ¬ (x.dom = .io1 ∧ x.lost = true)) ∧ (∀ x ∈ (lit id).domains, ¬ (x.dom = .io0 ∧ x.lost = true)) ∧ (lit id).resetLow = false ∧
    (⟨.tile 1, false, true⟩ : DomainState) ∈ ({ ready with domains := [⟨.tile 1, false, true⟩] } : State).domains ∧
    ({ lit id with start := { ready.start with phase := .stopped } } : State).powered .io0 = true := by decide +kernel

/-- A start that fails a fourth time with a torn close before it, and a CLEAR written before stage ROM (15 R470, R471). -/
def failedStarts (cleared : Bool) : State :=
  { State.reset with flash := { State.reset.flash with starts := [{ seq := 3, cause := 6, closed := true, torn := some 5 }, { seq := 2, cause := 6, closed := true, fails := 2 }] },
                     start := { State.reset.start with cleared } }

theorem test_torn_close : (failedStarts false).flash.closedFails = 3 ∧ (failedStarts false).vestibuleDue = true ∧
    (failedStarts true).vestibuleDue = false ∧ bits (failedStarts false).startStat 15 8 = 0x0A := by decide +kernel

theorem witness_PortAndHingeEventsComplete_vestibule : ({ ready with start := { ready.start with phase := .vestibule } } : State).portPower 0 = true ∧
    (let s := onEdge 0 (fun x => { x with state := .retraining }); (s.edge 0).state = .retraining) ∧
    (let s := (onEdge 0 (fun x => { x with state := .inService })).updEdge 1 (fun x => { x with state := .retraining }); (s.edge 0).state = .inService ∧ s.edgeWaits 0 = true) := by
  decide +kernel

theorem witness_LinkTrafficCompletes_nakFrom : (∀ x ∈ ([(4, ⟨0, 6, 64, []⟩)] : List (Nat × WaitMsg)), x.1 ≠ 5) := by decide +kernel

/-! ### Ill-formed commands are refused -/

/-- A command whose sequence number has no place in 32 bits. -/
def badId : CmdId := ⟨0, 0, 2 ^ 32⟩

theorem smoke_contexts_and_ids : [Instr.enable 1024, .terminate 1024, .doorbell 0 16 4 0, .doorbell 0 0 3 0, .slotReread 0 16, .sysNop badId, .sysNop ⟨1024, 0, 0⟩,
    .sysNop ⟨0, 16, 0⟩, .redAllreduce ⟨cmd0, false⟩ [⟨0, 0, [], false⟩], .redAllreduce ⟨cmd0, true⟩ [⟨0, 1, [.core 8 0], false⟩], .sysSelftest cmd0 [⟨11, 0, 0, false, false⟩],
    .sysSelftest cmd0 [⟨0, 0, 0, true, true⟩], .sysSelftest cmd0 [⟨0, 8, 0, false, false⟩], .stewardRestart [3, 1024]].map Instr.wf = List.replicate 14 false := by decide

theorem smoke_units : [Instr.commandDispatch cmd0 0 64, .progNop 8 0, .keepWarmGap 0 64 0, .keepWarmGap 0 0 257, .louvreSlot 8, .unitFence (.edge 14), .unitFence (.link 32), .unitFence (.sill 8),
    .hbmReadServe 0 0 73, .hbmReadServe 0 64 0, .scrubRead 0 73, .scrubRead (2 ^ 56) 0, .granuleMove 196608, .migrationCopy (2 ^ 40), .thermalRead 10 0 0,
    .domainLost (.tile 8), .domainPowerGood (.laser 8), .accumulateApply ⟨0, 73⟩, .preemptRelease 0 ⟨64, [], 0⟩, .mapoutGranuleStep ⟨8, true⟩].map Instr.wf
    = List.replicate 20 false := by decide

theorem smoke_accesses : [Instr.registerWrite .core (2 ^ 28) 4 0, .registerWrite .core 0 2 0, .registerReadClear .core 0 3, .shutterNarrowStore 0 4 0,
    .shutterNarrowStore 1 2 0, .remoteGatherRequest ⟨0x7FFF, 0⟩ 0 64, .remoteGatherRequest ⟨0, 32⟩ 0 64, .remoteGatherRequest ⟨0, 0⟩ (2 ^ 40) 64,
    .remoteGatherRequest ⟨0, 0⟩ 0 0, .staleEpochForward 0 256 [0], .staleEpochForward 0 0 (List.replicate 65 0), .writeQueueEnter 0 [],
    .hostLoad 0 8 0 8 ⟨.plain, false, 0⟩, .hostStore 0 0 0 3 ⟨.plain, false⟩ 0, .writeAck 0 0 16, .hostLoad 0 0 0 8 ⟨.plain, true, 73⟩,
    .hostLoad 0 0 0 2 ⟨.lr, false, 0⟩, .hostLoad 0 0 0 8 ⟨.sc, false, 0⟩, .hostStore 0 0 0 2 ⟨.amo .swap, false⟩ 0, .hostStore 0 0 0 8 ⟨.fetch, true⟩ 0,
    .completionTimeout (.command cmd0 16 0 0), .completionTimeout (.store 0 8 0), .pwrBmcCapWrite .i3c (2 ^ 28) 0].map Instr.wf
    = List.replicate 23 false := by decide

theorem smoke_links_and_ports : [Instr.flitReceive 32 ⟨0, 0, true, 0, 0, []⟩, .flitReceive 0 ⟨4096, 0, true, 0, 0, []⟩, .flitReceive 0 ⟨0, 4096, true, 0, 0, []⟩,
    .flitReceive 0 ⟨0, 0, true, 0, 513, []⟩, .nakReceive 0 4096, .wavelengthFailure 0 ⟨9, false⟩, .laserModuleInsert 0 512,
    .messageForward ⟨2 ^ 15, 0, 0, .rs, 0, 0, 0, 0, 0⟩, .messageForward ⟨0, 0, 0, .rq, 0, 0, 0, 0, 32⟩, .remoteRequest ⟨0x7FFF, 0⟩ 0 (.read 0 1),
    .gangSend 7, .assign 0 [0], .leaveEffect 0 0, .leaveEffect 4 0, .hostDown ⟨4, false⟩, .pcieLinkUp 0 7 16 true, .pcieLinkUp 0 0 16 true,
    .pcieLinkUp 0 6 2 true, .vfFlr 0 16, .laneFailure 14 0 0, .laneFailure 0 2 0, .hingeRetrain 0 ⟨0, 2 ^ 16, 0⟩, .hingeCtrlRetrain ⟨14, ⟨0, 0, 0⟩⟩,
    .hostTlp 0 (tlp none 2 0 true 4097), .powerMeasure [0], .powerControl [64], .startStage (env0 true),
    .fwUpdateStart ⟨true, true, 0, [], [], []⟩, .bypass 2].map Instr.wf = List.replicate 29 false := by decide

/-- Each of those checks passes a command at the end of its range. -/
theorem smoke_well_formed : [Instr.enable 1023, .doorbell 1023 15 8 0, .sysNop ⟨1023, 15, 2 ^ 32 - 1⟩, .sysSelftest cmd0 [⟨10, 7, 0, true, false⟩], .progNop 7 63,
    .keepWarmGap 7 63 0, .hbmReadServe 7 63 72, .granuleMove 196607, .registerWrite .core (2 ^ 28 - 8) 8 0, .hostLoad 7 7 (2 ^ 56 - 8) 8 ⟨.plain, true, 72⟩,
    .hostLoad 0 0 0 4 ⟨.lr, false, 0⟩, .hostStore 0 0 0 4 ⟨.sc, false⟩ 0, .remoteGatherRequest ⟨0x7FFE, 31⟩ (2 ^ 40 - 1) 1, .scrubRead (2 ^ 40 + 2 ^ 34 - 1) 72,
    .flitReceive 31 ⟨4095, 4095, false, 0, 512, [4096]⟩, .gangSend 6, .assign 31 gmAssign, .hostDown ⟨3, true⟩, .pcieLinkUp 3 6 16 true, .laneFailure 13 1 0,
    .hingeRetrain 13 ⟨8, 2 ^ 16 - 1, 0⟩, .hostTlp 3 (tlp (some 15) 0 0 false 4096),
    .startStage { env0 true with tileFeats := List.replicate 8 0x7FF, hinges := List.replicate 14 ⟨8, 0, 0⟩ },
    .fwUpdateStart ⟨true, true, 1, shippedPlan, [], []⟩, .bypass 1].all Instr.wf = true := by
  decide +kernel

/-- No row of the table has bits: no word spells a command. -/
theorem test_no_words : decodeTableWord 32 0 = none ∧ State.reset.withFetchWord 32 0 = State.reset := by decide +kernel

end Sys2Proof.Tests
end

section
/-! SUPPORT. Operations that leave the table of contexts as it is: memory writes, messages, the FLT log, the tier's moves, and
runs that leave their cores. -/

namespace Sys2Proof.Machine

/-- A fold of operations that leave the contexts alone leaves them alone. -/
theorem foldl_ctxs {β : Type} {g : State → β → State} (hg : ∀ u x, (g u x).ctxs = u.ctxs) :
    ∀ (l : List β) (s : State), (l.foldl g s).ctxs = s.ctxs
  | [], _ => rfl
  | x :: l, s => (foldl_ctxs hg l (g s x)).trans (hg s x)

/-- A fold that has given up stays without a result. -/
theorem foldl_none {α β : Type} {g : Option α → β → Option α} (hnone : ∀ x, g none x = none) :
    ∀ l : List β, l.foldl g none = none
  | [] => rfl
  | x :: l => by rw [List.foldl_cons, hnone, foldl_none hnone l]

/-- The same of a fold that carries a result beside the state and may give up. -/
theorem foldl_option_ctxs {β γ : Type} {g : Option (State × γ) → β → Option (State × γ)} (hnone : ∀ x, g none x = none)
    (hg : ∀ {u c x t d}, g (some (u, c)) x = some (t, d) → t.ctxs = u.ctxs) :
    ∀ {l : List β} {s t : State} {c d : γ}, l.foldl g (some (s, c)) = some (t, d) → t.ctxs = s.ctxs
  | [], s, t, c, d, h => by
    cases h
    rfl
  | x :: l, s, t, c, d, h => by
    rw [List.foldl_cons] at h
    match hx : g (some (s, c)) x with
    | some (u, b) =>
      rw [hx] at h
      exact (foldl_option_ctxs hnone hg h).trans (hg hx)
    | none =>
      rw [hx, foldl_none hnone] at h
      cases h

/-- With the same table, every context reads as before. -/
theorem State.ctx_of_ctxs {s t : State} (h : t.ctxs = s.ctxs) (n : Nat) : t.ctx n = s.ctx n := by
  rw [State.ctx, State.ctx, h]

/-! ### Memory -/

@[simp] theorem State.backInvalidate_ctxs (s : State) (ls : List Nat) : (s.backInvalidate ls).ctxs = s.ctxs := by
  rw [State.backInvalidate]
  split <;> rfl

@[simp] theorem State.dropLines_ctxs (s : State) (a n : Nat) : (s.dropLines a n).ctxs = s.ctxs := by
  simp only [State.dropLines]
  split
  · exact (foldl_ctxs (by intros; rfl) _ _).trans (State.backInvalidate_ctxs s _)
  · exact State.backInvalidate_ctxs s _

@[simp] theorem State.markBlock_ctxs (s : State) (b : Nat) : (s.markBlock b).ctxs = s.ctxs := by
  simp only [State.markBlock]
  split
  · rfl
  · split <;> rfl
  · split <;> rfl
  · split <;> rfl
  · split <;> rfl

@[simp] theorem State.storeLocal_ctxs (s : State) (a : Nat) (bs : List Byte) : (s.storeLocal a bs).ctxs = s.ctxs := by
  simp only [State.storeLocal, State.dropLines_ctxs]
  split
  · exact foldl_ctxs State.markBlock_ctxs _ s
  · rfl

@[simp] theorem State.poke_ctxs (s : State) (a : Nat) (bs : List Byte) : (s.poke a bs).ctxs = s.ctxs := by
  rw [State.poke]
  split
  · rfl
  · rfl
  · split
    · rfl
    · exact State.storeLocal_ctxs ..
  · exact State.storeLocal_ctxs ..

/-- A write that memory takes leaves the contexts alone. -/
theorem State.writeMem_ctxs {s t : State} {a : Nat} {bs : List Byte} (h : s.writeMem a bs = .ok t) : t.ctxs = s.ctxs := by
  simp only [State.writeMem] at h
  split at h
  · cases h
  · split at h <;> cases h
    exact State.poke_ctxs s a bs

@[simp] theorem State.tryWrite_ctxs (s : State) (a : Nat) (bs : List Byte) : (s.tryWrite a bs).ctxs = s.ctxs := by
  rw [State.tryWrite]
  split
  · exact State.writeMem_ctxs ‹_›
  · rfl

/-- The confirmation of a command's writes touches ports. -/
@[simp] theorem confirmPorts_ctxs (id : CmdId) (e : Entry) (s : State) : (confirmPorts id e s).ctxs = s.ctxs := by
  refine foldl_ctxs (fun u p => ?_) _ s
  split <;> rfl

/-! ### Messages and the FLT log -/

@[simp] theorem sendMsg_ctxs (a d : Nat) (s : State) : (sendMsg a d s).ctxs = s.ctxs := State.tryWrite_ctxs ..

@[simp] theorem contextMsg_ctxs (n d : Nat) (s : State) : (contextMsg n d s).ctxs = s.ctxs := by
  simp only [contextMsg]
  split
  · rfl
  · exact sendMsg_ctxs ..

@[simp] theorem preemptMsg_ctxs (n : Nat) (s : State) : (preemptMsg n s).ctxs = s.ctxs := by
  simp only [preemptMsg]
  split
  · exact contextMsg_ctxs ..
  · rfl

@[simp] theorem fltPlace_ctxs (r : FltRecord) (s : State) : (fltPlace r s).ctxs = s.ctxs := by
  simp only [fltPlace]
  split
  · exact sendMsg_ctxs ..
  · rfl

@[simp] theorem fltAppend_ctxs (r : FltRecord) (s : State) : (fltAppend r s).ctxs = s.ctxs := by
  rw [fltAppend]
  split
  · split <;> rfl
  · exact fltPlace_ctxs r s

@[simp] theorem fltPost_ctxs (cls code unit ctx addr arg0 arg1 : Nat) (s : State) :
    (fltPost cls code unit ctx addr arg0 arg1 s).ctxs = s.ctxs := fltAppend_ctxs ..

@[simp] theorem redirectRecord_ctxs (n : Nat) (e : Entry) (r : CmdResult) (s : State) :
    (redirectRecord n e r s).ctxs = s.ctxs := fltAppend_ctxs ..

/-! ### Pages and direct pages of the Sill -/

@[simp] theorem State.writeHome_ctxs (p : Nat) (s : State) (k : Nat) : (s.writeHome p k).ctxs = s.ctxs := by
  simp only [State.writeHome]
  split <;> rfl

@[simp] theorem State.abandonPromotion_ctxs (s : State) (p : Nat) : (s.abandonPromotion p).ctxs = s.ctxs := by
  rw [State.abandonPromotion]
  split <;> rfl

@[simp] theorem State.demote_ctxs (s : State) (p : Nat) : (s.demote p).ctxs = s.ctxs := rfl

@[simp] theorem State.writeBlock_ctxs (p : Nat) (s : State) (k : Nat) : (s.writeBlock p k).ctxs = s.ctxs := by
  simp only [State.writeBlock, State.updPage_fields, State.writeHome_ctxs]

/-- Slots taken for a page, with or without a victim, leave the contexts alone. -/
theorem State.takeSlots_ctxs {p : Nat} {avoid : List Nat} : ∀ {ks : List Nat} {acc out : List SillSlot} {s t : State},
    s.takeSlots p avoid ks acc = some (t, out) → t.ctxs = s.ctxs
  | [], acc, out, s, t, h => by
    cases h
    rfl
  | k :: ks, acc, out, s, t, h => by
    simp only [State.takeSlots] at h
    split at h
    · exact State.takeSlots_ctxs h
    · split at h
      · exact State.takeSlots_ctxs h
      · split at h
        · cases h
        · split at h
          · exact (State.takeSlots_ctxs h).trans (State.demote_ctxs s _)
          · cases h

/-- The slots that a page takes anew (`redo`) come from `takeSlots`; beside them the page alone changes, or is written back. -/
@[simp] theorem State.reslot_ctxs (s : State) (p : Nat) (hit : SillSlot → Bool) (frames : List Nat) :
    (s.reslot p hit frames).ctxs = s.ctxs := by
  unfold State.reslot
  extract_lets g redo
  have hredo : ∀ {l : List SillSlot} {u : State} {out : List SillSlot}, redo l = some (u, out) → u.ctxs = s.ctxs := by
    intro l u out h
    refine foldl_option_ctxs (fun _ => rfl) ?_ h
    intro v acc x t d hstep
    dsimp only at hstep
    split at hstep
    · split at hstep
      · rename_i htake
        cases hstep
        exact (State.takeSlots_ctxs htake).trans rfl
      · cases hstep
    · cases hstep
      rfl
  split
  · split
    · rename_i hsome
      exact (hredo hsome :)
    · split
      · rfl
      · split
        · exact State.abandonPromotion_ctxs s p
        · rfl
  · split
    · split
      · rename_i hsome
        exact (hredo hsome :)
      · split <;> rfl
    · split
      · exact foldl_ctxs (State.writeBlock_ctxs p) _ s
      · rfl

@[simp] theorem State.relocate_ctxs (s : State) (p n : Nat) (frames : List Nat) : (s.relocate p n frames).ctxs = s.ctxs :=
  State.reslot_ctxs ..

/-- A frame claimed for a direct page leaves the contexts alone. -/
theorem State.claimFrame_ctxs {s t : State} {p : Nat} {c : Claim} (h : s.claimFrame p c = some t) : t.ctxs = s.ctxs := by
  simp only [State.claimFrame] at h
  split at h
  · cases h
  · cases h
    exact foldl_ctxs (fun u q => State.relocate_ctxs u q _ _) _ _

@[simp] theorem State.settleDirect_ctxs (s : State) (p : Nat) : (s.settleDirect p).ctxs = s.ctxs := by
  simp only [State.settleDirect]
  split
  · rfl
  · split
    · split
      · rfl
      · rename_i c _
        match h : (s.releaseDirect p).claimFrame p (.ctx c) with
        | none => rfl
        | some t => exact (State.claimFrame_ctxs h).trans rfl
    · rfl

@[simp] theorem State.startRelease_ctxs (s : State) (p : Nat) : (s.startRelease p).ctxs = s.ctxs := by
  rw [State.startRelease]
  split <;> rfl

@[simp] theorem State.dropHolds_ctxs (s : State) (ps : List Nat) : (s.dropHolds ps).ctxs = s.ctxs := by
  refine foldl_ctxs (fun u p => ?_) ps s
  split <;> rfl

/-! ### Runs that leave their cores -/

@[simp] theorem preemptFor_ctxs (id : CmdId) (pref : Nat × Nat) (s : State) : (preemptFor id pref s).ctxs = s.ctxs := by
  simp only [preemptFor]
  split
  · rfl
  · split
    · rfl
    · exact foldl_ctxs (by intros; rfl) _ s

@[simp] theorem preemptAll_ctxs (s : State) : (preemptAll s).ctxs = s.ctxs :=
  foldl_ctxs (fun u _ => foldl_ctxs (fun v _ => preemptFor_ctxs _ _ v) _ u) _ s

@[simp] theorem State.freeCore_ctxs (s : State) (t c : Nat) : (s.freeCore t c).ctxs = s.ctxs := by
  simp only [State.freeCore]
  split
  · rfl
  · split
    · rfl
    · rw [preemptAll_ctxs, preemptMsg_ctxs]
      rfl

@[simp] theorem State.dropRuns_ctxs (s : State) (id : CmdId) : (s.dropRuns id).ctxs = s.ctxs := by
  unfold State.dropRuns
  refine (foldl_ctxs (fun u e => foldl_ctxs (fun v q => ?_) _ u) _ _).trans (foldl_ctxs (fun u tc => ?_) _ s)
  · split <;> rfl
  · extract_lets k x
    have hx : x.ctxs = u.ctxs := by
      dsimp only [x]
      split
      · split <;> rfl
      · rfl
    split
    · split
      · exact (State.freeCore_ctxs ..).trans hx
      · exact hx
    · exact hx

@[simp] theorem endSelftest_ctxs (id : CmdId) (s : State) : (endSelftest id s).ctxs = s.ctxs := by
  rw [endSelftest]
  split <;> rfl

@[simp] theorem clearBusy_ctxs (n : Nat) (s : State) : (clearBusy n s).ctxs = s.ctxs := by
  rw [clearBusy]
  split <;> rfl

end Sys2Proof.Machine
end

section
/-! SUPPORT. Operations that change contexts and leave every context's tokens as they are: what a command's completion does beside
its signal. -/

namespace Sys2Proof.Machine

/-- From a canonical table of contexts, `t` has one too, and every context's tokens are those of `s`. -/
def State.KeepsTokens (s t : State) : Prop :=
  Table.wf ({} : Ctx) s.ctxs = true → Table.wf ({} : Ctx) t.ctxs = true ∧ ∀ n, (t.ctx n).tokens = (s.ctx n).tokens

namespace State.KeepsTokens

theorem trans {s t u : State} (h1 : s.KeepsTokens t) (h2 : t.KeepsTokens u) : s.KeepsTokens u := by
  intro hs
  obtain ⟨ht, hst⟩ := h1 hs
  obtain ⟨hu, htu⟩ := h2 ht
  exact ⟨hu, fun n => (htu n).trans (hst n)⟩

theorem of_ctxs {s t : State} (h : t.ctxs = s.ctxs) : s.KeepsTokens t :=
  fun hs => ⟨h ▸ hs, fun n => congrArg Ctx.tokens (State.ctx_of_ctxs h n)⟩

theorem refl (s : State) : s.KeepsTokens s := of_ctxs rfl

/-- A change of a context that keeps its tokens. -/
theorem updCtx (s : State) (n : Nat) {f : Ctx → Ctx} (hf : ∀ c, (f c).tokens = c.tokens := by intro; rfl) :
    s.KeepsTokens (s.updCtx n f) := by
  refine fun hs => ⟨Table.wf_put _ hs n _, fun m => ?_⟩
  by_cases hm : m = n
  · rw [hm, State.ctx_updCtx hs, hf]
  · rw [State.ctx_updCtx_other hs hm]

theorem updEntry (s : State) (id : CmdId) (f : Entry → Entry) : s.KeepsTokens (s.updEntry id f) := updCtx s _

theorem foldl {β : Type} {g : State → β → State} (hg : ∀ (u : State) (x : β), u.KeepsTokens (g u x)) :
    ∀ (l : List β) (s : State), s.KeepsTokens (l.foldl g s)
  | [], s => refl s
  | x :: l, s => (hg s x).trans (foldl hg l (g s x))

end State.KeepsTokens

theorem finishWith_keepsTokens (id : CmdId) (r : CmdResult) (s : State) : s.KeepsTokens (finishWith id r s) := by
  have hruns : (endSelftest id (s.dropRuns id)).ctxs = s.ctxs := by simp
  exact (State.KeepsTokens.of_ctxs hruns).trans (.updEntry _ id _)

theorem State.endTier_keepsTokens (s : State) (n : Nat) : s.KeepsTokens (s.endTier n) := by
  unfold State.endTier
  extract_lets loses unowned mine released m settled
  have hunowned : unowned.ctxs = s.ctxs := foldl_ctxs (by intros; rfl) _ s
  have hreleased : released.ctxs = unowned.ctxs := by
    refine foldl_ctxs (fun u e => ?_) _ unowned
    split
    · extract_lets d' u'
      split
      · exact State.startRelease_ctxs u' e.1
      · rfl
    · rfl
  have hsettled : settled.ctxs = released.ctxs := by
    dsimp only [settled]
    split
    · split
      · split
        · exact (State.settleDirect_ctxs ..).trans (State.startRelease_ctxs ..)
        · rfl
      · rfl
    · rfl
  exact .trans (.of_ctxs (hsettled.trans (hreleased.trans hunowned))) (.updCtx settled n)

/-- The end of a context's tier, after its last operation has ended. -/
theorem endTier_clearBusy_keepsTokens (n m : Nat) (s : State) : s.KeepsTokens ((clearBusy n s).endTier m) :=
  .trans (.of_ctxs (clearBusy_ctxs n s)) (State.endTier_keepsTokens _ m)

theorem terminateCtx_keepsTokens (n : Nat) (s : State) : s.KeepsTokens (terminateCtx n s) := by
  unfold terminateCtx
  extract_lets c discarded disabled
  split
  · exact .refl s
  · have hdiscarded : s.KeepsTokens discarded := by
      refine .foldl (fun u e => ?_) _ s
      split
      · exact .refl u
      · exact finishWith_keepsTokens _ _ u
    exact hdiscarded.trans <| .trans (.updCtx discarded n) (endTier_clearBusy_keepsTokens n n disabled)

theorem settleDisable_keepsTokens (n : Nat) (s : State) : s.KeepsTokens (settleDisable n s) := by
  simp only [settleDisable]
  split
  · exact .trans (.updCtx s n) (endTier_clearBusy_keepsTokens n n _)
  · exact .refl s

theorem writeRecord_keepsTokens (n : Nat) (e : Entry) (r : CmdResult) (s : State) : s.KeepsTokens (writeRecord n e r s) := by
  have hredirect : s.KeepsTokens (redirectRecord n e r s) := .of_ctxs (redirectRecord_ctxs n e r s)
  simp only [writeRecord]
  split
  · exact hredirect
  · split
    · rename_i hwrite
      exact .trans (.of_ctxs (State.writeMem_ctxs hwrite)) (.updCtx _ n)
    · exact hredirect.trans (.updCtx _ n)
    · exact hredirect.trans <| .trans (.updCtx _ n) <| .trans (terminateCtx_keepsTokens n _) (.of_ctxs (fltPost_ctxs ..))

theorem completionMsg_keepsTokens (n : Nat) (notify : Bool) (s : State) : s.KeepsTokens (completionMsg n notify s) := by
  simp only [completionMsg]
  split
  · refine .trans ?_ (.of_ctxs (contextMsg_ctxs ..))
    split
    · exact .updCtx s n
    · exact .refl s
  · exact .refl s

theorem removeEntry_keepsTokens (id : CmdId) (s : State) : s.KeepsTokens (removeEntry id s) := by
  unfold removeEntry
  extract_lets holds gone dropped
  exact .trans (.updCtx s id.ctx) <| .trans (.of_ctxs (State.dropHolds_ctxs gone holds)) (settleDisable_keepsTokens id.ctx dropped)

/-- A discarded command signals nothing (02 R57). -/
theorem signalToken_discarded (id : CmdId) (e : Entry) (s : State) : signalToken id e sDiscarded s = s := by
  simp [signalToken, Entry.signals]

/-- The record, the message and the removal of a discarded command leave every token alone. -/
theorem completeEntry_discarded_keepsTokens {r : CmdResult} (h : r.status = sDiscarded) (id : CmdId) (e : Entry) (s : State) :
    s.KeepsTokens (completeEntry id e r s) := by
  unfold completeEntry
  extract_lets confirmed shown recorded signalled sent
  have hrecorded : s.KeepsTokens recorded := by
    refine .trans (.of_ctxs (confirmPorts_ctxs id e s)) ?_
    dsimp only [recorded]
    split
    · exact .refl confirmed
    · exact writeRecord_keepsTokens id.ctx e shown confirmed
  have hsignalled : signalled = recorded := by
    dsimp only [signalled, shown, shownStatus]
    rw [h, signalToken_discarded]
  have hsent : recorded.KeepsTokens sent := hsignalled ▸ completionMsg_keepsTokens id.ctx e.notify signalled
  exact hrecorded.trans (hsent.trans (removeEntry_keepsTokens id sent))

end Sys2Proof.Machine
end

section
/-! THEOREMS. The rules of tokens (02 R54, R57). -/

namespace Sys2Proof.Machine

/-- The wait of R54 holds where the difference is not negative. -/
theorem waitHolds_iff {c : Ctx} {e : Entry} (h : e.waitEn = true) :
    waitHolds c e = true ↔ 0 ≤ ((Table.get {} c.tokens e.waitIdx).count - e.waitVal).toInt := by
  simp [waitHolds, h, BitVec.msb_eq_toInt]

/-- A wait that holds is latched at the present moment. -/
theorem latch_waitDone_of_holds {now : Nat} {c : Ctx} {e : Entry} (hp : e.phase = .waiting) (hd : e.waitDone = none)
    (h : waitHolds c e = true) : (latch now c e).waitDone = some now := by
  simp only [latch, hp, hd, h, bne_self_eq_false, Option.isNone_none, Bool.and_self, if_true, Bool.false_eq_true, if_false]
  split <;> rfl

/-- A wait that does not hold is not latched. -/
theorem latch_eq_of_not_holds {now : Nat} {c : Ctx} {e : Entry} (hd : e.waitDone = none) (h : waitHolds c e = false) :
    latch now c e = e := by
  simp [latch, hd, h]

/-- A command that is not ready is not dispatched. -/
theorem exec_commandDispatch_not_ready {id : CmdId} {t k : Nat} {e : Entry} {s : State} (he : s.entry? id = some e)
    (hr : e.readyAt = none) : exec (.commandDispatch id t k) s = .next s := by
  change execCommandDispatch id t k s = _
  simp [execCommandDispatch, he, hr]

/-- Settles O53: the wait's test is the sign of the difference, `latch` and the dispatch test the wait and readiness, and no step of the
completion of a discarded command writes a context's tokens. -/
theorem tokenRules : Obligations.TokenRules := by
  refine ⟨fun c e => waitHolds_iff, fun now c e hp hd => ⟨latch_waitDone_of_holds hp hd, fun h hr => ?_⟩,
    fun id t k e s => exec_commandDispatch_not_ready, fun id e r s hs hr => ?_⟩
  · rw [latch_eq_of_not_holds hd h]
    exact ⟨hr, hd⟩
  · exact (completeEntry_discarded_keepsTokens hr id e s hs.ctxs).2 id.ctx

end Sys2Proof.Machine
end

section
/-! SUPPORT. What a load of a host core reads: bytes as a number, the youngest buffered store to a byte, the bytes of a load, and the
rules of HOST_LOAD that rest on them (03 R119). -/

namespace Sys2Proof.Machine

/-! ### A number and its bytes -/

/-- Byte `i` of the number that bytes spell; 0 beyond them. -/
theorem natOfBytes_byte : ∀ (bs : List Byte) (i : Nat), natOfBytes bs / 2 ^ (8 * i) % 256 = (bs.getD i 0).toNat
  | [], i => by simp [natOfBytes]
  | b :: bs, 0 => by
    have := b.isLt
    simp only [natOfBytes, List.getD_cons_zero]
    omega
  | b :: bs, i + 1 => by
    have hdrop : (b.toNat + 256 * natOfBytes bs) / 256 = natOfBytes bs := by
      have := b.isLt
      omega
    rw [natOfBytes, Nat.mul_succ, Nat.add_comm (8 * i), Nat.pow_add, ← Nat.div_div_eq_div_mul, hdrop, natOfBytes_byte bs i,
      List.getD_cons_succ]

/-- The bytes of a number from bit `8 * k` on, `w` of them, spell that part of it. -/
theorem natOfBytes_slice (v : Nat) : ∀ w k : Nat,
    natOfBytes ((upTo w).map (fun i => BitVec.ofNat 8 (v / 2 ^ (8 * (k + i))))) = v / 2 ^ (8 * k) % 2 ^ (8 * w)
  | 0, k => by simp [upTo, natOfBytes, Nat.mod_one]
  | w + 1, k => by
    have htail : natOfBytes (((upTo w).map Nat.succ).map (fun i => BitVec.ofNat 8 (v / 2 ^ (8 * (k + i))))) =
        v / 2 ^ (8 * k) / 256 % 2 ^ (8 * w) := by
      rw [List.map_map, Nat.div_div_eq_div_mul, ← Nat.pow_add 2 (8 * k) 8, ← Nat.mul_succ,
        ← natOfBytes_slice v w (k + 1)]
      simp only [Function.comp_def, Nat.succ_eq_add_one, Nat.add_right_comm, Nat.add_assoc]
    rw [upTo, List.range_succ_eq_map, List.map_cons, natOfBytes, ← upTo, htail, Nat.mul_succ, Nat.add_comm (8 * w), Nat.pow_add,
      Nat.mod_mul, BitVec.toNat_ofNat, Nat.add_zero]

/-! ### The youngest store to a byte -/

/-- A store that enters the buffer is the youngest to each of its bytes, and changes nothing for the others. -/
theorem youngest_concat (l : List UStore) (x : UStore) (b : Nat) :
    youngest (l ++ [x]) b = if x.addr ≤ b ∧ b < x.addr + x.width then some l.length else youngest l b := by
  have hold : ∀ i ∈ List.range l.length, (l ++ [x])[i]? = l[i]? := fun i hi => List.getElem?_append_left (List.mem_range.mp hi)
  unfold youngest upTo
  rw [List.length_append, List.length_singleton, List.range_succ, List.filter_append,
    List.filter_congr (fun i hi => by rw [hold i hi])]
  by_cases hx : x.addr ≤ b ∧ b < x.addr + x.width
  · simp [hx]
  · simp only [hx, if_false]
    simp [← Bool.decide_and, hx]

/-- Younger stores that leave a byte out do not change which store gives it. -/
theorem youngest_append_of_avoids (l : List UStore) (b : Nat) (younger : List UStore)
    (h : ∀ y ∈ younger, y.addr + y.width ≤ b ∨ b < y.addr) : youngest (l ++ younger) b = youngest l b := by
  induction younger generalizing l with
  | nil => rw [List.append_nil]
  | cons y ys ih =>
    obtain ⟨hy, hys⟩ := List.forall_mem_cons.mp h
    rw [List.append_cons, ih _ hys, youngest_concat, if_neg (by omega)]

/-- No store gives a byte that none holds. -/
theorem youngest_eq_none {l : List UStore} {b : Nat} (h : ∀ y ∈ l, y.addr + y.width ≤ b ∨ b < y.addr) : youngest l b = none :=
  youngest_append_of_avoids [] b l h

/-- A store gives the bytes of it that no younger store holds. -/
theorem youngest_eq_some {x : UStore} {b : Nat} (older : List UStore) {younger : List UStore} (hlo : x.addr ≤ b)
    (hhi : b < x.addr + x.width) (h : ∀ y ∈ younger, y.addr + y.width ≤ b ∨ b < y.addr) :
    youngest (older ++ x :: younger) b = some older.length := by
  rw [List.append_cons, youngest_append_of_avoids _ _ _ h, youngest_concat, if_pos ⟨hlo, hhi⟩]

/-! ### The bytes of a load -/

/-- A byte that no buffered store gives comes from memory. -/
theorem loadBytes_byte_memory {l : List UStore} {a w i : Nat} (mem : List Byte) (hi : i < w) (h : youngest l (a + i) = none) :
    (loadBytes l (forwards l a w) a mem).getD i 0 = mem.getD i 0 := by
  simp [loadBytes, forwards, upTo, hi, h, List.getD_eq_getElem?_getD]

/-- A byte that a buffered store gives is that store's. -/
theorem loadBytes_byte_store {l : List UStore} {x : UStore} {a w i k : Nat} (mem : List Byte) (hi : i < w)
    (h : youngest l (a + i) = some k) (hx : l[k]? = some x) :
    (loadBytes l (forwards l a w) a mem).getD i 0 = BitVec.ofNat 8 (x.value / 2 ^ (8 * (a + i - x.addr))) := by
  simp [loadBytes, forwards, upTo, hi, h, hx, List.getD_eq_getElem?_getD]

/-- One store gives every byte of a load. -/
theorem forwards_eq_replicate {l : List UStore} {a w k : Nat} (h : ∀ i < w, youngest l (a + i) = some k) :
    forwards l a w = List.replicate w (some k) := by
  rw [forwards, upTo, List.map_congr_left (fun i hi => h i (List.mem_range.mp hi)), List.map_const', List.length_range]

/-- The bytes of a load that one store gives spell that part of the store's value. -/
theorem natOfBytes_loadBytes_replicate {l : List UStore} {x : UStore} {a w k : Nat} (mem : List Byte) (hx : l[k]? = some x)
    (ha : x.addr ≤ a) : natOfBytes (loadBytes l (List.replicate w (some k)) a mem) = x.value / 2 ^ (8 * (a - x.addr)) % 2 ^ (8 * w) := by
  rw [← natOfBytes_slice]
  congr 1
  apply List.ext_getElem
  · simp [loadBytes, upTo]
  · intro i _ _
    simp [loadBytes, upTo, hx, Nat.sub_add_comm ha]

/-- Bytes of one store need no drain. -/
theorem needsDrain_replicate (w k : Nat) : needsDrain (List.replicate w (some k)) = false := by
  cases w <;> simp [needsDrain, List.replicate_succ, List.eraseDups_cons]

/-- The tracker holds back no load whose every byte the buffer gives. -/
theorem tracks_replicate (x : UCore) (a w k : Nat) : x.tracks a (List.replicate w (some k)) = false := by
  refine List.any_eq_false.mpr fun p hp => ?_
  simp [(List.mem_replicate.mp (List.of_mem_zip hp).2).2]

/-! ### The value that a load takes -/

/-- A change of a host core keeps the canonical form of their table. -/
theorem State.updUcore_wf {s : State} (h : Table.wf ({} : UCore) s.ucores = true) (t u : Nat) (f : UCore → UCore) :
    Table.wf ({} : UCore) (s.updUcore t u f).ucores = true := Table.wf_upd {} h (8 * t + u) f

/-- A load of any kind takes the number that its bytes spell. -/
theorem giveLoad_loaded {s : State} (hs : s.Canonical) (t u a w : Nat) (kind : AccKind) (f : List (Option Nat)) :
    ((giveLoad t u a w kind f s).ucore t u).loaded = natOfBytes (loadBytes (s.ucore t u).buffer f a (s.peek a w)) := by
  have htaken : ∀ v, ((takeValue t u v s).ucore t u).loaded = v := fun v => by rw [takeValue, State.ucore_updUcore hs.ucores]
  have hwf : ∀ v, Table.wf ({} : UCore) (takeValue t u v s).ucores = true := fun v => State.updUcore_wf hs.ucores t u _
  simp only [giveLoad]
  split
  · rw [State.ucore_updUcore (hwf _), htaken]
  · exact htaken _

/-- A plain load that one buffered store gives takes its value from it, and changes nothing else. -/
theorem giveLoad_plain_replicate {t u a w k : Nat} {x : UStore} {s : State} (hx : (s.ucore t u).buffer[k]? = some x) (ha : x.addr ≤ a) :
    giveLoad t u a w .plain (List.replicate w (some k)) s = s.updUcore t u (fun y => { y with
      loaded := x.value / 2 ^ (8 * (a - x.addr)) % 2 ^ (8 * w), trap := none }) := by
  rw [giveLoad, natOfBytes_loadBytes_replicate _ hx ha]
  rfl

/-! ### HOST_LOAD -/

/-- A plain load of home, Sill direct or remote memory waits while it needs two stores or meets the tracker, and else loads. -/
theorem exec_hostLoad_memory {t u a w o errs : Nat} {nc : Bool} {s : State} (hr : s.ucoreRuns t u = true)
    (ha : regionOf a = .home o ∨ regionOf a = .direct o ∨ ∃ p, regionOf a = .remote p o) :
    exec (.hostLoad t u a w ⟨.plain, nc, errs⟩) s =
      if needsDrain (forwards (s.ucore t u).buffer a w) || (s.ucore t u).tracks a (forwards (s.ucore t u).buffer a w) then .next s
      else .next (loadMemory t u a w ⟨.plain, nc, errs⟩ (forwards (s.ucore t u).buffer a w) s) := by
  change execHostLoad t u a w ⟨.plain, nc, errs⟩ s = _
  rcases ha with ha | ha | ⟨p, ha⟩ <;> simp [execHostLoad, forbidden, isAtomic, hr, ha]

/-- A load whose every byte the store buffer gives takes its value where its local address is backed or its target is another package. -/
theorem loadMemory_buffered {t u a w o : Nat} {l : LoadOf} {f : List (Option Nat)} {s : State} (hf : f.all Option.isSome = true)
    (ha : ((regionOf a = .home o ∨ regionOf a = .direct o) ∧ s.backed a w = true) ∨ ∃ p, regionOf a = .remote p o ∧ s.isSelf p = false) :
    loadMemory t u a w l f s = giveLoad t u a w l.kind f s := by
  rcases ha with ⟨ha | ha, hb⟩ | ⟨p, ha, hp⟩
  · simp [loadMemory, State.localAddr, State.accessErr, ha, hb, hf]
  · simp [loadMemory, State.localAddr, State.accessErr, ha, hb, hf]
  · simp [loadMemory, State.localAddr, ha, hp, hf]

/-- A load from the Shutter space or an aperture waits while the store buffer holds a store. -/
theorem exec_hostLoad_waits_for_buffer {t u a w p o : Nat} {l : LoadOf} {s : State} (hr : s.ucoreRuns t u = true)
    (hok : forbidden a w l.kind = false) (ha : regionOf a = .shutter o ∨ regionOf a = .aperture p o)
    (hb : (s.ucore t u).buffer ≠ []) : exec (.hostLoad t u a w l) s = .next s := by
  change execHostLoad t u a w l s = _
  rcases ha with ha | ha <;> simp [execHostLoad, hr, hok, ha, hb]

end Sys2Proof.Machine
end

section
/-! THEOREMS. What loads take from the store buffer (03 R119). -/

namespace Sys2Proof.Machine

/-- A plain load that one buffered store covers, and no younger one touches, takes its value from it. -/
theorem exec_hostLoad_covered {t u a w o errs : Nat} {nc : Bool} {x : UStore} {older younger : List UStore} {s : State}
    (hr : s.ucoreRuns t u = true)
    (ha : ((regionOf a = .home o ∨ regionOf a = .direct o) ∧ s.backed a w = true) ∨ ∃ p, regionOf a = .remote p o ∧ s.isSelf p = false)
    (hb : (s.ucore t u).buffer = older ++ x :: younger) (hlo : x.addr ≤ a) (hhi : a + w ≤ x.addr + x.width)
    (hy : ∀ y ∈ younger, y.addr + y.width ≤ a ∨ a + w ≤ y.addr) :
    exec (.hostLoad t u a w ⟨.plain, nc, errs⟩) s = .next (s.updUcore t u (fun y => { y with
      loaded := x.value / 2 ^ (8 * (a - x.addr)) % 2 ^ (8 * w), trap := none })) := by
  have hregion : regionOf a = .home o ∨ regionOf a = .direct o ∨ ∃ p, regionOf a = .remote p o := by
    rcases ha with ⟨ha | ha, -⟩ | ⟨p, ha, -⟩
    · exact .inl ha
    · exact .inr (.inl ha)
    · exact .inr (.inr ⟨p, ha⟩)
  have hforwards : forwards (s.ucore t u).buffer a w = List.replicate w (some older.length) := by
    rw [hb]
    refine forwards_eq_replicate fun i hi => youngest_eq_some older (by omega) (by omega) fun y hmem => ?_
    have := hy y hmem
    omega
  have hget : (s.ucore t u).buffer[older.length]? = some x := by simp [hb]
  rw [exec_hostLoad_memory hr hregion, hforwards, needsDrain_replicate, tracks_replicate, Bool.or_self,
    if_neg Bool.false_ne_true, loadMemory_buffered (by simp) ha, giveLoad_plain_replicate hget hlo]

/-- Settles O37: each byte comes from the youngest store that holds it (`youngest_eq_some`, `youngest_eq_none`), and one store that gives
every byte gives the whole value. -/
theorem loadForwarding : Obligations.LoadForwarding := by
  refine ⟨fun t u a w o errs nc s hr ha hd => ?_, fun t u a w o errs nc x older younger s hr ha hb _ => exec_hostLoad_covered hr ha hb,
    fun t u a w i kind s hs hi => ⟨fun x older younger hb hlo hhi hy => ?_, fun hnone => ?_⟩,
    fun t u a w p o errs nc s hr hok ha hb => exec_hostLoad_waits_for_buffer hr hok ha hb⟩
  · rw [exec_hostLoad_memory hr ha, hd, Bool.true_or, if_pos rfl]
  · have hyoungest : youngest (s.ucore t u).buffer (a + i) = some older.length := hb ▸ youngest_eq_some older hlo hhi hy
    have hget : (s.ucore t u).buffer[older.length]? = some x := by simp [hb]
    rw [giveLoad_loaded hs, natOfBytes_byte, loadBytes_byte_store _ hi hyoungest hget, BitVec.toNat_ofNat]
  · rw [giveLoad_loaded hs, natOfBytes_byte, loadBytes_byte_memory _ hi (youngest_eq_none hnone)]

end Sys2Proof.Machine
end

section
/-! SUPPORT. The rule of R175 by cases, and the same rule without its limit on numeric sums, in which any list of attars has a
total that no order changes. -/

namespace Sys2Proof.Machine

namespace Attar

/-! ### The sum of two attars (05 R175) -/

/-- A numeric sum in range is the exact sum. -/
theorem add_num_of_le {x y : Int} (h : (x + y).natAbs ≤ 2 ^ 127 - 2) : add (.num x) (.num y) = .num (x + y) := by
  have hmax : attarMax = 2 ^ 127 - 2 := rfl
  rw [add, if_neg (by omega), if_neg (by omega)]

/-- A numeric sum out of range leaves by its sign. -/
theorem add_num_of_lt {x y : Int} (h : 2 ^ 127 - 2 < (x + y).natAbs) :
    add (.num x) (.num y) = if 0 < x + y then .satP else .satN := by
  have hmax : attarMax = 2 ^ 127 - 2 := rfl
  rcases Int.lt_or_le 0 (x + y) with hpos | hneg
  · rw [add, if_pos (by omega), if_pos hpos]
  · rw [add, if_neg (by omega), if_pos (by omega), if_neg (by omega)]

/-- NAR absorbs. -/
theorem nar_add (a : Attar) : add .nar a = .nar := by cases a <;> rfl

/-- R175 is commutative. -/
theorem add_comm (a b : Attar) : add a b = add b a := by
  cases a with
  | num x => cases b with
    | num y => simp only [add, Int.add_comm x y]
    | satP | satN | nar => rfl
  | satP | satN | nar => cases b <;> rfl

/-! ### The sum without a limit -/

/-- R175 with no limit on a numeric sum. -/
def addFree : Attar → Attar → Attar
  | .num x, .num y => .num (x + y)
  | a, b => add a b

/-- A numeric attar is at most `n` in magnitude. -/
def within (n : Nat) : Attar → Prop
  | .num w => w.natAbs ≤ n
  | _ => True

/-- The limit plays no part where the free sum lies in range. -/
theorem add_eq_addFree {a b : Attar} (h : (addFree a b).within (2 ^ 127 - 2)) : add a b = addFree a b := by
  cases a with
  | num x => cases b with
    | num y => exact add_num_of_le h
    | satP | satN | nar => rfl
  | satP | satN | nar => rfl

theorem addFree_comm (a b : Attar) : addFree a b = addFree b a := by
  cases a with
  | num x => cases b with
    | num y => simp only [addFree, Int.add_comm x y]
    | satP | satN | nar => rfl
  | satP | satN | nar => cases b <;> rfl

/-- Unlike `add`, the free sum is associative: an overflow is what could tell two groupings apart. -/
theorem addFree_assoc (a b c : Attar) : addFree (addFree a b) c = addFree a (addFree b c) := by
  cases a with
  | num x => cases b with
    | num y => cases c with
      | num z => simp only [addFree, Int.add_assoc]
      | satP | satN | nar => rfl
    | satP | satN | nar => cases c <;> rfl
  | satP | satN | nar => cases b <;> cases c <;> rfl

theorem addFree_left_comm (a b c : Attar) : addFree a (addFree b c) = addFree b (addFree a c) := by
  rw [← addFree_assoc, addFree_comm a b, addFree_assoc]

theorem num_zero_addFree (a : Attar) : addFree (.num 0) a = a := by
  cases a with
  | num w => simp only [addFree, Int.zero_add]
  | satP | satN | nar => rfl

/-- Magnitudes add at most. -/
theorem addFree_within {a b : Attar} {m n : Nat} (ha : a.within m) (hb : b.within n) : (addFree a b).within (m + n) := by
  cases a with
  | num x => cases b with
    | num y => exact Nat.le_trans (Int.natAbs_add_le x y) (Nat.add_le_add ha hb)
    | satP | satN | nar => trivial
  | satP | satN | nar => cases b <;> trivial

/-- A wider bound holds too. -/
theorem within_mono {a : Attar} {m n : Nat} (h : m ≤ n) (ha : a.within m) : a.within n := by
  cases a with
  | num w => exact Nat.le_trans ha h
  | satP | satN | nar => trivial

/-- The term bound of R173. -/
theorem within_of_isTerm {a : Attar} (h : a.isTerm) : a.within (2 ^ 96 - 1) := by
  cases a with
  | num w => exact Nat.le_sub_one_of_lt h
  | satP | satN | nar => trivial

/-! ### The total of a list -/

/-- The free sum of a list of attars. -/
def total (as : List Attar) : Attar := as.foldr addFree (.num 0)

theorem total_append (as bs : List Attar) : total (as ++ bs) = addFree (total as) (total bs) := by
  induction as with
  | nil => exact (num_zero_addFree _).symm
  | cons a as ih => exact (congrArg (addFree a) ih).trans (addFree_assoc ..).symm

/-- The total does not depend on the order. -/
theorem total_perm {as bs : List Attar} (h : as.Perm bs) : total as = total bs :=
  h.foldr_eq' (fun a _ b _ c => addFree_left_comm b a c) (.num 0)

/-- A total of terms is at most their number times the largest term. -/
theorem total_within {as : List Attar} (h : ∀ a ∈ as, a.isTerm) : (total as).within (as.length * (2 ^ 96 - 1)) := by
  induction as with
  | nil => exact Nat.le_refl 0
  | cons a as ih =>
    rw [List.forall_mem_cons] at h
    rw [List.length_cons, Nat.succ_mul, Nat.add_comm]
    exact addFree_within (within_of_isTerm h.1) (ih h.2)

/-- Fewer than 2³¹ terms stay in range (05 R177). -/
theorem total_within_of_length_lt {as : List Attar} (h : ∀ a ∈ as, a.isTerm) (hlen : as.length < 2 ^ 31) :
    (total as).within (2 ^ 127 - 2) :=
  within_mono (by omega) (total_within h)

end Attar

end Sys2Proof.Machine
end

section
/-! THEOREMS. Attar sums (05 R175, R177). -/

namespace Sys2Proof.Machine

/-- Settles O50: the rows are `Attar.add_num_of_le`, `Attar.add_num_of_lt` and the markers' cases. -/
theorem attarAddition : Obligations.AttarAddition :=
  ⟨fun _ _ => Attar.add_num_of_le, fun _ _ => Attar.add_num_of_lt, fun _ => ⟨rfl, rfl⟩, rfl, rfl, rfl, Attar.nar_add, Attar.add_comm⟩

/-- Adders that sum fewer than 2³¹ terms give the total of the terms in every grouping, since no partial sum reaches the limit. -/
theorem SumTree.sum_eq_total {x : SumTree} (hlen : x.leaves.length < 2 ^ 31) (h : ∀ a ∈ x.leaves, a.isTerm) :
    x.sum = Attar.total x.leaves := by
  induction x with
  | leaf a => exact ((Attar.addFree_comm ..).trans (Attar.num_zero_addFree a)).symm
  | node l r ihl ihr =>
    have hrange := Attar.total_within_of_length_lt h hlen
    simp only [SumTree.leaves, List.length_append, List.forall_mem_append, Attar.total_append] at hlen h hrange ⊢
    rw [SumTree.sum, ihl (by omega) h.1, ihr (by omega) h.2, Attar.add_eq_addFree hrange]

/-- Numeric terms whose partial sums are all in range add exactly, however many they are. -/
theorem SumTree.sum_eq_exact {x : SumTree} (h : ∀ a ∈ x.leaves, ∃ w, a = .num w) (hfits : x.fits) : x.sum = .num x.exact := by
  induction x with
  | leaf a =>
    obtain ⟨w, rfl⟩ := h a (List.mem_singleton.mpr rfl)
    rfl
  | node l r ihl ihr =>
    obtain ⟨hl, hr, hrange⟩ := hfits
    rw [SumTree.leaves, List.forall_mem_append] at h
    rw [SumTree.sum, ihl h.1 hl, ihr h.2 hr]
    exact Attar.add_num_of_le hrange

/-- Settles O52: both groupings give the total of their leaves, and the total does not depend on the order. -/
theorem attarSumOrderFree : Obligations.AttarSumOrderFree := by
  refine ⟨fun x y hperm hlen hterm => ?_, fun x => SumTree.sum_eq_exact⟩
  calc x.sum = Attar.total x.leaves := SumTree.sum_eq_total hlen hterm
    _ = Attar.total y.leaves := Attar.total_perm hperm
    _ = y.sum := (SumTree.sum_eq_total (hperm.length_eq ▸ hlen) fun a ha => hterm a (hperm.mem_iff.mpr ha)).symm

end Sys2Proof.Machine
end

section
/-! THEOREMS. The issue limit's steps (06 R216). -/

namespace Sys2Proof.Machine

/-- A fall, or a rise of at most 8/64, is in force at once. -/
theorem Core.setLimit_of_le {k : Core} {l c : Nat} (h : l ≤ k.limit + 8) :
    k.setLimit l c = { k.countGap c with limit := l, target := l } := if_pos h

/-- A larger rise only sets the target. -/
theorem Core.setLimit_of_lt {k : Core} {l c : Nat} (h : k.limit + 8 < l) :
    k.setLimit l c = { k.countGap c with target := l } := if_neg (Nat.not_le.mpr h)

/-- The core as its rising limit takes a step of 8/64 in the slot that begins at `slot`, in its cycle `c`. -/
def Core.stepLimit (k : Core) (c slot : Nat) : Core :=
  { k.countGap c with limit := min k.target (k.limit + 8), stepAt := slot + 32 }

/-- The slot of a core's next step: the next one to begin, and not before the slot after its last step's. -/
def Core.stepSlot (k : Core) (now : Nat) : Nat := max (slotAt now) k.stepAt

/-- A limit under its target takes one step, in the core's next slot. -/
theorem exec_issueLimitStep_rising {t c : Nat} {s : State} (h : (s.core t c).limit < (s.core t c).target) :
    exec (.issueLimitStep t c) s =
      let at' := (s.core t c).stepSlot s.now
      let u := advanceTo at' s
      .next (u.updCore t c (fun k => k.stepLimit (k.cycle u.clk.ac) at')) := if_pos h

/-- A limit that has reached its target stays as it is. -/
theorem exec_issueLimitStep_reached {t c : Nat} {s : State} (h : (s.core t c).target ≤ (s.core t c).limit) :
    exec (.issueLimitStep t c) s = .next s := if_neg (Nat.not_lt.mpr h)

/-- Settles O54: `setLimit` tells a rise of more than 8/64 from any other change, and ISSUE_LIMIT_STEP writes the one core that it
reads. -/
theorem issueLimitSteps : Obligations.IssueLimitSteps := by
  refine ⟨fun k l now h => ?_, fun k l now h => ?_, fun t c s hs h => ⟨_, exec_issueLimitStep_rising h, ?_⟩,
    fun t c s => exec_issueLimitStep_reached⟩
  · rw [Core.setLimit_of_le h]
  · rw [Core.setLimit_of_lt h]
    exact ⟨rfl, rfl⟩
  · have hcores : Table.wf ({} : Core) (advanceTo ((s.core t c).stepSlot s.now) s).cores = true := hs.cores
    rw [State.core_updCore hcores]
    exact ⟨rfl, rfl, rfl⟩

end Sys2Proof.Machine
end

section
/-! SUPPORT. What a memory write leaves unchanged, and what an interrupt message and an appended record do to the FLT log and to the
messages sent. -/

namespace Sys2Proof.Machine

/-! ### The parts that a memory write may change -/

/-- `t` is `s` but for memory with its errors, the tier's pages, the Ultur caches, the host ports and the other packages: what a
memory write by a device may reach. -/
def State.SameButMemory (s t : State) : Prop :=
  t = { s with mem := t.mem, poison := t.poison, strikes := t.strikes, stale := t.stale, pages := t.pages, ucores := t.ucores
               ports := t.ports, peers := t.peers }

namespace State.SameButMemory

theorem refl (s : State) : s.SameButMemory s := rfl

theorem trans {s t u : State} (hst : s.SameButMemory t) (htu : t.SameButMemory u) : s.SameButMemory u :=
  Eq.trans htu (congrArg (fun x : State => { x with
    mem := u.mem, poison := u.poison, strikes := u.strikes, stale := u.stale, pages := u.pages, ucores := u.ucores
    ports := u.ports, peers := u.peers }) hst)

theorem foldl {β : Type} {g : State → β → State} (hg : ∀ (u : State) x, u.SameButMemory (g u x)) :
    ∀ (l : List β) (s : State), s.SameButMemory (l.foldl g s)
  | [], s => refl s
  | x :: l, s => (hg s x).trans (foldl hg l (g s x))

theorem flt {s t : State} (h : s.SameButMemory t) : t.flt = s.flt := by rw [h]

end State.SameButMemory

/-! ### Memory writes -/

theorem State.backInvalidate_sameButMemory (s : State) (ls : List Nat) : s.SameButMemory (s.backInvalidate ls) := by
  rw [State.backInvalidate]
  split <;> rfl

theorem State.dropLines_sameButMemory (s : State) (a n : Nat) : s.SameButMemory (s.dropLines a n) := by
  simp only [State.dropLines]
  split
  · exact (s.backInvalidate_sameButMemory _).trans (.foldl (by intros; rfl) _ _)
  · exact s.backInvalidate_sameButMemory _

theorem State.markBlock_sameButMemory (s : State) (b : Nat) : s.SameButMemory (s.markBlock b) := by
  simp only [State.markBlock]
  split
  · rfl
  · split <;> rfl
  · split <;> rfl
  · split <;> rfl
  · split <;> rfl

theorem State.storeLocal_sameButMemory (s : State) (a : Nat) (bs : List Byte) : s.SameButMemory (s.storeLocal a bs) := by
  simp only [State.storeLocal]
  refine .trans (.trans ?_ (State.dropLines_sameButMemory _ a bs.length)) rfl
  split
  · exact .foldl State.markBlock_sameButMemory _ s
  · rfl

theorem State.poke_sameButMemory (s : State) (a : Nat) (bs : List Byte) : s.SameButMemory (s.poke a bs) := by
  rw [State.poke]
  split
  · rfl
  · rfl
  · split
    · rfl
    · exact State.storeLocal_sameButMemory ..
  · exact State.storeLocal_sameButMemory ..

theorem State.writeMem_sameButMemory {s t : State} {a : Nat} {bs : List Byte} (h : s.writeMem a bs = .ok t) :
    s.SameButMemory t := by
  simp only [State.writeMem] at h
  split at h
  · cases h
  · split at h <;> cases h
    exact s.poke_sameButMemory a bs

theorem State.tryWrite_sameButMemory (s : State) (a : Nat) (bs : List Byte) : s.SameButMemory (s.tryWrite a bs) := by
  rw [State.tryWrite]
  split
  · exact State.writeMem_sameButMemory ‹_›
  · rfl

/-! ### Messages and appended records -/

@[simp] theorem sendMsg_flt (a d : Nat) (s : State) : (sendMsg a d s).flt = s.flt := (s.tryWrite_sameButMemory ..).flt

@[simp] theorem sendMsg_msgs (a d : Nat) (s : State) : (sendMsg a d s).msgs = s.msgs ++ [⟨a, d % 2 ^ 32⟩] := rfl

/-- The ring with a record in its next slot, under its sequence number, and the in-band interrupt that the record raises once the
package has its dynamic address (12 R396; 15 R486, R488). -/
def Flt.place (f : Flt) (dynamic : Bool) (r : FltRecord) : Flt :=
  { f with
    ring := Table.put [] f.ring (f.tail.toNat % 1024) { r with seq := f.tail.toNat }.bytes
    tail := f.tail + 1
    ibis := if dynamic then f.ibis ++ [r.cls] else f.ibis }

/-- A record whose class is enabled is placed, and the message sent. -/
theorem fltPlace_enabled {r : FltRecord} {s : State} (h : bit s.flt.classEn r.cls = true) :
    fltPlace r s = sendMsg s.flt.msiAddr s.flt.msiData { s with flt := s.flt.place s.i3c.dynamic.isSome r } := if_pos h

/-- Any other record is placed and nothing else happens. -/
theorem fltPlace_disabled {r : FltRecord} {s : State} (h : ¬ bit s.flt.classEn r.cls = true) :
    fltPlace r s = { s with flt := s.flt.place s.i3c.dynamic.isSome r } := if_neg h

@[simp] theorem fltPlace_flt (r : FltRecord) (s : State) : (fltPlace r s).flt = s.flt.place s.i3c.dynamic.isSome r := by
  by_cases h : bit s.flt.classEn r.cls = true
  · rw [fltPlace_enabled h, sendMsg_flt]
  · rw [fltPlace_disabled h]

theorem fltPlace_msgs (r : FltRecord) (s : State) :
    (fltPlace r s).msgs = s.msgs ++ if bit s.flt.classEn r.cls then [⟨s.flt.msiAddr, s.flt.msiData % 2 ^ 32⟩] else [] := by
  by_cases h : bit s.flt.classEn r.cls = true
  · rw [fltPlace_enabled h, sendMsg_msgs, if_pos h]
  · rw [fltPlace_disabled h, if_neg h, List.append_nil]

end Sys2Proof.Machine
end

section
/-! THEOREMS. The fault ring (15 R488). -/

namespace Sys2Proof.Machine

/-- A full ring holds a record of class 0x08. -/
theorem fltAppend_held {r : FltRecord} {s : State} (hfull : 1024 ≤ s.flt.count) (hcls : r.cls = 8) :
    fltAppend r s = { s with flt := { s.flt with held := s.flt.held ++ [r] } } :=
  (if_pos (.inl hfull)).trans (if_pos hcls)

/-- A full ring drops and counts any other record. -/
theorem fltAppend_dropped {r : FltRecord} {s : State} (hfull : 1024 ≤ s.flt.count) (hcls : r.cls ≠ 8) :
    fltAppend r s = { s with flt := { s.flt with lost := satAdd 16 s.flt.lost 1 } } :=
  (if_pos (.inl hfull)).trans (if_neg hcls)

/-- A ring with room takes a record that no held one precedes. -/
theorem fltAppend_placed {r : FltRecord} {s : State} (hroom : s.flt.count < 1024) (hfirst : r.cls ≠ 8 ∨ s.flt.held = []) :
    fltAppend r s = fltPlace r s := by
  have hwaits : ¬ (s.flt.count ≥ 1024 ∨ (r.cls = 8 ∧ s.flt.held ≠ [])) := by
    rintro (hfull | ⟨hcls, hheld⟩)
    · omega
    · exact hfirst.elim (· hcls) hheld
  exact if_neg hwaits

/-- While the ring has room, the oldest held record enters it. -/
theorem fltDrainHeld_succ {n : Nat} {r : FltRecord} {rest : List FltRecord} {s : State} (hheld : s.flt.held = r :: rest)
    (hroom : s.flt.count < 1024) :
    fltDrainHeld (n + 1) s = fltDrainHeld n (fltPlace r { s with flt := { s.flt with held := rest } }) := by
  rw [fltDrainHeld, hheld]
  exact if_neg (Nat.not_le.mpr hroom)

/-- A full ring takes no held record. -/
theorem fltDrainHeld_full {s : State} (hfull : 1024 ≤ s.flt.count) : ∀ n, fltDrainHeld n s = s
  | 0 => rfl
  | n + 1 => by
    rw [fltDrainHeld]
    split
    · rfl
    · exact if_pos hfull

/-- Settles O57: the cases of a full ring and of one with room, and `fltPlace_flt` and `fltPlace_msgs` for a record appended. -/
theorem faultRing : Obligations.FaultRing := by
  refine ⟨fun r s => fltAppend_held, fun r s hfull hcls => ?_, fun r s => fltAppend_placed, fun r s => ?_,
    fun n r rest s => fltDrainHeld_succ, fun n s hfull => fltDrainHeld_full hfull n⟩
  · rw [fltAppend_dropped hfull hcls, satAdd, Nat.min_comm]
  · rw [fltPlace_flt, fltPlace_msgs]
    exact ⟨rfl, rfl, rfl⟩

end Sys2Proof.Machine
end

section
/-! THEOREMS. The measurement registers (15 R461). -/

namespace Sys2Proof.Machine

/-- A start begins with the eight measurement registers at zero. -/
theorem State.restart_mrs (s : State) (warm : Bool) (cause : Nat) :
    (s.restart warm cause).start.mrs = List.replicate 8 (List.replicate 32 0) := rfl

/-- An extended register holds the digest of what it held, followed by the digest given. -/
theorem extendMr_getD_same {i : Nat} {s : State} (h : i < s.start.mrs.length) (d m : List Byte) :
    (extendMr i d s).start.mrs.getD i m = sm3 (s.start.mrs.getD i (List.replicate 32 0) ++ d) := by
  rw [extendMr, setAt, List.getD_eq_getElem?_getD, List.getElem?_set_self h, Option.getD_some]

/-- Extending one register leaves the others. -/
theorem extendMr_getD_of_ne {i j : Nat} (h : j ≠ i) (d m : List Byte) (s : State) :
    (extendMr i d s).start.mrs.getD j m = s.start.mrs.getD j m := by
  rw [extendMr, setAt, List.getD_eq_getElem?_getD, List.getElem?_set_ne h.symm, List.getD_eq_getElem?_getD]

/-- Settles O58: the registers as a start begins, and the register that an extension writes and those that it leaves. -/
theorem measurementRegisters : Obligations.MeasurementRegisters := by
  refine ⟨fun warm cause i s => ?_, fun i d s hlen hi => ?_, fun i j d s h => extendMr_getD_of_ne h d _ s⟩
  · rw [State.restart_mrs, List.getD_eq_getElem?_getD, List.getElem?_replicate]
    split <;> rfl
  · exact extendMr_getD_same (hlen ▸ hi) d _

end Sys2Proof.Machine
end

section
/-! THEOREMS. The EXTEST instructions of a TAP (16 R503). -/

namespace Sys2Proof.Machine

/-- The TAP of a die with power takes the change. -/
theorem tapDo_powered {die : Nat} {s : State} (hon : s.tapOn die = true) (f : Tap → Tap) :
    tapDo die f s = .next { s with taps := setAt s.taps die (f (s.tap die)) } := if_pos hon

/-- Changing one die's TAP leaves the other dies' TAPs. -/
theorem State.tap_setAt_of_ne {d die : Nat} (h : d ≠ die) (s : State) (x : Tap) :
    ({ s with taps := setAt s.taps die x } : State).tap d = s.tap d := by
  simp only [State.tap, setAt, List.getD_eq_getElem?_getD, List.getElem?_set_ne h.symm]

/-- While PKG_RESET_N is low, the TAP of a die with power takes the EXTEST instruction and drives its pins. -/
theorem extestAs_drives {die : Nat} {s : State} (hon : s.tapOn die = true) (hlow : s.resetLow = true) (i : TapInstr) :
    extestAs i die s = .next { s with taps := setAt s.taps die { s.tap die with instr := i, driving := true } } :=
  (if_pos hlow).trans (tapDo_powered hon _)

/-- While PKG_RESET_N is high, an EXTEST instruction is BYPASS, with power or without. -/
theorem extestAs_eq_execBypass {s : State} (hhigh : s.resetLow = false) (i : TapInstr) (die : Nat) :
    extestAs i die s = execBypass die s := if_neg (ne_true_of_eq_false hhigh)

/-- Settles O42: the level of PKG_RESET_N decides between `extestAs_drives` and `extestAs_eq_execBypass`, and BYPASS changes the TAP of
its own die only. -/
theorem extestOnlyInReset : Obligations.ExtestOnlyInReset := by
  intro die s hon
  constructor
  · intro hlow
    exact ⟨extestAs_drives hon hlow .extest, extestAs_drives hon hlow .extestPulse, extestAs_drives hon hlow .extestTrain⟩
  · intro hhigh
    exact ⟨extestAs_eq_execBypass hhigh .extest die, extestAs_eq_execBypass hhigh .extestPulse die,
      extestAs_eq_execBypass hhigh .extestTrain die, _, tapDo_powered hon Tap.bypass, rfl,
      fun _ hd => State.tap_setAt_of_ne hd s _⟩

end Sys2Proof.Machine
end

section
/-! SUPPORT. What every operation keeps: the queue of waiting commands, the variant and, from a canonical state, the canonical form.
An operation `f` has one rule, `State.KeepsForm.f`: from a state that keeps the form of `s` it leads to one that does. A chain of
operations is then the chain of their rules, written as the operations are applied. -/

namespace Sys2Proof.Machine

/-- `t` has the queue and the variant of `s`, and is canonical where `s` is. -/
structure State.KeepsForm (s t : State) : Prop where
  pending : t.pending = s.pending
  variant : t.variant = s.variant
  canonical : s.Canonical → t.Canonical

/-- The outcome is a next state that keeps the form. -/
def State.GoesOn (s : State) (o : Host.Outcome State Fault Refusal) : Prop := ∃ t, o = .next t ∧ s.KeepsForm t

variable {s t u : State}

namespace State.KeepsForm

protected theorem refl (s : State) : s.KeepsForm s := ⟨rfl, rfl, id⟩

protected theorem trans (h : s.KeepsForm t) (h' : t.KeepsForm u) : s.KeepsForm u :=
  ⟨h'.pending.trans h.pending, h'.variant.trans h.variant, fun hs => h'.canonical (h.canonical hs)⟩

/-- A change of the other parts, which has eight measurement registers where the state has. -/
protected theorem plain {
    clk free bus busError accepted poison ctxTable ctxStat nextCtx cplTimeout redCfg redChecked redMismatch redFenced stCtrl
    stFailed stNotRun capLive msgs accs tierCfg sharedQuota schedAhead moved freezeMax forwarded lostDirect home charges gang
    outMsgs time power domains flash start flt selftest i3c taps resetLow faultLow}
    (h : s.KeepsForm t) (hm : start.mrs.length = t.start.mrs.length := by rfl) : s.KeepsForm { t with
      clk, free, bus, busError, accepted, poison, ctxTable, ctxStat, nextCtx, cplTimeout, redCfg, redChecked, redMismatch,
      redFenced, stCtrl, stFailed, stNotRun, capLive, msgs, accs, tierCfg, sharedQuota, schedAhead, moved, freezeMax,
      forwarded, lostDirect, home, charges, gang, outMsgs, time, power, domains, flash, start, flt, selftest, i3c, taps,
      resetLow, faultLow } :=
  ⟨h.pending, h.variant, fun hs => { h.canonical hs with mrs := hm.trans (h.canonical hs).mrs }⟩

/-! A change of one table or memory, which keeps its canonical form. -/

protected theorem setMem {mem} (h : s.KeepsForm t) (hw : Memory.wf t.mem = true → Memory.wf mem = true) :
    s.KeepsForm { t with mem } :=
  ⟨h.pending, h.variant, fun hs => { h.canonical hs with mem := hw (h.canonical hs).mem }⟩

protected theorem setStale {stale} (h : s.KeepsForm t) (hw : Memory.wf t.stale = true → Memory.wf stale = true) :
    s.KeepsForm { t with stale } :=
  ⟨h.pending, h.variant, fun hs => { h.canonical hs with stale := hw (h.canonical hs).stale }⟩

protected theorem setCtxs {ctxs} (h : s.KeepsForm t)
    (hw : Table.wf ({} : Ctx) t.ctxs = true → Table.wf ({} : Ctx) ctxs = true) :
    s.KeepsForm { t with ctxs } :=
  ⟨h.pending, h.variant, fun hs => { h.canonical hs with ctxs := hw (h.canonical hs).ctxs }⟩

protected theorem setPrivs {privs} (h : s.KeepsForm t) (hw : Table.wf 0 t.privs = true → Table.wf 0 privs = true) :
    s.KeepsForm { t with privs } :=
  ⟨h.pending, h.variant, fun hs => { h.canonical hs with privs := hw (h.canonical hs).privs }⟩

protected theorem setGens {gens} (h : s.KeepsForm t) (hw : Table.wf 0 t.gens = true → Table.wf 0 gens = true) :
    s.KeepsForm { t with gens } :=
  ⟨h.pending, h.variant, fun hs => { h.canonical hs with gens := hw (h.canonical hs).gens }⟩

protected theorem setStrikes {strikes} (h : s.KeepsForm t) (hw : Table.wf 0 t.strikes = true → Table.wf 0 strikes = true) :
    s.KeepsForm { t with strikes } :=
  ⟨h.pending, h.variant, fun hs => { h.canonical hs with strikes := hw (h.canonical hs).strikes }⟩

protected theorem setDirectPages {direct} (h : s.KeepsForm t)
    (hw : Table.wf (none : Option DirectPage) t.direct = true → Table.wf (none : Option DirectPage) direct = true) :
    s.KeepsForm { t with direct } :=
  ⟨h.pending, h.variant, fun hs => { h.canonical hs with direct := hw (h.canonical hs).direct }⟩

protected theorem setCores {cores} (h : s.KeepsForm t)
    (hw : Table.wf ({} : Core) t.cores = true → Table.wf ({} : Core) cores = true) :
    s.KeepsForm { t with cores } :=
  ⟨h.pending, h.variant, fun hs => { h.canonical hs with cores := hw (h.canonical hs).cores }⟩

protected theorem setTiles {tiles} (h : s.KeepsForm t)
    (hw : Table.wf ({} : Tile) t.tiles = true → Table.wf ({} : Tile) tiles = true) :
    s.KeepsForm { t with tiles } :=
  ⟨h.pending, h.variant, fun hs => { h.canonical hs with tiles := hw (h.canonical hs).tiles }⟩

protected theorem setPages {pages} (h : s.KeepsForm t)
    (hw : Table.wf ({} : TierPage) t.pages = true → Table.wf ({} : TierPage) pages = true) :
    s.KeepsForm { t with pages } :=
  ⟨h.pending, h.variant, fun hs => { h.canonical hs with pages := hw (h.canonical hs).pages }⟩

protected theorem setSills {sills} (h : s.KeepsForm t)
    (hw : Table.wf ({} : Sill) t.sills = true → Table.wf ({} : Sill) sills = true) :
    s.KeepsForm { t with sills } :=
  ⟨h.pending, h.variant, fun hs => { h.canonical hs with sills := hw (h.canonical hs).sills }⟩

protected theorem setHbm {hbm} (h : s.KeepsForm t)
    (hw : Table.wf ({} : Stack) t.hbm = true → Table.wf ({} : Stack) hbm = true) :
    s.KeepsForm { t with hbm } :=
  ⟨h.pending, h.variant, fun hs => { h.canonical hs with hbm := hw (h.canonical hs).hbm }⟩

protected theorem setUcores {ucores} (h : s.KeepsForm t)
    (hw : Table.wf ({} : UCore) t.ucores = true → Table.wf ({} : UCore) ucores = true) :
    s.KeepsForm { t with ucores } :=
  ⟨h.pending, h.variant, fun hs => { h.canonical hs with ucores := hw (h.canonical hs).ucores }⟩

protected theorem setLinks {links} (h : s.KeepsForm t)
    (hw : Table.wf ({} : Link) t.links = true → Table.wf ({} : Link) links = true) :
    s.KeepsForm { t with links } :=
  ⟨h.pending, h.variant, fun hs => { h.canonical hs with links := hw (h.canonical hs).links }⟩

protected theorem setLasers {lasers} (h : s.KeepsForm t)
    (hw : Table.wf ({} : Laser) t.lasers = true → Table.wf ({} : Laser) lasers = true) :
    s.KeepsForm { t with lasers } :=
  ⟨h.pending, h.variant, fun hs => { h.canonical hs with lasers := hw (h.canonical hs).lasers }⟩

protected theorem setPeers {peers} (h : s.KeepsForm t)
    (hw : Table.wf ({} : Peer) t.peers = true → Table.wf ({} : Peer) peers = true) :
    s.KeepsForm { t with peers } :=
  ⟨h.pending, h.variant, fun hs => { h.canonical hs with peers := hw (h.canonical hs).peers }⟩

protected theorem setPorts {ports} (h : s.KeepsForm t)
    (hw : Table.wf ({} : Port) t.ports = true → Table.wf ({} : Port) ports = true) :
    s.KeepsForm { t with ports } :=
  ⟨h.pending, h.variant, fun hs => { h.canonical hs with ports := hw (h.canonical hs).ports }⟩

protected theorem setEdges {edges} (h : s.KeepsForm t)
    (hw : Table.wf ({} : Edge) t.edges = true → Table.wf ({} : Edge) edges = true) :
    s.KeepsForm { t with edges } :=
  ⟨h.pending, h.variant, fun hs => { h.canonical hs with edges := hw (h.canonical hs).edges }⟩

protected theorem setTilePower {tilePower} (h : s.KeepsForm t)
    (hw : Table.wf ({} : TilePower) t.tilePower = true → Table.wf ({} : TilePower) tilePower = true) :
    s.KeepsForm { t with tilePower } :=
  ⟨h.pending, h.variant, fun hs => { h.canonical hs with tilePower := hw (h.canonical hs).tilePower }⟩

protected theorem next (h : s.KeepsForm t) : s.GoesOn (.next t) := ⟨t, rfl, h⟩

protected theorem ite {c : Prop} [Decidable c] (ht : s.KeepsForm t) (hu : s.KeepsForm u) : s.KeepsForm (if c then t else u) := by
  split
  · exact ht
  · exact hu

protected theorem foldl {β : Type} {g : State → β → State} {l : List β} (h : s.KeepsForm t)
    (hg : ∀ u x, s.KeepsForm u → s.KeepsForm (g u x)) : s.KeepsForm (l.foldl g t) := by
  induction l generalizing t with
  | nil => exact h
  | cons x l ih => exact ih (hg t x h)

/-- A fold that carries more than a state, which `π` reads. -/
theorem foldl_of {α β : Type} (π : α → State) {g : α → β → α} (hg : ∀ a x, s.KeepsForm (π a) → s.KeepsForm (π (g a x))) :
    ∀ (l : List β) (a : α), s.KeepsForm (π a) → s.KeepsForm (π (l.foldl g a))
  | [], _, h => h
  | x :: l, a, h => foldl_of π hg l (g a x) (hg a x h)

protected theorem getD {o : Option State} (ho : ∀ u, o = some u → s.KeepsForm u) (h : s.KeepsForm t) : s.KeepsForm (o.getD t) := by
  cases o with
  | none => exact h
  | some u => exact ho u rfl

end State.KeepsForm

theorem State.GoesOn.next (h : s.KeepsForm t) : s.GoesOn (.next t) := ⟨t, rfl, h⟩

theorem State.GoesOn.ite {c : Prop} [Decidable c] {o p : Host.Outcome State Fault Refusal} (ho : s.GoesOn o) (hp : s.GoesOn p) :
    s.GoesOn (if c then o else p) := by
  split
  · exact ho
  · exact hp

end Sys2Proof.Machine
end

section
/-! SUPPORT. The same rules for what carries a state beside other things: a pair, an op at work, a reduction at work. -/

namespace Sys2Proof.Machine.State.KeepsForm

variable {s t u : State} {β γ : Type} {c : Prop} [Decidable c]

protected theorem foldlFst {g : State × γ → β → State × γ} {l : List β} {a : State × γ} (h : s.KeepsForm a.1)
    (hg : ∀ a x, s.KeepsForm a.1 → s.KeepsForm (g a x).1) : s.KeepsForm (l.foldl g a).1 := foldl_of (·.1) hg l a h

protected theorem foldlExec {g : Exec → β → Exec} {l : List β} {x : Exec} (h : s.KeepsForm x.s)
    (hg : ∀ a y, s.KeepsForm a.s → s.KeepsForm (g a y).s) : s.KeepsForm (l.foldl g x).s := foldl_of Exec.s hg l x h

protected theorem foldlFstExec {g : Exec × γ → β → Exec × γ} {l : List β} {a : Exec × γ} (h : s.KeepsForm a.1.s)
    (hg : ∀ a x, s.KeepsForm a.1.s → s.KeepsForm (g a x).1.s) : s.KeepsForm (l.foldl g a).1.s := foldl_of (·.1.s) hg l a h

protected theorem foldlRed {g : RedRun → β → RedRun} {l : List β} {x : RedRun} (h : s.KeepsForm x.s)
    (hg : ∀ a y, s.KeepsForm a.s → s.KeepsForm (g a y).s) : s.KeepsForm (l.foldl g x).s := foldl_of RedRun.s hg l x h

protected theorem foldlFstRed {g : RedRun × γ → β → RedRun × γ} {l : List β} {a : RedRun × γ} (h : s.KeepsForm a.1.s)
    (hg : ∀ a x, s.KeepsForm a.1.s → s.KeepsForm (g a x).1.s) : s.KeepsForm (l.foldl g a).1.s := foldl_of (·.1.s) hg l a h

protected theorem foldlStopped {g : Stopped → β → Stopped} {l : List β} {x : Stopped} (h : s.KeepsForm x.s)
    (hg : ∀ a y, s.KeepsForm a.s → s.KeepsForm (g a y).s) : s.KeepsForm (l.foldl g x).s := foldl_of Stopped.s hg l x h

/-- A choice between two things that carry a state, which `π` reads. -/
theorem ite_of {α : Type} (π : α → State) {a b : α} (ha : s.KeepsForm (π a)) (hb : s.KeepsForm (π b)) :
    s.KeepsForm (π (if c then a else b)) := by
  split
  · exact ha
  · exact hb

protected theorem iteFst {a b : State × γ} (ha : s.KeepsForm a.1) (hb : s.KeepsForm b.1) :
    s.KeepsForm (if c then a else b).1 :=
  ite_of (fun x : State × γ => x.1) ha hb

protected theorem iteSnd {a b : γ × State} (ha : s.KeepsForm a.2) (hb : s.KeepsForm b.2) :
    s.KeepsForm (if c then a else b).2 :=
  ite_of (fun x : γ × State => x.2) ha hb

protected theorem iteExec {x y : Exec} (hx : s.KeepsForm x.s) (hy : s.KeepsForm y.s) :
    s.KeepsForm (if c then x else y).s :=
  ite_of (fun x : Exec => x.s) hx hy

protected theorem iteFstExec {a b : Exec × γ} (ha : s.KeepsForm a.1.s) (hb : s.KeepsForm b.1.s) :
    s.KeepsForm (if c then a else b).1.s :=
  ite_of (fun x : Exec × γ => x.1.s) ha hb

protected theorem iteRed {x y : RedRun} (hx : s.KeepsForm x.s) (hy : s.KeepsForm y.s) :
    s.KeepsForm (if c then x else y).s :=
  ite_of (fun x : RedRun => x.s) hx hy

protected theorem iteFstRed {a b : RedRun × γ} (ha : s.KeepsForm a.1.s) (hb : s.KeepsForm b.1.s) :
    s.KeepsForm (if c then a else b).1.s :=
  ite_of (fun x : RedRun × γ => x.1.s) ha hb

/-- What a pair that carries an op at work was taken apart into. -/
theorem of_fst {p : Exec × γ} {x : Exec} {y : γ} (e : p = (x, y)) (h : s.KeepsForm p.1.s) : s.KeepsForm x.s := by
  rw [e] at h
  exact h

theorem of_snd {p : γ × State} {y : γ} (e : p = (y, u)) (h : s.KeepsForm p.2) : s.KeepsForm u := by
  rw [e] at h
  exact h

theorem of_fstRed {p : RedRun × γ} {x : RedRun} {y : γ} (e : p = (x, y)) (h : s.KeepsForm p.1.s) : s.KeepsForm x.s := by
  rw [e] at h
  exact h

/-- A fold that may give up, where it did not. -/
theorem foldl_option {g : Option (State × γ) → β → Option (State × γ)} (hnone : ∀ x, g none x = none)
    (hg : ∀ {u a x v b}, g (some (u, a)) x = some (v, b) → s.KeepsForm u → s.KeepsForm v) :
    ∀ {l : List β} {t : State} {a : γ} {u : State} {b : γ}, l.foldl g (some (t, a)) = some (u, b) → s.KeepsForm t → s.KeepsForm u
  | [], _, _, _, _, e, h => by
    cases e
    exact h
  | x :: l, t, a, _, _, e, h => by
    rw [List.foldl_cons] at e
    match hx : g (some (t, a)) x with
    | some (v, c) =>
      rw [hx] at e
      exact foldl_option hnone hg e (hg hx h)
    | none =>
      rw [hx, foldl_none hnone] at e
      cases e

end Sys2Proof.Machine.State.KeepsForm
end

section
/-! SUPPORT. The rules of the tables of the state and the operations that many commands share. -/

set_option Elab.async false -- the rules are too many to elaborate side by side

namespace Sys2Proof.Machine

variable {s t u : State}

/-! ### Machine/Tick -/

protected theorem State.KeepsForm.tick (h : s.KeepsForm t) : s.KeepsForm (tick t) :=
  h.plain

protected theorem State.KeepsForm.advanceTo {t' : Nat} (h : s.KeepsForm t) : s.KeepsForm (advanceTo t' t) :=
  h.plain

/-! ### Machine/Ops -/

protected theorem State.KeepsForm.setCtx {n : Nat} {c : Ctx} (h : s.KeepsForm t) : s.KeepsForm (t.setCtx n c) :=
  h.setCtxs fun hw => Table.wf_put _ hw ..

protected theorem State.KeepsForm.updCtx {n : Nat} {f : Ctx → Ctx} (h : s.KeepsForm t) :
    s.KeepsForm (t.updCtx n f) :=
  h.setCtx

protected theorem State.KeepsForm.setCore {i j : Nat} {k : Core} (h : s.KeepsForm t) : s.KeepsForm (t.setCore i j k) :=
  h.setCores fun hw => Table.wf_put _ hw ..

protected theorem State.KeepsForm.updCore {t' c : Nat} {f : Core → Core} (h : s.KeepsForm t) :
    s.KeepsForm (t.updCore t' c f) :=
  h.setCore

protected theorem State.KeepsForm.updTile {n : Nat} {f : Tile → Tile} (h : s.KeepsForm t) : s.KeepsForm (t.updTile n f) :=
  h.setTiles fun hw => Table.wf_upd _ hw ..

protected theorem State.KeepsForm.updStack {n : Nat} {f : Stack → Stack} (h : s.KeepsForm t) : s.KeepsForm (t.updStack n f) :=
  h.setHbm fun hw => Table.wf_upd _ hw ..

protected theorem State.KeepsForm.updPc {n p : Nat} {f : Pc → Pc} (h : s.KeepsForm t) :
    s.KeepsForm (t.updPc n p f) :=
  h.updStack

protected theorem State.KeepsForm.updUcore {i j : Nat} {f : UCore → UCore} (h : s.KeepsForm t) : s.KeepsForm (t.updUcore i j f) :=
  h.setUcores fun hw => Table.wf_upd _ hw ..

protected theorem State.KeepsForm.updPage {n : Nat} {f : TierPage → TierPage} (h : s.KeepsForm t) : s.KeepsForm (t.updPage n f) :=
  h.setPages fun hw => Table.wf_upd _ hw ..

protected theorem State.KeepsForm.setDirect {p : Nat} {d : Option DirectPage} (h : s.KeepsForm t) : s.KeepsForm (t.setDirect p d) :=
  h.setDirectPages fun hw => Table.wf_put _ hw ..

protected theorem State.KeepsForm.updSill {n : Nat} {f : Sill → Sill} (h : s.KeepsForm t) : s.KeepsForm (t.updSill n f) :=
  h.setSills fun hw => Table.wf_upd _ hw ..

protected theorem State.KeepsForm.updLink {n : Nat} {f : Link → Link} (h : s.KeepsForm t) : s.KeepsForm (t.updLink n f) :=
  h.setLinks fun hw => Table.wf_upd _ hw ..

protected theorem State.KeepsForm.updLaser {n : Nat} {f : Laser → Laser} (h : s.KeepsForm t) : s.KeepsForm (t.updLaser n f) :=
  h.setLasers fun hw => Table.wf_upd _ hw ..

protected theorem State.KeepsForm.updPeer {n : Nat} {f : Peer → Peer} (h : s.KeepsForm t) : s.KeepsForm (t.updPeer n f) :=
  h.setPeers fun hw => Table.wf_upd _ hw ..

protected theorem State.KeepsForm.updPort {n : Nat} {f : Port → Port} (h : s.KeepsForm t) : s.KeepsForm (t.updPort n f) :=
  h.setPorts fun hw => Table.wf_upd _ hw ..

protected theorem State.KeepsForm.updEdge {n : Nat} {f : Edge → Edge} (h : s.KeepsForm t) : s.KeepsForm (t.updEdge n f) :=
  h.setEdges fun hw => Table.wf_upd _ hw ..

protected theorem State.KeepsForm.updTpower {n : Nat} {f : TilePower → TilePower} (h : s.KeepsForm t) :
    s.KeepsForm (t.updTpower n f) :=
  h.setTilePower fun hw => Table.wf_upd _ hw ..

protected theorem State.KeepsForm.draw (h : s.KeepsForm t) : s.KeepsForm (t.draw).2 :=
  h.plain

/-- Dropping lines from a port's directory leaves it other than the default port: a line dropped is counted. -/
theorem Port.dropLines_ne {q : Port} (p : Nat → Bool) (h : q ≠ {}) :
    { q with cached := q.cached.filter (fun l => !p l), backInv := q.backInv + (q.cached.filter p).length } ≠ ({} : Port) := by
  intro e
  have hnone : q.cached.filter p = [] := List.eq_nil_of_length_eq_zero (Nat.eq_zero_of_add_eq_zero_left (congrArg Port.backInv e))
  have hall : q.cached.filter (fun l => !p l) = q.cached := by
    rw [List.filter_eq_self]
    intro l hl
    simpa using List.filter_eq_nil_iff.mp hnone l hl
  rw [hnone, hall] at e
  exact h e

/-- A change of every entry that makes none the default keeps the canonical form. -/
theorem Table.wfFrom_map {α : Type} [DecidableEq α] (d : α) {f : α → α} (hf : ∀ v, v ≠ d → f v ≠ d) :
    ∀ {lo : Nat} {t : Table α}, Table.wfFrom d lo t = true → Table.wfFrom d lo (t.map (fun e => (e.1, f e.2))) = true
  | _, [], _ => rfl
  | lo, (k, v) :: t, h => by
    simp only [List.map_cons, Table.wfFrom, Bool.and_eq_true, decide_eq_true_eq] at h ⊢
    obtain ⟨⟨hk, hv⟩, ht⟩ := h
    exact ⟨⟨hk, hf v hv⟩, Table.wfFrom_map d hf ht⟩

protected theorem State.KeepsForm.backInvalidate {ls : List Nat} (h : s.KeepsForm t) : s.KeepsForm (t.backInvalidate ls) :=
  .ite (h.setPorts fun hw => Table.wfFrom_map _ (fun _ => Port.dropLines_ne ls.contains) hw) h

protected theorem State.KeepsForm.dropLines {a n : Nat} (h : s.KeepsForm t) : s.KeepsForm (t.dropLines a n) :=
  .ite (h.backInvalidate.foldl fun _ _ h => h.setUcores fun hw => Table.wf_upd _ hw ..) h.backInvalidate

protected theorem State.KeepsForm.putOn {k : Nat} {w : WaitMsg} (h : s.KeepsForm t) : s.KeepsForm (t.putOn k w) :=
  h.updLink.plain

protected theorem State.KeepsForm.emit {k ch dst size : Nat} {bytes : List Byte} (h : s.KeepsForm t) :
    s.KeepsForm (t.emit k ch dst size bytes) :=
  .ite h.putOn h.updLink

protected theorem State.KeepsForm.pumpLink {k : Nat} (h : s.KeepsForm t) : s.KeepsForm (t.pumpLink k) :=
  h.updLink.foldl fun _ _ h => h.emit

protected theorem State.KeepsForm.sendTo {ch dst size : Nat} {bytes : List Byte} (h : s.KeepsForm t) :
    s.KeepsForm (t.sendTo ch dst size bytes) := by
  unfold State.sendTo
  split
  · exact h
  · exact h.emit

protected theorem State.KeepsForm.requestTo {unit : Nat} {keep : Bool} {dst a size : Nat} {data : List Byte} (h : s.KeepsForm t) :
    s.KeepsForm (t.requestTo unit keep dst a size data) := by
  unfold State.requestTo
  split
  · exact h
  · exact h.emit.plain

protected theorem State.KeepsForm.request {unit : Nat} {keep : Bool} {a size : Nat} {data : List Byte} (h : s.KeepsForm t) :
    s.KeepsForm (t.request unit keep a size data) := by
  unfold State.request
  split
  · exact .ite h h.requestTo
  · exact h

protected theorem State.KeepsForm.unkeep {a : Nat} (h : s.KeepsForm t) : s.KeepsForm (t.unkeep a) := by
  unfold State.unkeep
  split
  · exact h.plain
  · exact h

protected theorem State.KeepsForm.resend {not : Nat} {r : Kept} (h : s.KeepsForm t) :
    s.KeepsForm (t.resend not r) := by
  unfold State.resend
  dsimp only
  split
  · exact h
  · exact h.emit.plain

protected theorem State.KeepsForm.freshLines {f k n : Nat} (h : s.KeepsForm t) : s.KeepsForm (t.freshLines f k n) :=
  h.setStrikes fun hw => Table.wf_filter _ hw _

protected theorem State.KeepsForm.markBlock {b : Nat} (h : s.KeepsForm t) : s.KeepsForm (t.markBlock b) := by
  have hstale : ∀ a bs, s.KeepsForm { t with stale := t.stale.write a bs } := fun a bs =>
    h.setStale fun hw => Memory.wf_write hw a bs
  unfold State.markBlock
  dsimp only
  split
  · exact h
  · exact .ite h.updPage h
  · exact (State.KeepsForm.ite h (hstale ..)).updPage
  · exact (State.KeepsForm.ite h (hstale ..)).updPage
  · exact (State.KeepsForm.ite h (hstale ..)).updPage

protected theorem State.KeepsForm.storeLocal {a : Nat} {bs : List Byte} (h : s.KeepsForm t) : s.KeepsForm (t.storeLocal a bs) := by
  unfold State.storeLocal
  extract_lets marked w dropped fresh
  have hdropped : s.KeepsForm dropped := .dropLines (.ite (h.foldl fun _ _ h => h.markBlock) h)
  have hfresh : Table.wf 0 dropped.strikes = true →
      Table.wf 0 (if dropped.strikes.isEmpty then dropped.strikes else w.foldl fresh dropped.strikes) = true := by
    intro hw
    split
    · exact hw
    · refine Table.wf_foldl _ _ (fun t l ht => ?_) _ _ hw
      dsimp only [fresh]
      split
      · exact Table.wf_put _ ht ..
      · exact ht
  exact ((hdropped.setMem fun hw => Memory.wf_write hw a bs).setStrikes hfresh).plain

protected theorem State.KeepsForm.poke {a : Nat} {bs : List Byte} (h : s.KeepsForm t) : s.KeepsForm (t.poke a bs) := by
  unfold State.poke
  split
  · exact h.updPeer
  · exact h.updPort
  · exact .ite h h.storeLocal
  · exact h.storeLocal

protected theorem State.KeepsForm.writeMem {a : Nat} {bs : List Byte} (h : s.KeepsForm t) (e : t.writeMem a bs = .ok u) :
    s.KeepsForm u := by
  unfold State.writeMem at e
  split at e
  · cases e
  · dsimp only at e
    split at e
    · cases e
    · cases e
      exact h.poke

protected theorem State.KeepsForm.tryWrite {a : Nat} {bs : List Byte} (h : s.KeepsForm t) :
    s.KeepsForm (t.tryWrite a bs) := by
  unfold State.tryWrite
  split
  · exact (h.writeMem ‹_›)
  · exact h

protected theorem State.KeepsForm.sendMsg {addr data : Nat} (h : s.KeepsForm t) : s.KeepsForm (sendMsg addr data t) :=
  h.tryWrite.plain

protected theorem State.KeepsForm.fltPlace {r : FltRecord} (h : s.KeepsForm t) : s.KeepsForm (fltPlace r t) :=
  .ite h.plain.sendMsg h.plain

protected theorem State.KeepsForm.fltAppend {r : FltRecord} (h : s.KeepsForm t) : s.KeepsForm (fltAppend r t) :=
  .ite (.ite h.plain h.plain) h.fltPlace

protected theorem State.KeepsForm.fltPost {cls code unit ctx addr arg0 arg1 : Nat} (h : s.KeepsForm t) :
    s.KeepsForm (fltPost cls code unit ctx addr arg0 arg1 t) :=
  h.fltAppend

protected theorem State.KeepsForm.fltDrainHeld : ∀ {n : Nat} {t : State}, s.KeepsForm t → s.KeepsForm (fltDrainHeld n t)
  | 0, _, h => h
  | n + 1, t, h => by
    unfold Machine.fltDrainHeld
    split
    · exact h
    · exact .ite h h.plain.fltPlace.fltDrainHeld

protected theorem State.KeepsForm.contextMsg {ctx data : Nat} (h : s.KeepsForm t) : s.KeepsForm (contextMsg ctx data t) :=
  .ite h h.sendMsg

protected theorem State.KeepsForm.raiseEvent {ctx b : Nat} (h : s.KeepsForm t) : s.KeepsForm (raiseEvent ctx b t) :=
  h.updCtx.contextMsg

protected theorem State.KeepsForm.faultRecord {ctx ring seq seg kind addr : Nat} (h : s.KeepsForm t) :
    s.KeepsForm (faultRecord ctx ring seq seg kind addr t) := by
  unfold faultRecord
  refine .ite ?_ ?_
  · split
    · exact h.fltPost
    · dsimp only
      split
      · exact h.fltPost
      · split
        · exact h.fltPost
        · exact ((h.writeMem ‹_›).writeMem ‹_›)
  · dsimp only
    split
    · exact h.fltPost
    · exact ((h.writeMem ‹_›).updCtx).sendMsg

protected theorem State.KeepsForm.updEntry {id : CmdId} {f : Entry → Entry} (h : s.KeepsForm t) :
    s.KeepsForm (t.updEntry id f) :=
  h.updCtx

/-- The state after a command that another one performs. -/
theorem State.GoesOn.after {o : Host.Outcome State Fault Refusal} (h : s.GoesOn o) : s.KeepsForm (after t o) := by
  obtain ⟨u, rfl, hu⟩ := h
  exact hu

end Sys2Proof.Machine
end

section
/-! SUPPORT. The rules of the capability block, the tier, and the records of commands. -/

set_option Elab.async false -- the rules are too many to elaborate side by side

namespace Sys2Proof.Machine

variable {s t u : State}

/-! ### Machine/Cap -/

protected theorem State.KeepsForm.bumpGens {ks : List Nat} (h : s.KeepsForm t) : s.KeepsForm (bumpGens ks t) :=
  h.setGens fun hw => Table.wf_foldl _ _ (fun _ _ hg => Table.wf_put _ hg ..) _ _ hw

protected theorem State.KeepsForm.withCap {f : State → State} (h : s.KeepsForm t) (hf : ∀ u, s.KeepsForm u → s.KeepsForm (f u)) :
    s.KeepsForm (withCap f t) :=
  (hf t h).bumpGens

/-! ### Machine/TierOps -/

protected theorem State.KeepsForm.traffic {n rd wr : Nat} (h : s.KeepsForm t) : s.KeepsForm (t.traffic n rd wr) :=
  h.updStack

protected theorem State.KeepsForm.releasePage {p : Nat} (h : s.KeepsForm t) : s.KeepsForm (t.releasePage p) := by
  unfold State.releasePage
  refine .ite ?_ ?_
  · exact h
  · split
    · exact .ite h.updPage h.updPage
    · exact h.updPage
    · exact h.updPage
    · exact h
    · exact h

protected theorem State.KeepsForm.demote {p : Nat} (h : s.KeepsForm t) : s.KeepsForm (t.demote p) :=
  h.updPage

protected theorem State.KeepsForm.loseBlock {p k : Nat} (h : s.KeepsForm t) : s.KeepsForm (State.loseBlock p t k) :=
  (h.setMem fun hw => Memory.wf_write hw ..).setStale fun hw => Memory.wf_clear hw ..

protected theorem State.KeepsForm.writeHome {p k : Nat} (h : s.KeepsForm t) : s.KeepsForm (State.writeHome p t k) :=
  .ite (h.setStale fun hw => Memory.wf_clear hw ..).traffic h.loseBlock

protected theorem State.KeepsForm.dropPage {p : Nat} (h : s.KeepsForm t) : s.KeepsForm (t.dropPage p) :=
  h.updPage

protected theorem State.KeepsForm.demoteNow {p : Nat} (h : s.KeepsForm t) : s.KeepsForm (t.demoteNow p) :=
  (h.foldl fun _ _ h => h.writeHome).dropPage

protected theorem State.KeepsForm.demoteAll (h : s.KeepsForm t) : s.KeepsForm (t.demoteAll) :=
  h.foldl fun _ _ h => h.demoteNow

protected theorem State.KeepsForm.loseSillPages {n : Nat} (h : s.KeepsForm t) : s.KeepsForm (t.loseSillPages n) :=
  h.foldl fun _ _ h => (h.foldl fun _ _ h => .ite h.loseBlock h.writeHome).dropPage

protected theorem State.KeepsForm.takeSlots {p : Nat} {avoid : List Nat} : ∀ {ks : List Nat} {acc : List SillSlot} {t : State}
    {r : State × List SillSlot}, s.KeepsForm t → t.takeSlots p avoid ks acc = some r → s.KeepsForm r.1
  | [], acc, t, r, h, e => by
    cases e
    exact h
  | k :: ks, acc, t, r, h, e => by
    simp only [State.takeSlots] at e
    split at e
    · exact h.takeSlots e
    · split at e
      · exact h.takeSlots e
      · split at e
        · cases e
        · split at e
          · exact h.demote.takeSlots e
          · cases e

protected theorem State.KeepsForm.placePage {p : Nat} {o : Owner} {pin : Option Nat} {keep : Bool} (h : s.KeepsForm t)
    (e : t.placePage p o pin keep = some u) : s.KeepsForm u := by
  unfold State.placePage at e
  split at e
  · cases e
  · rename_i hslots
    cases e
    exact (h.takeSlots hslots).updPage

protected theorem State.KeepsForm.quotaRoom {o : Owner} {demote : Bool} (h : s.KeepsForm t) (e : t.quotaRoom o demote = some u) :
    s.KeepsForm u := by
  unfold State.quotaRoom at e
  extract_lets fits at e
  split at e
  · cases e
    exact h
  · split at e
    · cases e
    · split at e
      · cases e
      · extract_lets v' fits' at e
        split at e
        · simp only [Option.some.injEq] at e
          subst e
          exact h.demote
        · cases e

protected theorem State.KeepsForm.tryPlace {p : Nat} {o : Owner} {keep demote : Bool} (h : s.KeepsForm t) :
    s.KeepsForm (t.tryPlace p o keep demote) := by
  unfold State.tryPlace
  refine .ite ?_ ?_
  · exact h
  · split
    · exact h
    · split
      · exact h
      · exact ((h.quotaRoom ‹_›).placePage ‹_›)

protected theorem State.KeepsForm.abandonPromotion {p : Nat} (h : s.KeepsForm t) : s.KeepsForm (t.abandonPromotion p) :=
  .ite h.updPage h

protected theorem State.KeepsForm.writeBlock {p k : Nat} (h : s.KeepsForm t) : s.KeepsForm (t.writeBlock p k) :=
  h.writeHome.updPage

protected theorem State.KeepsForm.copyBlock {p k : Nat} (h : s.KeepsForm t) : s.KeepsForm (t.copyBlock p k) := by
  unfold State.copyBlock
  split
  · exact h.traffic
  · exact h.writeHome
  · exact h

protected theorem State.KeepsForm.reslot {p : Nat} {hit : SillSlot → Bool} {frames : List Nat} (h : s.KeepsForm t) :
    s.KeepsForm (t.reslot p hit frames) := by
  unfold State.reslot
  extract_lets g redo
  have hredo : ∀ {l u out}, redo l = some (u, out) → s.KeepsForm u := by
    intro l u out e
    refine foldl_option (fun _ => rfl) ?_ e h
    intro v out x w out' e hv
    dsimp only at e
    split at e
    · split at e
      · rename_i htake
        cases e
        exact hv.updPage.takeSlots htake
      · cases e
    · cases e
      exact hv
  refine .ite ?_ (.ite ?_ (.ite (h.foldl fun _ _ h => h.writeBlock) h))
  · split
    · rename_i e
      exact (hredo e).updPage
    · exact .ite h (.ite h.abandonPromotion h.demote)
  · split
    · rename_i e
      exact (hredo e).updPage
    · exact .ite h h.demote

protected theorem State.KeepsForm.relocate {p n : Nat} {frames : List Nat} (h : s.KeepsForm t) :
    s.KeepsForm (t.relocate p n frames) :=
  h.reslot

protected theorem State.KeepsForm.keepPage {p : Nat} {pin : Option Nat} (h : s.KeepsForm t) : s.KeepsForm (t.keepPage p pin) :=
  h.updPage.foldl fun _ _ h => h.reslot

protected theorem State.KeepsForm.claimFrame {p : Nat} {c : Claim} (h : s.KeepsForm t) (e : t.claimFrame p c = some u) :
    s.KeepsForm u := by
  simp only [State.claimFrame] at e
  split at e
  · cases e
  · cases e
    exact ((h.setDirect.freshLines.foldl fun _ _ h => h.relocate).setMem fun hw => Memory.wf_clear hw ..).plain

protected theorem State.KeepsForm.releaseDirect {p : Nat} (h : s.KeepsForm t) : s.KeepsForm (t.releaseDirect p) :=
  (h.setDirect.setMem fun hw => Memory.wf_clear hw ..).plain

protected theorem State.KeepsForm.releaseSill {n : Nat} (h : s.KeepsForm t) : s.KeepsForm (releaseSill n t) :=
  h.foldl fun _ _ h => h.releaseDirect

protected theorem State.KeepsForm.settleDirect {p : Nat} (h : s.KeepsForm t) : s.KeepsForm (t.settleDirect p) := by
  unfold State.settleDirect
  split
  · exact h
  · refine .ite ?_ ?_
    · dsimp only
      split
      · exact h.releaseDirect
      · exact .getD (fun _ e => h.releaseDirect.claimFrame e) h.releaseDirect
    · exact h

protected theorem State.KeepsForm.startRelease {p : Nat} (h : s.KeepsForm t) : s.KeepsForm (t.startRelease p) := by
  unfold State.startRelease
  split
  · exact h
  · exact h.setDirect

protected theorem State.KeepsForm.dropHolds {ps : List Nat} (h : s.KeepsForm t) : s.KeepsForm (t.dropHolds ps) := by
  unfold State.dropHolds
  refine h.foldl fun _ _ h => ?_
  split
  · exact h
  · exact h.setDirect

protected theorem State.KeepsForm.unpin {p c : Nat} (h : s.KeepsForm t) : s.KeepsForm (t.unpin p c) :=
  h.updPage

protected theorem State.KeepsForm.endTier {c : Nat} (h : s.KeepsForm t) : s.KeepsForm (t.endTier c) := by
  unfold State.endTier
  extract_lets loses s1 mine s2 m s3
  have hs2 : s.KeepsForm s2 := by
    refine (h.foldl fun _ _ h => h.updPage).foldl fun _ _ h => ?_
    split
    · exact .ite h.setDirect.startRelease h.setDirect
    · exact h
  have hs3 : s.KeepsForm s3 := by
    dsimp only [s3]
    split
    · split
      · exact .ite hs2.startRelease.settleDirect hs2.setDirect
      · exact hs2
    · exact hs2
  exact hs3.updCtx

/-! ### Machine/Demand -/

protected theorem State.KeepsForm.enqueueRead {r : PcRead} (h : s.KeepsForm t) : s.KeepsForm (t.enqueueRead r) :=
  .ite h (.ite (.ite h.updPc h.updPc.updStack.updPage) h.updPc)

protected theorem State.KeepsForm.drainWrites {n p : Nat} (h : s.KeepsForm t) : s.KeepsForm (t.drainWrites n p) :=
  h.updStack.updPc

protected theorem State.KeepsForm.enqueueWrite {line : Nat} (h : s.KeepsForm t) : s.KeepsForm (t.enqueueWrite line) :=
  .ite h.updPc.drainWrites h.updPc

protected theorem State.KeepsForm.noteWrites {a n : Nat} (h : s.KeepsForm t) : s.KeepsForm (t.noteWrites a n) :=
  h.foldl fun _ _ h => h.enqueueWrite

protected theorem State.KeepsForm.placeAhead {c : Nat} : ∀ {ps : List Nat} {t : State}, s.KeepsForm t →
    s.KeepsForm (t.placeAhead c ps)
  | [], _, h => h
  | _ :: _, _, h => by
    unfold State.placeAhead
    refine .ite h.updPage.placeAhead (.ite h.placeAhead ?_)
    split
    · exact h
    · exact h.tryPlace.placeAhead

protected theorem State.KeepsForm.prefetchLayers {c : Nat} (h : s.KeepsForm t) : s.KeepsForm (t.prefetchLayers c) :=
  .ite h h.placeAhead

protected theorem State.KeepsForm.touchLayer {c j : Nat} (h : s.KeepsForm t) : s.KeepsForm (t.touchLayer c j) :=
  .ite h.updCtx.prefetchLayers h

protected theorem State.KeepsForm.touchPage {p lines : Nat} {o : Owner} {policy hint : Nat} (h : s.KeepsForm t) :
    s.KeepsForm (t.touchPage p lines o policy hint) := by
  unfold State.touchPage
  refine .ite ?_ ?_
  · exact h
  · refine .ite ?_ ?_
    · exact .ite h.updPage.updPage h.updPage
    · exact .ite h.updPage.tryPlace (.ite h.updPage.tryPlace h.updPage)

protected theorem State.KeepsForm.touchShared {p lines : Nat} (h : s.KeepsForm t) : s.KeepsForm (t.touchShared p lines) :=
  h.updPage

protected theorem State.KeepsForm.demandTier {c : Nat} {g : Seg} {hint a n : Nat} (h : s.KeepsForm t) :
    s.KeepsForm (t.demandTier c g hint a n) :=
  .ite h ((h.foldl fun _ _ h => h.touchPage).foldl fun _ _ h => h.touchLayer)

protected theorem State.KeepsForm.demandShared {a n : Nat} (h : s.KeepsForm t) : s.KeepsForm (t.demandShared a n) :=
  .ite (h.foldl fun _ _ h => h.touchShared) h

protected theorem State.KeepsForm.queueReads {who : Reader} {a n : Nat} (h : s.KeepsForm t) :
    s.KeepsForm (t.queueReads who a n) :=
  h.foldl fun _ _ h => h.enqueueRead

protected theorem State.KeepsForm.dropOneRead {who : Reader} {a : Nat} (h : s.KeepsForm t) :
    s.KeepsForm (t.dropOneRead who a) :=
  h.updPc

protected theorem State.KeepsForm.tlpError {p : Nat} (h : s.KeepsForm t) : s.KeepsForm (tlpError p t) :=
  h.updPort.plain

protected theorem State.KeepsForm.noteCached {p a n : Nat} (h : s.KeepsForm t) : s.KeepsForm (noteCached p a n t) :=
  h.updPort

protected theorem State.KeepsForm.tlpData {p a : Nat} {mem : Bool} {bs : List Byte} (h : s.KeepsForm t) :
    s.KeepsForm (tlpData p a mem bs t) :=
  .plain (.ite h.noteCached h)

protected theorem State.KeepsForm.requestLines {unit a n : Nat} (h : s.KeepsForm t) : s.KeepsForm (t.requestLines unit a n) := by
  unfold State.requestLines
  split
  · exact h.updPort
  · exact h.foldl fun _ _ h => h.request

protected theorem State.KeepsForm.requestWrites {unit : Nat} {keep : Bool} {a : Nat} {bs : List Byte} (h : s.KeepsForm t) :
    s.KeepsForm (t.requestWrites unit keep a bs) :=
  h.foldl fun _ _ h => h.request

/-! ### Machine/Completion -/

protected theorem State.KeepsForm.preemptMsg {ctx : Nat} (h : s.KeepsForm t) : s.KeepsForm (preemptMsg ctx t) :=
  .ite h.contextMsg h

protected theorem State.KeepsForm.settleRun {t' c : Nat} (h : s.KeepsForm t) : s.KeepsForm (t.settleRun t' c) := by
  unfold State.settleRun
  dsimp only
  split
  · exact h
  · split
    · exact h
    · exact h.setCore

protected theorem State.KeepsForm.louvreCheck {t' c : Nat} (h : s.KeepsForm t) : s.KeepsForm (t.louvreCheck t' c) := by
  unfold State.louvreCheck
  dsimp only
  split
  · exact h
  · exact .ite (.ite h.updCore.updTile h.updCore) h

protected theorem State.KeepsForm.settleCore {t' c : Nat} (h : s.KeepsForm t) : s.KeepsForm (t.settleCore t' c) :=
  h.settleRun.louvreCheck

protected theorem State.KeepsForm.failRun {id : CmdId} {inst status detail : Nat} (h : s.KeepsForm t) :
    s.KeepsForm (failRun id inst status detail t) :=
  h.updEntry

protected theorem State.KeepsForm.preemptFor {id : CmdId} {pref : Nat × Nat} (h : s.KeepsForm t) :
    s.KeepsForm (preemptFor id pref t) := by
  unfold preemptFor
  split
  · exact h
  · exact .ite h (h.foldl fun _ _ h => h.updCore)

protected theorem State.KeepsForm.preemptAll (h : s.KeepsForm t) : s.KeepsForm (preemptAll t) :=
  h.foldl fun _ _ h => h.foldl fun _ _ h => h.preemptFor

protected theorem State.KeepsForm.freeCore {t' c : Nat} (h : s.KeepsForm t) : s.KeepsForm (t.freeCore t' c) := by
  unfold State.freeCore
  dsimp only
  split
  · exact h.setCore
  · exact .ite h.setCore h.setCore.setCore.preemptMsg.preemptAll

protected theorem State.KeepsForm.dropRuns {id : CmdId} (h : s.KeepsForm t) : s.KeepsForm (t.dropRuns id) := by
  unfold State.dropRuns
  refine .foldl ?_ fun _ _ h => ?_
  · refine h.foldl fun _ _ h => ?_
    extract_lets k s1
    have hs1 : s.KeepsForm s1 := by
      dsimp only [s1]
      split
      · exact .ite h.setCore h
      · exact h
    split
    · exact .ite hs1.freeCore hs1
    · exact hs1
  · exact h.foldl fun _ _ h => .ite h.updPc h

protected theorem State.KeepsForm.refreshWaits {n : Nat} (h : s.KeepsForm t) : s.KeepsForm (refreshWaits n t) :=
  h.updCtx

protected theorem State.KeepsForm.endSelftest {id : CmdId} (h : s.KeepsForm t) : s.KeepsForm (endSelftest id t) :=
  .ite h.plain h

protected theorem State.KeepsForm.finishWith {id : CmdId} {r : CmdResult} (h : s.KeepsForm t) :
    s.KeepsForm (finishWith id r t) :=
  h.dropRuns.endSelftest.updEntry

protected theorem State.KeepsForm.discard {id : CmdId} (h : s.KeepsForm t) : s.KeepsForm (discard id t) :=
  h.finishWith

protected theorem State.KeepsForm.discardIf {p : Nat → Entry → Bool} (h : s.KeepsForm t) :
    s.KeepsForm (discardIf p t) :=
  h.foldl fun _ _ h => h.foldl fun _ _ h => .ite h.discard h

protected theorem State.KeepsForm.discardReds {p : CtxDesc → Bool} (h : s.KeepsForm t) :
    s.KeepsForm (discardReds p t) :=
  h.foldl fun _ _ h => h.foldl fun _ _ h => .ite (.ite h.draw.discard h.draw) h

protected theorem State.KeepsForm.recheckCores (h : s.KeepsForm t) : s.KeepsForm (recheckCores t) :=
  h.discardIf.preemptAll

protected theorem State.KeepsForm.clearBusy {n : Nat} (h : s.KeepsForm t) : s.KeepsForm (clearBusy n t) :=
  .ite h.plain h

protected theorem State.KeepsForm.terminateCtx {n : Nat} (h : s.KeepsForm t) : s.KeepsForm (terminateCtx n t) :=
  .ite h ((((h.foldl fun _ _ h => .ite h h.discard).updCtx).clearBusy).endTier)

protected theorem State.KeepsForm.settleDisable {n : Nat} (h : s.KeepsForm t) : s.KeepsForm (settleDisable n t) :=
  .ite h.updCtx.clearBusy.endTier h

protected theorem State.KeepsForm.removeEntry {id : CmdId} (h : s.KeepsForm t) : s.KeepsForm (removeEntry id t) :=
  h.updCtx.dropHolds.settleDisable

protected theorem State.KeepsForm.signalToken {id : CmdId} {e : Entry} {st : Nat} (h : s.KeepsForm t) :
    s.KeepsForm (signalToken id e st t) :=
  .ite h.updCtx.refreshWaits h

protected theorem State.KeepsForm.completionMsg {n : Nat} {notify : Bool} (h : s.KeepsForm t) :
    s.KeepsForm (completionMsg n notify t) :=
  .ite (.contextMsg (.ite h.updCtx h)) h

protected theorem State.KeepsForm.redirectRecord {n : Nat} {e : Entry} {r : CmdResult} (h : s.KeepsForm t) :
    s.KeepsForm (redirectRecord n e r t) :=
  h.fltAppend

protected theorem State.KeepsForm.writeRecord {n : Nat} {e : Entry} {r : CmdResult} (h : s.KeepsForm t) :
    s.KeepsForm (writeRecord n e r t) := by
  unfold writeRecord
  refine .ite ?_ ?_
  · exact h.redirectRecord
  · dsimp only
    split
    · exact (h.writeMem ‹_›).updCtx
    · exact h.redirectRecord.updCtx
    · exact h.redirectRecord.updCtx.terminateCtx.fltPost

protected theorem State.KeepsForm.confirmPorts {id : CmdId} {e : Entry} (h : s.KeepsForm t) :
    s.KeepsForm (confirmPorts id e t) :=
  h.foldl fun _ _ h => .ite h h.updPort

protected theorem State.KeepsForm.completeEntry {id : CmdId} {e : Entry} {r : CmdResult} (h : s.KeepsForm t) :
    s.KeepsForm (completeEntry id e r t) :=
  .removeEntry (.completionMsg (.signalToken (.ite h.confirmPorts h.confirmPorts.writeRecord)))

protected theorem State.KeepsForm.endSync {n : Nat} {e : Entry} (h : s.KeepsForm t) :
    s.KeepsForm (endSync n e t) :=
  .ite h.updCtx h

protected theorem State.KeepsForm.failSync {id : CmdId} (h : s.KeepsForm t) : s.KeepsForm (failSync id t) :=
  h.updCtx.updEntry

protected theorem State.KeepsForm.finishEntry {id : CmdId} (h : s.KeepsForm t) : s.KeepsForm (finishEntry id t) := by
  unfold finishEntry
  split
  · exact h
  · split
    · exact .ite h (.ite h.endSync.completeEntry (.ite h.endSync.updCtx.raiseEvent h.endSync.updCtx))
    · exact h

protected theorem State.KeepsForm.drainHeld {n : Nat} : ∀ {k : Nat} {t : State}, s.KeepsForm t → s.KeepsForm (drainHeld n k t)
  | 0, _, h => h
  | k + 1, t, h => by
    unfold Machine.drainHeld
    dsimp only
    split
    · exact h
    · refine .ite h.raiseEvent ?_
      split
      · split
        · exact h.updCtx.completeEntry.drainHeld
        · exact h.updCtx.drainHeld
      · exact h.updCtx.drainHeld

protected theorem State.KeepsForm.runCmd {id : CmdId} {op : Nat} {f : Entry → State → State × CmdResult} (h : s.KeepsForm t)
    (hf : ∀ e u, s.KeepsForm u → s.KeepsForm (f e u).1) : s.GoesOn (runCmd id op t f) := by
  unfold Machine.runCmd
  split
  · exact .ite (hf _ _ h).finishWith.next h.next
  · exact h.next

protected theorem State.KeepsForm.accessFault {id : CmdId} {seg addr : Nat} {e : AccErr} (h : s.KeepsForm t) :
    s.KeepsForm (accessFault id seg addr e t).1 :=
  h.faultRecord

/-! ### Machine/PaneRows -/

protected theorem State.KeepsForm.advanceToCycle {k : Core} {c : Nat} (h : s.KeepsForm t) :
    s.KeepsForm (advanceToCycle k c t) :=
  h.advanceTo

end Sys2Proof.Machine
end

section
/-! SUPPORT. The rules of repairs, operands, and the transport of commands. -/

set_option Elab.async false -- the rules are too many to elaborate side by side

namespace Sys2Proof.Machine

variable {s t u : State}

/-! ### Machine/Repair -/

protected theorem State.KeepsForm.appendRepair {type tile unit data : Nat} (h : s.KeepsForm t) :
    s.KeepsForm (appendRepair type tile unit data t) :=
  h.plain

protected theorem State.KeepsForm.discardCore {t' c : Nat} (h : s.KeepsForm t) : s.KeepsForm (discardCore t' c t) :=
  (h.foldl fun _ _ h => h.discard).discardReds

protected theorem State.KeepsForm.withdrawCore {t' c cause : Nat} (h : s.KeepsForm t) :
    s.KeepsForm (withdrawCore t' c cause t) := by
  unfold withdrawCore
  refine .ite ?_ ?_
  · exact h
  · dsimp only
    split
    · exact h.discardCore.appendRepair.updTile.fltPost.appendRepair.updCore.fltPost
    · exact ((h.discardCore.appendRepair.updTile.withCap fun _ h => h.updCore).recheckCores).fltPost

protected theorem State.KeepsForm.carryStrikes {n f p : Nat} (h : s.KeepsForm t) : s.KeepsForm (t.carryStrikes n f p) :=
  h.plain.freshLines

protected theorem State.KeepsForm.moveDirect {n f p : Nat} (h : s.KeepsForm t) : s.KeepsForm (moveDirect n f t p) := by
  unfold moveDirect
  split
  · exact h
  · refine .ite ?_ ?_
    · exact h
    · split
      · exact h.carryStrikes.freshLines.setDirect.foldl fun _ _ h => h.relocate
      · exact h.setDirect.plain.fltPost

protected theorem State.KeepsForm.retireFrame {n f row : Nat} (h : s.KeepsForm t) : s.KeepsForm (retireFrame n f row t) := by
  unfold retireFrame
  refine .ite ?_ ?_
  · exact h
  · exact (((h.appendRepair.withCap fun _ h => h.updSill).foldl fun _ _ h => h.relocate).foldl fun _ _ h => h.moveDirect).fltPost

protected theorem State.KeepsForm.fails {l : SillLine} (h : s.KeepsForm t) : s.KeepsForm (SillLine.fails l t) :=
  h.retireFrame

protected theorem State.KeepsForm.sillRead {l : SillLine} {a errs : Nat} (h : s.KeepsForm t) :
    s.KeepsForm (sillRead l a errs t) :=
  .ite h (.ite (.ite h.updSill.fails h.updSill) (.ite h.fails h.plain.fails))

protected theorem State.KeepsForm.readCode {a errs : Nat} (h : s.KeepsForm t) : s.KeepsForm (readCode a errs t) := by
  unfold Machine.readCode
  dsimp only
  split
  · exact (h.setStrikes fun hw => Table.wf_put _ hw ..).sillRead
  · exact h

protected theorem State.KeepsForm.readSill {a n : Nat} (h : s.KeepsForm t) : s.KeepsForm (t.readSill a n) :=
  .ite h (h.foldl fun _ _ h => h.readCode)

protected theorem State.KeepsForm.takeReads {who : Reader} {a n : Nat} (h : s.KeepsForm t) :
    s.KeepsForm (t.takeReads who a n) :=
  h.readSill.queueReads

protected theorem State.KeepsForm.demandRead {who : Reader} {a n : Nat} (h : s.KeepsForm t) :
    s.KeepsForm (t.demandRead who a n) :=
  h.takeReads.demandShared

protected theorem State.KeepsForm.memoryEvent {code n p st addr : Nat} (h : s.KeepsForm t) :
    s.KeepsForm (memoryEvent code n p st addr t) :=
  h.fltPost

protected theorem State.KeepsForm.countBad {r : RowId} {home : Option Nat} (h : s.KeepsForm t) :
    s.KeepsForm (countBad r home t) :=
  h.updStack.memoryEvent

protected theorem State.KeepsForm.readFailed {a n : Nat} (h : s.KeepsForm t) : s.KeepsForm (t.readFailed a n) :=
  h.readSill.foldl fun _ _ h => .ite h.countBad h

protected theorem State.KeepsForm.noteRead {who : Reader} {a n : Nat} (h : s.KeepsForm t) :
    s.KeepsForm (t.noteRead who a n) := by
  unfold State.noteRead
  split
  · exact h.takeReads
  · exact h.readFailed
  · exact h

/-! ### Machine/Operands -/

protected theorem State.KeepsForm.of {k : Core} {i : Inst} {t' c : Nat} {e : Entry} {o : OpRec} (h : s.KeepsForm t) :
    s.KeepsForm (Exec.of t k i t' c e o).s :=
  h

protected theorem State.KeepsForm.fail {f : OpFail} {x : Exec} (h : s.KeepsForm x.s) :
    s.KeepsForm (x.fail f).s :=
  .iteExec h h

protected theorem State.KeepsForm.rdLs {a n : Nat} {x : Exec} (h : s.KeepsForm x.s) : s.KeepsForm (x.rdLs a n).1.s := by
  unfold Exec.rdLs
  split
  · dsimp only
    exact .fail h
  · exact h

protected theorem State.KeepsForm.wrLs {a : Nat} {bs : List Byte} {x : Exec} (h : s.KeepsForm x.s) :
    s.KeepsForm (x.wrLs a bs).s := by
  unfold Exec.wrLs
  dsimp only
  split
  · exact .fail h
  · exact h

protected theorem State.KeepsForm.queueReadsExec {seg a n : Nat} {x : Exec} (h : s.KeepsForm x.s) :
    s.KeepsForm (x.queueReads seg a n).s :=
  h.takeReads

protected theorem State.KeepsForm.failMem {seg a : Nat} {er : AccErr} {x : Exec} (h : s.KeepsForm x.s) :
    s.KeepsForm (x.failMem seg a er).s :=
  h.fail

protected theorem State.KeepsForm.accessEnds {er : AccErr} {a n : Nat} (h : s.KeepsForm t) :
    s.KeepsForm (t.accessEnds er a n) := by
  unfold State.accessEnds
  split
  · exact h.readFailed
  · exact h.advanceTo
  · exact h

protected theorem State.KeepsForm.rdRow {w seg a n : Nat} {x : Exec} (h : s.KeepsForm x.s) :
    s.KeepsForm (x.rdRow w seg a n).1.s := by
  unfold Exec.rdRow
  dsimp only
  split
  · dsimp only
    exact .failMem h.accessEnds
  · exact h.queueReadsExec.demandTier

protected theorem State.KeepsForm.rdAt {w seg a n : Nat} {x : Exec} (h : s.KeepsForm x.s) : s.KeepsForm (x.rdAt w seg a n).1.s :=
  .iteExec h.rdRow h.rdRow.requestLines

protected theorem State.KeepsForm.wrAt {w seg a : Nat} {bs : List Byte} {x : Exec} (h : s.KeepsForm x.s) :
    s.KeepsForm (x.wrAt w seg a bs).s := by
  unfold Exec.wrAt
  dsimp only
  split
  · exact .failMem h.accessEnds
  · exact ((((h.writeMem ‹_›).noteWrites).requestWrites).demandTier)

protected theorem State.KeepsForm.rdExec {w : Nat} {off : Int} {n : Nat} {x : Exec} (h : s.KeepsForm x.s) :
    s.KeepsForm (x.rd w off n).1.s :=
  .iteFstExec h (.iteFstExec h.rdLs h.rdAt)

protected theorem State.KeepsForm.wrExec {w : Nat} {off : Int} {bs : List Byte} {x : Exec} (h : s.KeepsForm x.s) :
    s.KeepsForm (x.wr w off bs).s :=
  .iteExec h (.iteExec h.wrLs h.wrAt)

protected theorem State.KeepsForm.rdLine {o : Opnd} {k : Nat} {x : Exec} (h : s.KeepsForm x.s) :
    s.KeepsForm (x.rdLine o k).1.s :=
  h.rdExec

protected theorem State.KeepsForm.rdScales {o : Opnd} {k : Nat} {x : Exec} (h : s.KeepsForm x.s) :
    s.KeepsForm (x.rdScales o k).1.s := by
  unfold Exec.rdScales
  split
  · exact h
  · exact h.rdExec

protected theorem State.KeepsForm.rdVals {o : Opnd} {k : Nat} {x : Exec} (h : s.KeepsForm x.s) :
    s.KeepsForm (x.rdVals o k).1.s :=
  h.rdLine.rdScales

protected theorem State.KeepsForm.wrLine {o : Opnd} {k : Nat} {cs scales : List Nat} {x : Exec} (h : s.KeepsForm x.s) :
    s.KeepsForm (x.wrLine o k cs scales).s := by
  unfold Exec.wrLine
  dsimp only
  split
  · exact h.wrExec
  · exact h.wrExec.wrExec

protected theorem State.KeepsForm.wrVals {o : Opnd} {mode : Mode} {k : Nat} {vs : List Num} {x : Exec} (h : s.KeepsForm x.s) :
    s.KeepsForm (x.wrVals o mode k vs).s :=
  h.wrLine

protected theorem State.KeepsForm.writeBack {x : Exec} (h : s.KeepsForm x.s) : s.KeepsForm (x.writeBack).s := by
  unfold Exec.writeBack
  split
  · exact .iteExec ((h.foldlExec fun _ _ h => h.wrLs)) h
  · exact h

protected theorem State.KeepsForm.touchSash {reads writes : List (Nat × Nat)} {x : Exec} (h : s.KeepsForm x.s) :
    s.KeepsForm (x.touchSash reads writes).s := by
  unfold Exec.touchSash
  split
  · exact h
  · exact .iteExec h.writeBack (.iteExec h.writeBack h)

protected theorem State.KeepsForm.putBack {bs : List (Nat × List Byte)} {x : Exec} (h : s.KeepsForm x.s) :
    s.KeepsForm (x.putBack bs).s :=
  h

protected theorem State.KeepsForm.undoRows {b : Before} {l : Nat} {x : Exec} (h : s.KeepsForm x.s) :
    s.KeepsForm (x.undoRows b l).s :=
  (h.putBack.foldl fun _ _ h => h.tryWrite)

protected theorem State.KeepsForm.freeBytes : ∀ {n : Nat} {t : State}, s.KeepsForm t → s.KeepsForm (t.freeBytes n).2
  | 0, _, h => h
  | _ + 1, _, h => h.draw.freeBytes

/-- The state left by free bytes: the number of bytes can be large, and `freeBytes` need not be unfolded. -/
theorem State.KeepsForm.of_freeBytes {n : Nat} {p : List Byte × State} (h : s.KeepsForm t) (e : t.freeBytes n = p) :
    s.KeepsForm p.2 :=
  e ▸ h.freeBytes

protected theorem State.KeepsForm.fillFree : ∀ {rs : List (Nat × Nat)} {x : Exec}, s.KeepsForm x.s → s.KeepsForm (x.fillFree rs).s
  | [], _, h => h
  | _ :: rs, _, h => State.KeepsForm.fillFree (rs := rs) h.freeBytes

protected theorem State.KeepsForm.scrambleExec {rs : List (Nat × Nat)} {x : Exec} (h : s.KeepsForm x.s) :
    s.KeepsForm (x.scramble rs).s :=
  .iteExec h h.touchSash.fillFree

protected theorem State.KeepsForm.scramble : ∀ {rs : List (Nat × Nat)} {t : State}, s.KeepsForm t → s.KeepsForm (t.scramble rs)
  | [], _, h => h
  | _ :: _, _, h => h.freeBytes.tryWrite.scramble

protected theorem State.KeepsForm.scrambleMem {rs : List (Nat × Nat)} {x : Exec} (h : s.KeepsForm x.s) :
    s.KeepsForm (x.scrambleMem rs).s :=
  h.scramble

protected theorem State.KeepsForm.raceBefore {eng : Engine} {reads : List (Nat × Nat)} {x : Exec} (h : s.KeepsForm x.s) :
    s.KeepsForm (x.raceBefore eng reads).s :=
  h.scrambleExec

protected theorem State.KeepsForm.freeSet {bad : List Nat} {w : WeightSet} {x : Exec} (h : s.KeepsForm x.s) :
    s.KeepsForm (x.freeSet bad w).1.s := by
  unfold Exec.freeSet
  refine .iteFstExec ?_ h
  split
  rename_i hdata
  split
  rename_i hscales
  exact (h.of_freeBytes hdata).of_freeBytes hscales

protected theorem State.KeepsForm.spoil {l : Taint} {x : Exec} (h : s.KeepsForm x.s) : s.KeepsForm (x.spoil l).s := by
  unfold Exec.spoil
  extract_lets y
  have hy : s.KeepsForm y.s := h.scrambleExec.scrambleMem
  have hset : ∀ (z : Exec) w, s.KeepsForm z.s → s.KeepsForm (z.freeSet l.loads w).1.s := fun _ _ hz => hz.freeSet
  generalize Exec.freeSet = f at hset ⊢
  exact hset _ _ (hset _ _ hy)

protected theorem State.KeepsForm.raceAfter {eng : Engine} {reads writes : List (Nat × Nat)} {loads : Bool}
    {x : Exec} (h : s.KeepsForm x.s) :
    s.KeepsForm (x.raceAfter eng reads writes loads).s :=
  .iteExec h.scrambleExec.spoil h.scrambleExec

/-! ### Machine/Accept -/

protected theorem State.KeepsForm.noteAccept {n : Nat} {pkt : List Byte} {kept : List (List Byte)} (h : s.KeepsForm t) :
    s.KeepsForm (noteAccept t n pkt kept) := by
  unfold noteAccept
  dsimp only
  split
  · refine .ite ?_ ?_
    · exact .noteRead (.ite (h.foldl fun _ _ h => h.noteRead) h)
    · exact .ite (h.foldl fun _ _ h => h.noteRead) h
  · exact .ite (h.foldl fun _ _ h => h.noteRead) h

/-! ### Machine/Transport -/

protected theorem State.KeepsForm.setCtxStat {ctx op result : Nat} {busy : Bool} (h : s.KeepsForm t) :
    s.KeepsForm (setCtxStat ctx op result busy t) :=
  h.plain

protected theorem State.KeepsForm.claimMirror {n : Nat} {d : CtxDesc} (h : s.KeepsForm t) (e : claimMirror n d t = some u) :
    s.KeepsForm u := by
  simp only [Machine.claimMirror] at e
  split at e
  · exact h.claimFrame e
  · split at e
    · cases e
      exact h.setDirect
    · cases e

protected theorem State.KeepsForm.assignSteward {n : Nat} (h : s.KeepsForm t) : s.KeepsForm (assignSteward n t) := by
  unfold assignSteward
  exact h.draw.updCtx

protected theorem State.KeepsForm.execEnable {n : Nat} (h : s.KeepsForm t) : s.GoesOn (execEnable n t) := by
  unfold execEnable
  refine .ite ?_ ?_
  · exact h.next
  · refine .ite ?_ ?_
    · exact h.setCtxStat.next
    · split
      · exact h.setCtxStat.next
      · dsimp only
        split
        · exact h.setCtxStat.next
        · exact (((((h.claimMirror ‹_›).updCtx).assignSteward).drainHeld).setCtxStat).next

protected theorem State.KeepsForm.execDisable {n : Nat} (h : s.KeepsForm t) : s.GoesOn (execDisable n t) :=
  .ite h.next (.ite h.setCtxStat.next h.updCtx.setCtxStat.settleDisable.next)

protected theorem State.KeepsForm.execTerminate {n : Nat} (h : s.KeepsForm t) : s.GoesOn (execTerminate n t) :=
  .ite h.next (.ite h.setCtxStat.next h.setCtxStat.terminateCtx.next)

protected theorem State.KeepsForm.updRing {n r : Nat} {f : Ring → Ring} (h : s.KeepsForm t) :
    s.KeepsForm (updRing n r f t) :=
  h.updCtx

protected theorem State.KeepsForm.execDoorbell {n r width : Nat} {value : Word} (h : s.KeepsForm t) :
    s.GoesOn (execDoorbell n r width value t) :=
  .ite h.next (.ite h.raiseEvent.next h.updRing.next)

protected theorem State.KeepsForm.execDbCqHeadWrite {n : Nat} {value : Word} (h : s.KeepsForm t) :
    s.GoesOn (execDbCqHeadWrite n value t) :=
  .ite h.updCtx.drainHeld.next h.raiseEvent.next

protected theorem State.KeepsForm.execDbCqArmWrite {n : Nat} {value : Word} (h : s.KeepsForm t) :
    s.GoesOn (execDbCqArmWrite n value t) :=
  h.updCtx.completionMsg.next

protected theorem State.KeepsForm.takeHolds {ps : List Nat} (h : s.KeepsForm t) : s.KeepsForm (takeHolds ps t) := by
  unfold takeHolds
  refine h.foldl fun _ _ h => ?_
  split
  · exact h.setDirect
  · exact h

protected theorem State.KeepsForm.consume {n r : Nat} (h : s.KeepsForm t) : s.KeepsForm (consume n r t) :=
  h.updRing

protected theorem State.KeepsForm.addEntry {n : Nat} {e : Entry} (h : s.KeepsForm t) :
    s.KeepsForm (addEntry n e t) :=
  h.updCtx.plain

protected theorem State.KeepsForm.acceptPacket {n r : Nat} {pkt : List Byte} {kept : List (List Byte)}
    {maps : Table (List Nat)} {what : Reread} {tries : Nat} (h : s.KeepsForm t) :
    s.KeepsForm (acceptPacket n r pkt kept maps what tries t) := by
  unfold acceptPacket
  dsimp only
  split
  · exact h.noteAccept.updRing
  · refine .finishEntry ?_
    refine .addEntry ?_
    split
    · exact h.noteAccept.consume.faultRecord
    · exact h.noteAccept.consume
  · refine .ite ?_ ?_
    · exact h.noteAccept.updRing
    · exact .refreshWaits (.ite h.noteAccept.consume.takeHolds.addEntry.updCtx h.noteAccept.consume.takeHolds.addEntry)

protected theorem State.KeepsForm.doorbellAhead {n r : Nat} (h : s.KeepsForm t) : s.KeepsForm (doorbellAhead n r t) :=
  h.updRing.raiseEvent.fltPost

protected theorem State.KeepsForm.serveSlot {n r tries : Nat} (h : s.KeepsForm t) : s.KeepsForm (serveSlot n r tries t) := by
  unfold serveSlot
  dsimp only
  split
  · exact .ite h.noteRead.updRing h.noteRead.doorbellAhead
  · exact h.noteRead.terminateCtx.fltPost
  · exact .ite h.noteRead.acceptPacket (.ite h.noteRead.updRing h.noteRead.doorbellAhead)

protected theorem State.KeepsForm.execPacketFetch (h : s.KeepsForm t) : s.GoesOn (execPacketFetch t) := by
  unfold execPacketFetch
  refine .ite ?_ ?_
  · exact h.next
  · split
    · exact h.next
    · exact h.plain.updCtx.serveSlot.next

protected theorem State.KeepsForm.execSlotReread {n r : Nat} (h : s.KeepsForm t) : s.GoesOn (execSlotReread n r t) := by
  unfold execSlotReread
  split
  · exact .ite h.serveSlot.next h.next
  · exact h.next

protected theorem State.KeepsForm.rereadData {n r : Nat} {kind : Reread} (h : s.KeepsForm t) :
    s.GoesOn (rereadData n r kind t) := by
  unfold rereadData
  split
  · exact .ite h.acceptPacket.next h.next
  · exact h.next

protected theorem State.KeepsForm.execDescBlockReread {n r : Nat} (h : s.KeepsForm t) : s.GoesOn (execDescBlockReread n r t) :=
  h.rereadData

protected theorem State.KeepsForm.execProgImageReread {n r : Nat} (h : s.KeepsForm t) : s.GoesOn (execProgImageReread n r t) :=
  h.rereadData

protected theorem State.KeepsForm.execShardMapReread {n r : Nat} (h : s.KeepsForm t) : s.GoesOn (execShardMapReread n r t) :=
  h.rereadData

protected theorem State.KeepsForm.execReleaseTime {id : CmdId} (h : s.KeepsForm t) : s.GoesOn (execReleaseTime id t) := by
  unfold execReleaseTime
  split
  · exact .ite h.advanceTo.updEntry.refreshWaits.next h.next
  · exact h.next

protected theorem State.KeepsForm.execTokenWaitTimeout {id : CmdId} (h : s.KeepsForm t) :
    s.GoesOn (execTokenWaitTimeout id t) := by
  unfold execTokenWaitTimeout
  dsimp only
  split
  · exact .ite h.advanceTo.finishWith.raiseEvent.next h.next
  · exact h.next

protected theorem State.KeepsForm.execCommandDispatch {id : CmdId} {t' c : Nat} (h : s.KeepsForm t) :
    s.GoesOn (execCommandDispatch id t' c t) := by
  unfold execCommandDispatch
  split
  · exact .ite h.updEntry.preemptFor.next h.next
  · exact h.next

protected theorem State.KeepsForm.execCommandFinish {id : CmdId} (h : s.KeepsForm t) :
    s.GoesOn (execCommandFinish id t) :=
  h.finishEntry.next

protected theorem State.KeepsForm.execSysNop {id : CmdId} (h : s.KeepsForm t) : s.GoesOn (execSysNop id t) :=
  h.runCmd fun _ _ h => h

protected theorem State.KeepsForm.execSysTokenSet {id : CmdId} (h : s.KeepsForm t) : s.GoesOn (execSysTokenSet id t) := by
  unfold execSysTokenSet
  split
  · exact .ite h.next (h.runCmd fun _ _ h => h.updCtx.refreshWaits)
  · exact h.next

protected theorem State.KeepsForm.noteTables {id : CmdId} {c : Ctx} (h : s.KeepsForm t) :
    s.KeepsForm (noteTables id c t) :=
  h.noteRead.noteRead

protected theorem State.KeepsForm.execSegSync {id : CmdId} (h : s.KeepsForm t) : s.GoesOn (execSegSync id t) := by
  unfold execSegSync
  split
  · refine .ite ?_ ?_
    · exact h.next
    · refine h.runCmd fun _ _ h => ?_
      split
      · dsimp only
        exact h.noteTables
      · dsimp only
        exact h.noteTables.updCtx
  · exact h.next

protected theorem State.KeepsForm.reestablish {n : Nat} (h : s.KeepsForm t) : s.KeepsForm (reestablish t n) := by
  unfold reestablish
  dsimp only
  split
  · exact h
  · exact h
  · exact .ite h h.terminateCtx.fltPost

protected theorem State.KeepsForm.execStewardRestart {ns : List Nat} (h : s.KeepsForm t) : s.GoesOn (execStewardRestart ns t) :=
  (h.foldl fun _ _ h => h.reestablish).next

end Sys2Proof.Machine
end

section
/-! SUPPORT. The rules of the sequencer, the copy engines, and the gather engine. -/

set_option Elab.async false -- the rules are too many to elaborate side by side

namespace Sys2Proof.Machine

variable {s t u : State}

/-! ### Machine/Sequencer -/

protected theorem State.KeepsForm.endHeldAll {id : CmdId} {words : List (List Byte)} (h : s.KeepsForm t) :
    s.KeepsForm (endHeldAll id words t) :=
  h.foldl fun _ _ h => h.updCore

protected theorem State.KeepsForm.failCommand {id : CmdId} {inst status detail : Nat} (h : s.KeepsForm t) :
    s.KeepsForm (failCommand id inst status detail t) :=
  h.failRun.endHeldAll

protected theorem State.KeepsForm.execInstanceStart {id : CmdId} {idx t' c : Nat} (h : s.KeepsForm t) :
    s.GoesOn (execInstanceStart id idx t' c t) := by
  unfold execInstanceStart
  split
  · exact .ite h.setCore.updEntry.settleCore.preemptAll.next h.next
  · exact h.next

protected theorem State.KeepsForm.endRun {t' c : Nat} {k : Core} {i : Inst} {e : Entry} (h : s.KeepsForm t) :
    s.GoesOn (endRun t' c k i e t) :=
  .ite (.ite h.updEntry.freeCore.next h.updEntry.freeCore.finishWith.next) h.next

protected theorem State.KeepsForm.execProgRun {id : CmdId} (h : s.KeepsForm t) : s.GoesOn (execProgRun id t) := by
  unfold execProgRun
  split
  · exact .ite (h.runCmd fun _ _ h => h) h.next
  · exact h.next

protected theorem State.KeepsForm.execProgTokenWaitSatisfied {t' c : Nat} (h : s.KeepsForm t) :
    s.GoesOn (execProgTokenWaitSatisfied t' c t) := by
  unfold execProgTokenWaitSatisfied
  dsimp only
  split
  · exact h.next
  · split
    · exact h.next
    · split
      · exact h.next
      · exact .ite h.setCore.settleCore.next h.next

protected theorem State.KeepsForm.progWord {op t' c : Nat} {ok : Issue → Bool}
    {f : Inst → List Byte → Nat × List Loop} (h : s.KeepsForm t) :
    s.GoesOn (progWord op t' c t ok f) := by
  unfold progWord
  split
  · exact h.next
  · exact .ite h.setCore.settleCore.next h.next

protected theorem State.KeepsForm.execProgNop {t' c : Nat} (h : s.KeepsForm t) : s.GoesOn (execProgNop t' c t) :=
  h.progWord

protected theorem State.KeepsForm.execProgLoop {t' c : Nat} (h : s.KeepsForm t) : s.GoesOn (execProgLoop t' c t) :=
  h.progWord

protected theorem State.KeepsForm.execProgEndloop {t' c : Nat} (h : s.KeepsForm t) : s.GoesOn (execProgEndloop t' c t) :=
  h.progWord

protected theorem State.KeepsForm.execProgDrain {t' c : Nat} (h : s.KeepsForm t) : s.GoesOn (execProgDrain t' c t) :=
  h.progWord

protected theorem State.KeepsForm.report {i : Inst} {f : OpFail} (h : s.KeepsForm t) :
    s.KeepsForm (OpFail.report i f t) :=
  .failCommand (.ite h h.faultRecord)

protected theorem State.KeepsForm.closeExec {x : Exec} (h : s.KeepsForm x.s) : s.KeepsForm (x.close) := by
  unfold Exec.close
  dsimp only
  split
  · exact .ite h.setCore.updEntry.withdrawCore h.setCore.updEntry
  · exact .report (.ite h.setCore.updEntry.withdrawCore h.setCore.updEntry)

/-- The work on a group of rows keeps the form. -/
def RowOp.KeepsForm (r : RowOp) : Prop := ∀ (s : State) (x : Exec) (r0 n : Nat), s.KeepsForm x.s → s.KeepsForm (r.body x r0 n).s

/-- The start of an op keeps the form. -/
def OpImpl.KeepsForm (m : OpImpl) : Prop := ∀ (s : State) (x : Exec) (o : OpRec), s.KeepsForm x.s → s.KeepsForm (m.start x o).1.s

theorem OpImpl.keepsForm_mk {eng : Engine} {early : Bool} {ok : Core → List Byte → OpRec → Bool}
    {plan : Exec → List (Nat × Nat) × List (Nat × Nat)} {start : Exec → OpRec → Exec × OpRec}
    (hs : ∀ (s : State) (x : Exec) (o : OpRec), s.KeepsForm x.s → s.KeepsForm (start x o).1.s) :
    OpImpl.KeepsForm { eng, early, ok, plan, start } := hs

protected theorem State.KeepsForm.runRowOp {r : RowOp} {eng : Engine} {r0 n : Nat} {x : Exec} (h : s.KeepsForm x.s)
    (hr : r.KeepsForm) : s.KeepsForm (RowOp.run r eng x r0 n).s :=
  .raceAfter (hr _ _ _ _ (.iteExec h.raceBefore h.raceBefore.touchSash))

protected theorem RowOp.KeepsForm.impl {r : RowOp} {eng : Engine} {ok : Core → List Byte → OpRec → Bool} (hr : r.KeepsForm) :
    (r.impl eng ok).KeepsForm :=
  fun _ _ _ h => .iteFstExec h (.runRowOp h hr)

protected theorem State.KeepsForm.begin {m : OpImpl} {o : OpRec} {x : Exec} (h : s.KeepsForm x.s) (hm : m.KeepsForm) :
    s.KeepsForm (OpImpl.begin m x o).1.s :=
  hm _ _ _ h

protected theorem State.KeepsForm.startOp {m : OpImpl} {t' c : Nat} {k : Core} {i : Inst} {e : Entry}
    {o : OpRec} (h : s.KeepsForm t) (hm : m.KeepsForm) :
    s.KeepsForm (startOp m t' c k i e o t) :=
  .closeExec (h.of.begin hm)

protected theorem State.KeepsForm.pushOp {m : OpImpl} {t' c : Nat} {y : Issue} (h : s.KeepsForm t) :
    s.KeepsForm (pushOp m t' c y t) :=
  h.setCore

protected theorem State.KeepsForm.orWait (h : s.KeepsForm t) (hu : s.KeepsForm u) : s.KeepsForm (t.orWait u) := .ite h hu

protected theorem State.KeepsForm.tryStart {op : Nat} {m : OpImpl} {t' c : Nat} (h : s.KeepsForm t) (hm : m.KeepsForm) :
    s.KeepsForm (tryStart op m t' c t) := by
  unfold Machine.tryStart
  dsimp only
  split
  · exact h
  · split
    · exact h
    · split
      · exact .ite (h.orWait (h.startOp hm)) h
      · exact h

protected theorem State.KeepsForm.issueOrStart {op : Nat} {m : OpImpl} {t' c : Nat} (h : s.KeepsForm t) (hm : m.KeepsForm) :
    s.GoesOn (issueOrStart op m t' c t) := by
  unfold issueOrStart
  refine .ite ?_ ?_
  · exact (h.tryStart hm).settleCore.next
  · split
    · exact h.next
    · exact .ite (h.pushOp.tryStart hm).settleCore.next h.next

protected theorem State.KeepsForm.endOp {t' c : Nat} {eng : Engine} {k : Core} {i : Inst} {o : OpRec} (h : s.KeepsForm t) :
    s.KeepsForm (endOp t' c eng k i o t) :=
  (h.setCore.foldl fun _ _ h => h.releasePage).settleCore

protected theorem State.KeepsForm.execTileOpComplete {t' c : Nat} {eng : Engine} (h : s.KeepsForm t) :
    s.GoesOn (execTileOpComplete t' c eng t) := by
  unfold execTileOpComplete
  dsimp only
  split
  · exact h.next
  · split
    · exact .ite (.ite h.endOp.next (.ite h.endOp.next h.setCore.settleCore.next)) h.next
    · exact h.next

protected theorem State.KeepsForm.execProgTokenHoldTimeout {t' c : Nat} (h : s.KeepsForm t) :
    s.GoesOn (execProgTokenHoldTimeout t' c t) := by
  unfold execProgTokenHoldTimeout
  split
  · exact h.next
  · split
    · exact h.next
    · dsimp only
      split
      · exact .ite h.next h.advanceTo.failCommand.raiseEvent.next
      · exact h.next

/-! ### Machine/Mov -/

protected theorem State.KeepsForm.movLine {a c : Opnd} {mode : Mode} {k : Nat} {x : Exec} (h : s.KeepsForm x.s) :
    s.KeepsForm (movLine a c mode x k).s :=
  .iteExec h.rdLine.rdScales (.iteExec (.wrLine h.rdLine.rdScales) (.wrVals h.rdLine.rdScales))

protected theorem State.KeepsForm.zeroLine {c : Opnd} {k : Nat} {x : Exec} (h : s.KeepsForm x.s) :
    s.KeepsForm (zeroLine c x k).s :=
  h.wrLine

theorem movRow_keepsForm : movRow.KeepsForm := fun _ _ _ _ h => h.foldlExec fun _ _ h => h.movLine

theorem movImpl_keepsForm : movImpl.KeepsForm := movRow_keepsForm.impl

theorem zeroRow_keepsForm : zeroRow.KeepsForm := fun _ _ _ _ h => h.foldlExec fun _ _ h => h.zeroLine

protected theorem State.KeepsForm.execMovLoad {t' c : Nat} (h : s.KeepsForm t) : s.GoesOn (execMovLoad t' c t) :=
  h.issueOrStart movImpl_keepsForm

protected theorem State.KeepsForm.execMovStore {t' c : Nat} (h : s.KeepsForm t) : s.GoesOn (execMovStore t' c t) :=
  h.issueOrStart movImpl_keepsForm

protected theorem State.KeepsForm.execMovCopy {t' c : Nat} (h : s.KeepsForm t) : s.GoesOn (execMovCopy t' c t) :=
  h.issueOrStart movImpl_keepsForm

protected theorem State.KeepsForm.execMovLs {t' c : Nat} (h : s.KeepsForm t) : s.GoesOn (execMovLs t' c t) :=
  h.issueOrStart movImpl_keepsForm

protected theorem State.KeepsForm.execMovZero {t' c : Nat} (h : s.KeepsForm t) : s.GoesOn (execMovZero t' c t) :=
  h.issueOrStart zeroRow_keepsForm.impl

/-! ### Machine/Ga -/

protected theorem State.KeepsForm.failIndex {t' : TbAt} {addr : Nat} {x : Exec} (h : s.KeepsForm x.s) :
    s.KeepsForm (x.failIndex t' addr).s :=
  h.fail

protected theorem State.KeepsForm.bagsOf {t' : TbAt} {d : Ix} {k0 : Nat} {x : Exec} (h : s.KeepsForm x.s) :
    s.KeepsForm (x.bagsOf t' d k0).1.s := by
  unfold Exec.bagsOf
  refine .iteFstExec ?_ ?_
  · exact h
  · refine .iteFstExec ?_ ?_
    · exact h
    · refine .iteFstExec ?_ ?_
      · exact h.rdExec
      · dsimp only
        split
        · dsimp only
          exact h.rdExec.failIndex
        · dsimp only
          exact h.rdExec

protected theorem State.KeepsForm.firstPos {d : Ix} {k0 : Nat} {x : Exec} (h : s.KeepsForm x.s) :
    s.KeepsForm (x.firstPos d k0).1.s :=
  .iteFstExec h (.iteFstExec h h.rdExec)

protected theorem State.KeepsForm.positions {t' : TbAt} {k0 j0 : Nat} {x : Exec} (h : s.KeepsForm x.s) :
    s.KeepsForm (x.positions t' k0 j0).1.s := by
  unfold Exec.positions
  refine .iteFstExec ?_ ?_
  · exact .bagsOf (.iteFstExec h.rdExec.rdExec h.rdExec)
  · dsimp only
    split
    · dsimp only
      exact .failIndex (.bagsOf (.iteFstExec h.rdExec.rdExec h.rdExec))
    · exact .bagsOf (.iteFstExec h.rdExec.rdExec h.rdExec)

protected theorem State.KeepsForm.wrAttars {c : Opnd} {k : Nat} {ts : List Attar} {x : Exec} (h : s.KeepsForm x.s) :
    s.KeepsForm (x.wrAttars c k ts).s :=
  .wrLine h

protected theorem State.KeepsForm.gatherOut {t' : Tb} {c : Opnd} {k : Nat} {p : GaPos} {x : Exec} (h : s.KeepsForm x.s) :
    s.KeepsForm (x.gatherOut t' c k p).s :=
  .iteExec h.wrLine (.iteExec h.wrAttars h.wrVals)

protected theorem State.KeepsForm.bagOut {t' : Tb} {ix : Ix} {c : Opnd} {k : Nat} {ps : List GaPos}
    {x : Exec} (h : s.KeepsForm x.s) :
    s.KeepsForm (x.bagOut t' ix c k ps).s :=
  .iteExec h.wrVals (.iteExec (.wrAttars h) (.iteExec (.wrLine h) (.wrVals h)))

protected theorem State.KeepsForm.freeShared {lsReads lsWrites memReads memWrites : List (Nat × Nat)}
    {x : Exec} (h : s.KeepsForm x.s) :
    s.KeepsForm (x.freeShared lsReads lsWrites memReads memWrites).s :=
  .iteExec h h.scrambleExec.scrambleMem

protected theorem State.KeepsForm.tryOut {g : GaOp} {k : Nat} {x : Exec} (h : s.KeepsForm x.s) :
    s.KeepsForm (x.tryOut g k).1.s := by
  unfold Exec.tryOut
  refine .iteFstExec ?_ ?_
  · exact h
  · refine .iteFstExec ?_ ?_
    · exact .freeShared (.iteExec h.touchSash.gatherOut h.touchSash.bagOut)
    · exact .raceAfter (.freeShared (.iteExec h.touchSash.gatherOut h.touchSash.bagOut))

protected theorem State.KeepsForm.askRow {t' : Tb} {p : GaPos} {addr : Nat} {x : Exec} (h : s.KeepsForm x.s) :
    s.KeepsForm (x.askRow t' p addr).1.s := by
  unfold Exec.askRow
  dsimp only
  split
  · exact h.demandTier
  · exact .ite h.rdRow h.rdRow.request

protected theorem State.KeepsForm.askRows {g : GaOp} {x : Exec} (h : s.KeepsForm x.s) :
    s.KeepsForm (x.askRows g).1.s := by
  unfold Exec.askRows
  refine h.foldlFstExec fun _ _ h => ?_
  split
  · exact h
  · split
    · exact h
    · exact .iteFstExec h h.askRow

protected theorem State.KeepsForm.gatherStart {o : OpRec} {x : Exec} (h : s.KeepsForm x.s) :
    s.KeepsForm (gatherStart x o).1.s := by
  unfold Machine.gatherStart
  extract_lets x1
  have h1 : s.KeepsForm x1.s := h.raceBefore.touchSash
  clear_value x1
  split
  rename_i e2
  have h2 := State.KeepsForm.of_fst e2 h1.firstPos
  split
  rename_i e3
  have h3 := State.KeepsForm.of_fst e3 h2.positions
  extract_lets outs x4
  have h4 : s.KeepsForm x4.s := h3.raceAfter
  clear_value x4
  split
  rename_i e5
  have h5 := State.KeepsForm.of_fst e5 (h4.foldlFstExec fun _ _ h => h.tryOut)
  exact .iteFstExec h5 h5.askRows

theorem gatherImpl_keepsForm : gatherImpl.KeepsForm := OpImpl.keepsForm_mk fun _ _ _ h => h.gatherStart

protected theorem State.KeepsForm.execGaGather {t' c : Nat} (h : s.KeepsForm t) : s.GoesOn (execGaGather t' c t) :=
  h.issueOrStart gatherImpl_keepsForm

protected theorem State.KeepsForm.execGaBag {t' c : Nat} (h : s.KeepsForm t) : s.GoesOn (execGaBag t' c t) :=
  h.issueOrStart gatherImpl_keepsForm

protected theorem State.KeepsForm.contributions {a : Opnd} {weighted : Bool} : ∀ {ps : List GaPos} {n : Nat} {x : Exec},
    s.KeepsForm x.s → s.KeepsForm (x.contributions a weighted n ps).1.s
  | [], _, _, h => h
  | p :: ps, n, x, h => by
    unfold Exec.contributions
    split
    · exact h.contributions
    · exact State.KeepsForm.contributions (ps := ps) h.rdLine

protected theorem State.KeepsForm.sendAcc {a : Acc} (h : s.KeepsForm t) : s.KeepsForm (t.sendAcc a) :=
  h.plain.request.queueReads

protected theorem State.KeepsForm.sendGroups {w : Nat} {o : OpRec} {groups : List (List Acc)} {sent : Nat}
    {x : Exec} (h : s.KeepsForm x.s) :
    s.KeepsForm (x.sendGroups w o groups sent).1.s :=
  (h.foldl fun _ _ h => h.sendAcc)

protected theorem State.KeepsForm.scatterAddStart {o : OpRec} {x : Exec} (h : s.KeepsForm x.s) :
    s.KeepsForm (scatterAddStart x o).1.s := by
  unfold Machine.scatterAddStart
  extract_lets t' a ix fp rd x1 zeros
  have h1 : s.KeepsForm x1.s := h.raceBefore.touchSash
  clear_value x1
  split
  split
  rename_i e2
  have h2 := State.KeepsForm.of_fst e2 h1.positions
  extract_lets x3
  have h3 : s.KeepsForm x3.s := .iteExec h2 h2
  clear_value x3
  split
  rename_i x4 cs e4
  have h4 := State.KeepsForm.of_fst e4 h3.contributions
  extract_lets x5
  have h5 : s.KeepsForm x5.s := h4.raceAfter
  clear_value x5
  refine .iteFstExec h5 ?_
  extract_lets
  split
  extract_lets groups ga
  split
  rename_i e6
  exact State.KeepsForm.of_fst e6 (.sendGroups (x := { x5 with sat := _ }) h5)

protected theorem State.KeepsForm.execGaScatterAdd {t' c : Nat} (h : s.KeepsForm t) : s.GoesOn (execGaScatterAdd t' c t) :=
  h.issueOrStart (OpImpl.keepsForm_mk fun _ _ _ h => h.scatterAddStart)

protected theorem State.KeepsForm.scatterRow {t' : TbAt} {addr : Nat} {again : Bool} {bs : List Byte}
    {x : Exec} (h : s.KeepsForm x.s) :
    s.KeepsForm (x.scatterRow t' addr again bs).s :=
  h.foldlExec fun _ _ h => .iteExec (.iteSnd h.draw h) (.wrAt (.iteSnd h.draw h))

protected theorem State.KeepsForm.scatterStart {o : OpRec} {x : Exec} (h : s.KeepsForm x.s) :
    s.KeepsForm (scatterStart x o).1.s := by
  unfold Machine.scatterStart
  extract_lets t' a rd x1 zeros
  have h1 : s.KeepsForm x1.s := h.raceBefore.touchSash
  clear_value x1
  split
  rename_i e2
  have h2 := State.KeepsForm.of_fst e2 h1.positions
  extract_lets x3
  have h3 : s.KeepsForm x3.s := .iteExec h2 h2
  clear_value x3
  split
  rename_i e4
  have h4 := State.KeepsForm.of_fst e4 h3.contributions
  exact .foldlFstExec h4.raceAfter fun _ _ h => .iteExec h.scatterRow.freeShared h.scatterRow.freeShared

protected theorem State.KeepsForm.execGaScatter {t' c : Nat} (h : s.KeepsForm t) : s.GoesOn (execGaScatter t' c t) :=
  h.issueOrStart (OpImpl.keepsForm_mk fun _ _ _ h => h.scatterStart)

protected theorem State.KeepsForm.closeGather {o : OpRec} {g : GaOp} {x : Exec} (h : s.KeepsForm x.s) :
    s.KeepsForm (x.closeGather o g) :=
  .closeExec h

protected theorem State.KeepsForm.execRowArrival {t' c pos : Nat} (h : s.KeepsForm t) : s.GoesOn (execRowArrival t' c pos t) := by
  unfold execRowArrival
  dsimp only
  split
  · exact h.next
  · split
    · split
      · exact h.next
      · split
        · exact h.next
        · split
          · exact h.next
          · refine .ite ?_ ?_
            · exact h.next
            · split
              · exact h.of.failMem.closeGather.next
              · refine .ite ?_ ?_
                · exact h.next
                · exact .next (.closeGather (.iteFstExec (.tryOut h.of.unkeep) (.askRows (.tryOut h.of.unkeep))))
    · exact h.next

protected theorem State.KeepsForm.readAhead {t' c a n : Nat} (h : s.KeepsForm t) : s.KeepsForm (t.readAhead t' c a n) :=
  h.queueReads.request

protected theorem State.KeepsForm.execRunAheadRead {t' c pos : Nat} (h : s.KeepsForm t) :
    s.GoesOn (execRunAheadRead t' c pos t) := by
  unfold execRunAheadRead
  dsimp only
  split
  · exact h.next
  · split
    · split
      · exact h.next
      · split
        · exact h.next
        · refine .ite ?_ ?_
          · refine .next ?_
            refine .readAhead ?_
            split
            · exact .ite h.setCore h.setCore.readAhead
            · exact h.setCore
          · exact h.next
    · exact h.next

protected theorem State.KeepsForm.reply {o : Origin} {size : Nat} {bytes : List Byte} (h : s.KeepsForm t) :
    s.KeepsForm (t.reply o size bytes) :=
  .ite h.emit h.sendTo

protected theorem State.KeepsForm.respond {dst : Origin} {bytes : List Byte} (h : s.KeepsForm t) :
    s.KeepsForm (t.respond dst bytes) :=
  h.reply

protected theorem State.KeepsForm.ackTo {dst : Origin} {sat : Bool} (h : s.KeepsForm t) :
    s.KeepsForm (t.ackTo dst sat) :=
  h.reply

protected theorem State.KeepsForm.readFor {who : Reader} {a n : Nat} {f : State → State} (h : s.KeepsForm t)
    (hf : ∀ u, s.KeepsForm u → s.KeepsForm (f u)) : s.KeepsForm (t.readFor who a n f) :=
  .ite h.demandRead (hf _ h.demandRead)

protected theorem State.KeepsForm.serveRead {src : Origin} {a n : Nat} (h : s.KeepsForm t) :
    s.KeepsForm (t.serveRead src a n) := by
  unfold State.serveRead
  split
  · exact h.readFor fun _ h => h.respond
  · exact h.readFailed.respond

protected theorem State.KeepsForm.landWrite {src : Option Origin} {a : Nat} {bs : List Byte} (h : s.KeepsForm t) :
    s.KeepsForm (landWrite src a bs t) := by
  unfold landWrite
  refine .ite ?_ ?_
  · split
    · exact h.updPc
    · exact h
  · split
    · dsimp only
      split
      · refine .ite ?_ ?_
        · exact (((h.writeMem ‹_›).noteWrites).demandShared).ackTo
        · exact (((h.writeMem ‹_›).noteWrites).demandShared).respond
      · exact ((h.writeMem ‹_›).noteWrites).demandShared
    · dsimp only
      split
      · exact .ite h.ackTo h.respond
      · exact h

protected theorem State.KeepsForm.execRemoteGatherRequest {src : Origin} {addr len : Nat} (h : s.KeepsForm t) :
    s.GoesOn (execRemoteGatherRequest src addr len t) :=
  .ite h.next h.serveRead.next

protected theorem State.KeepsForm.ackAccumulate {a : Acc} {sat : Bool} {err : Option AccErr} (h : s.KeepsForm t) :
    s.KeepsForm (ackAccumulate a sat err t) := by
  unfold ackAccumulate
  refine .ite ?_ ?_
  · dsimp only
    split
    · exact h.updCore
    · refine .ite ?_ ?_
      · exact h.updCore
      · split
        · exact h.updCore.updEntry
        · exact h.updCore.faultRecord.failCommand
  · exact .ite h.respond h.ackTo

protected theorem State.KeepsForm.noteAccumulate {a : Acc} (h : s.KeepsForm t) :
    s.KeepsForm (t.noteAccumulate a) := by
  unfold State.noteAccumulate
  refine .ite ?_ ?_
  · split
    · exact h.noteWrites.demandTier
    · exact h.noteWrites
  · exact h.noteWrites.demandShared

protected theorem State.KeepsForm.forwardAcc {a : Acc} (h : s.KeepsForm t) : s.KeepsForm (t.forwardAcc a) :=
  .ite h.plain h

end Sys2Proof.Machine
end

section
/-! SUPPORT. The rules of station time, units that fail, links, gangs, and pins. -/

set_option Elab.async false -- the rules are too many to elaborate side by side

namespace Sys2Proof.Machine

variable {s t u : State}

/-! ### Machine/TimeBase -/

protected theorem State.KeepsForm.setClass {c : TimeClass} (h : s.KeepsForm t) : s.KeepsForm (setClass c t) :=
  .ite h ((h.withCap fun _ h => h.plain).fltPost)

protected theorem State.KeepsForm.pickSource (h : s.KeepsForm t) : s.KeepsForm (pickSource t) := by
  unfold pickSource
  split
  · exact h
  · exact .ite h h.plain.fltPost

protected theorem State.KeepsForm.gangClass (h : s.KeepsForm t) : s.KeepsForm (gangClass t) :=
  .ite h (.ite h.setClass (.ite h h.setClass))

protected theorem State.KeepsForm.chooseSource (h : s.KeepsForm t) : s.KeepsForm (chooseSource t) :=
  h.pickSource.gangClass

protected theorem State.KeepsForm.settleTime (h : s.KeepsForm t) : s.KeepsForm (settleTime t) :=
  .ite h.chooseSource h.setClass

protected theorem State.KeepsForm.cutSecond {v : Nat} (h : s.KeepsForm t) : s.KeepsForm (cutSecond v t) :=
  h.plain.foldl fun _ _ h => .ite h.updTpower h

protected theorem State.KeepsForm.setTime {v : Nat} (h : s.KeepsForm t) : s.KeepsForm (setTime v t) :=
  h.cutSecond.plain

protected theorem State.KeepsForm.setTai {tai epoch : Nat} (h : s.KeepsForm t) : s.KeepsForm (setTai tai epoch t) :=
  .ite h.setTime h.draw.setTime

protected theorem State.KeepsForm.correct {d : Int} (h : s.KeepsForm t) : s.KeepsForm (correct d t) :=
  .ite h.setTime h.plain

/-! ### Machine/Units -/

protected theorem State.KeepsForm.busError {t' u addr kind : Nat} (h : s.KeepsForm t) :
    s.KeepsForm (Machine.busError t' u addr kind t) :=
  h.updUcore

protected theorem State.KeepsForm.failTracked {hit : Nat → Bool} {kind moment : Nat} (h : s.KeepsForm t) :
    s.KeepsForm (failTracked hit kind moment t) :=
  h.foldl fun _ _ h => h.updUcore.foldl fun _ _ h => h.busError

protected theorem State.KeepsForm.closeStart {reason detail fails : Nat} (h : s.KeepsForm t) :
    s.KeepsForm (closeStart reason detail fails t) := by
  unfold closeStart
  split
  · exact h
  · exact h.plain

protected theorem State.KeepsForm.failStart {reason detail : Nat} (h : s.KeepsForm t) : s.KeepsForm (failStart reason detail t) :=
  h.closeStart

protected theorem State.KeepsForm.dropStores {t' u : Nat} (h : s.KeepsForm t) : s.KeepsForm (dropStores t' u t) :=
  (h.foldl fun _ _ h => .ite h.draw.tryWrite h.draw).updUcore

protected theorem State.KeepsForm.dropAllStores (h : s.KeepsForm t) : s.KeepsForm (t.dropAllStores) :=
  h.foldl fun _ _ h => h.dropStores

protected theorem State.KeepsForm.landOpen {p : Nat} (h : s.KeepsForm t) : s.KeepsForm (landOpen p t) :=
  h.updPort.foldl fun _ _ h => .ite h.draw.updPort h.draw

protected theorem State.KeepsForm.tearBank (h : s.KeepsForm t) : s.KeepsForm (tearBank t) := by
  unfold tearBank
  refine .ite ?_ ?_
  · exact h
  · dsimp only
    split
    · exact h.draw
    · exact h.draw.plain
    · exact h.draw.plain
    · exact h.draw.plain

protected theorem State.KeepsForm.restart {warm : Bool} {cause : Nat} (h : s.KeepsForm t) : s.KeepsForm (t.restart warm cause) := by
  unfold State.restart
  extract_lets torn base inHome
  have hbase : s.KeepsForm base := by
    refine State.KeepsForm.foldl ?_ fun _ _ h => h.landOpen
    exact .ite h.tearBank.demoteAll h.tearBank.dropAllStores
  clear_value base
  refine ⟨hbase.pending, hbase.variant, fun hs => ?_⟩
  have hc := hbase.canonical hs
  have hmem : Memory.wf (if warm then base.mem.filter (fun c => inHome c.1) else []) = true := by
    split
    · exact Memory.wf_filter hc.mem _
    · rfl
  exact
    { mem := hmem
      peers := Table.wf_foldl _ _ (fun _ _ ht => Table.wf_upd _ ht ..) _ _ hc.peers
      ports := Table.wf_foldl _ _ (fun _ _ ht => Table.wf_put _ ht ..) _ _ rfl
      lasers := Table.wf_foldl _ _ (fun _ _ ht => Table.wf_put _ ht ..) _ _ rfl
      stale := rfl, ctxs := rfl, privs := rfl, gens := rfl, cores := rfl, tiles := rfl, pages := rfl, direct := rfl, sills := rfl
      hbm := rfl, ucores := rfl, links := rfl, edges := rfl, tilePower := rfl, strikes := rfl, mrs := rfl }

protected theorem State.KeepsForm.stopPackage {reason detail : Nat} (h : s.KeepsForm t) :
    s.KeepsForm (stopPackage reason detail t) :=
  h.failStart.restart.plain

protected theorem State.KeepsForm.tearClose (h : s.KeepsForm t) : s.KeepsForm (tearClose t) := by
  unfold tearClose
  split
  · exact h
  · exact .ite h.draw.draw h.draw.draw.plain

protected theorem State.KeepsForm.supplyGone (h : s.KeepsForm t) : s.KeepsForm (supplyGone t) :=
  h.restart.plain

protected theorem State.KeepsForm.packageStop {detail : Nat} (h : s.KeepsForm t) : s.KeepsForm (packageStop detail t) :=
  h.stopPackage

protected theorem State.KeepsForm.stackLost {n : Nat} (h : s.KeepsForm t) : s.KeepsForm (stackLost n t) :=
  .ite h ((((h.withCap fun _ h => h.updStack.plain).discardIf).draw).fltPost)

protected theorem State.KeepsForm.discardTile {t' : Nat} (h : s.KeepsForm t) : s.KeepsForm (discardTile t' t) :=
  (h.foldl fun _ _ h => .ite h.discardCore h).discardReds

protected theorem State.KeepsForm.terminateIf {p : Nat → Ctx → Bool} (h : s.KeepsForm t) :
    s.KeepsForm (terminateIf p t) :=
  h.foldl fun _ _ h => .ite h.terminateCtx h

protected theorem State.KeepsForm.handOver {t' : Nat} (h : s.KeepsForm t) : s.KeepsForm (handOver t' t) :=
  h.foldl fun _ _ h => .ite h h.reestablish.assignSteward

protected theorem State.KeepsForm.stopUnits {t' : Nat} (h : s.KeepsForm t) : s.KeepsForm (stopUnits t' t) :=
  (h.foldl fun _ _ h => h.updCore).foldl fun _ _ h => h.updUcore

protected theorem State.KeepsForm.endExclusive (h : s.KeepsForm t) : s.KeepsForm (endExclusive t) := by
  unfold endExclusive
  split
  · exact h.discard
  · exact h

protected theorem State.KeepsForm.withdrawTile {t' cause : Nat} (h : s.KeepsForm t) : s.KeepsForm (withdrawTile t' cause t) := by
  unfold withdrawTile
  refine .ite ?_ ?_
  · exact .ite h.draw.appendRepair.updTile.fltPost h
  · exact ((((h.draw.endExclusive.appendRepair.discardTile.withCap
      fun _ h => h.updTile.stopUnits).terminateIf).handOver).recheckCores).fltPost

protected theorem State.KeepsForm.discardSill {t' : Nat} (h : s.KeepsForm t) : s.KeepsForm (discardSill t' t) :=
  h.discardIf

protected theorem State.KeepsForm.sillOff {t' : Nat} (h : s.KeepsForm t) : s.KeepsForm (sillOff t' t) :=
  h.loseSillPages.releaseSill.discardSill.withCap fun _ h => h.updTile

protected theorem State.KeepsForm.portFaults {p : Nat} (h : s.KeepsForm t) : s.KeepsForm (portFaults p t) := by
  unfold portFaults
  refine h.foldl fun _ _ h => ?_
  split
  · exact h
  · split
    · exact h
    · split
      · exact h.faultRecord
      · exact h

protected theorem State.KeepsForm.failOnPort {p : Nat} (h : s.KeepsForm t) : s.KeepsForm (failOnPort p t) :=
  h.foldl fun _ _ h => h.foldl fun _ _ h => .ite h.finishWith h

protected theorem State.KeepsForm.lostReference (h : s.KeepsForm t) : s.KeepsForm (lostReference t) :=
  h.plain.settleTime

protected theorem State.KeepsForm.loseRings {p : Nat} (h : s.KeepsForm t) : s.KeepsForm (loseRings p t) :=
  h.foldl fun _ _ h => .ite h.updCtx.drainHeld h

protected theorem State.KeepsForm.hostDownPort {p : Nat} (h : s.KeepsForm t) : s.KeepsForm (hostDownPort p t) := by
  unfold hostDownPort
  refine .ite ?_ ?_
  · exact h
  · refine .ite ?_ ?_
    · exact h.updPort.landOpen.failTracked.portFaults.loseRings.terminateIf.failOnPort.fltPost.plain.lostReference
    · exact h.updPort.landOpen.failTracked.portFaults.loseRings.terminateIf.failOnPort.fltPost

protected theorem State.KeepsForm.ioDie1Lost (h : s.KeepsForm t) : s.KeepsForm (ioDie1Lost t) := by
  unfold ioDie1Lost
  refine .ite ?_ ?_
  · exact ((h.foldl fun _ _ h => h.hostDownPort.updPort).plain).lostReference
  · exact (h.foldl fun _ _ h => h.hostDownPort.updPort).plain

protected theorem State.KeepsForm.cutOffTile {t' : Nat} (h : s.KeepsForm t) : s.KeepsForm (cutOffTile t' t) :=
  .ite h.withdrawTile.stackLost.sillOff h.withdrawTile.stackLost

protected theorem State.KeepsForm.dropUnreached (h : s.KeepsForm t) : s.KeepsForm (dropUnreached t) := by
  unfold dropUnreached
  refine .ite ?_ ?_
  · exact h.foldl fun _ _ h => .ite h h.cutOffTile
  · exact (h.foldl fun _ _ h => .ite h h.cutOffTile).ioDie1Lost

protected theorem State.KeepsForm.settleEdges (h : s.KeepsForm t) : s.KeepsForm (settleEdges t) :=
  .ite h.packageStop h.dropUnreached

protected theorem State.KeepsForm.edgeFails {e blamed : Nat} (h : s.KeepsForm t) : s.KeepsForm (edgeFails e blamed t) := by
  unfold edgeFails
  refine .fltPost ?_
  split
  · exact h.appendRepair.updEdge.withdrawTile
  · exact h.appendRepair.updEdge

protected theorem State.KeepsForm.edgeOut {e blamed : Nat} (h : s.KeepsForm t) : s.KeepsForm (edgeOut e blamed t) :=
  h.edgeFails.settleEdges

protected theorem State.KeepsForm.deadEdges {t' : Nat} (h : s.KeepsForm t) : s.KeepsForm (deadEdges t' t) := by
  unfold deadEdges
  refine h.foldl fun _ _ h => ?_
  split
  · exact .ite h.updEdge h
  · exact h

protected theorem State.KeepsForm.peerDown {pkg moment : Nat} (h : s.KeepsForm t) : s.KeepsForm (peerDown pkg moment t) := by
  unfold peerDown
  refine .ite ?_ ?_
  · exact h
  · refine .ite ?_ ?_
    · exact ((h.discardIf.withCap fun _ h => h.updPeer.plain).failTracked).chooseSource
    · exact (h.discardIf.withCap fun _ h => h.updPeer.plain).failTracked

protected theorem State.KeepsForm.announceDown {k : Nat} (h : s.KeepsForm t) : s.KeepsForm (announceDown k t) := by
  unfold announceDown
  split
  · exact h
  · exact h.foldl fun _ _ h => h.sendTo

protected theorem State.KeepsForm.announce {p : Nat} (h : s.KeepsForm t) : s.KeepsForm (settlePeers.announce p t) :=
  h.foldl fun _ _ h => h.sendTo

protected theorem State.KeepsForm.settlePeers {k : Nat} (h : s.KeepsForm t) : s.KeepsForm (settlePeers k t) :=
  h.foldl fun _ _ h => .ite h.peerDown.announce h

protected theorem State.KeepsForm.stopLink {k : Nat} {st : LinkState} (h : s.KeepsForm t) :
    s.KeepsForm (stopLink k st t) :=
  (h.updLink.foldl fun _ _ h => h.resend).foldl fun _ _ h => h.sendTo

protected theorem State.KeepsForm.linkDown {k : Nat} {st : LinkState} (h : s.KeepsForm t) :
    s.KeepsForm (linkDown k st t) :=
  .ite h.stopLink.updLink.announceDown.fltPost.settlePeers h.stopLink.updLink

protected theorem State.KeepsForm.tileLost {t' : Nat} (h : s.KeepsForm t) : s.KeepsForm (tileLost t' t) :=
  ((((((((((h.endExclusive.discardTile.discardSill.withCap fun _ h => h.updTile.stopUnits).foldl
      fun _ _ h => h.dropStores).terminateIf).handOver).recheckCores).stackLost).loseSillPages).releaseSill).foldl
          fun _ _ h => .ite h.linkDown (.ite h.stopLink h)).deadEdges).settleEdges

protected theorem State.KeepsForm.ioDie1Off (h : s.KeepsForm t) : s.KeepsForm (ioDie1Off t) :=
  .settleEdges (.ioDie1Lost (.ite (.updEdge (.ite h.updEdge h)) (.ite h.updEdge h)))

/-! ### Machine/Links -/

protected theorem State.KeepsForm.retrainLink {k : Nat} (h : s.KeepsForm t) : s.KeepsForm (retrainLink k t) :=
  h.updLink.fltPost

protected theorem State.KeepsForm.replayLink {k : Nat} (h : s.KeepsForm t) : s.KeepsForm (t.replayLink k) :=
  h.plain

protected theorem State.KeepsForm.execFlitReceive {k : Nat} {f : Flit} (h : s.KeepsForm t) :
    s.GoesOn (execFlitReceive k f t) := by
  unfold execFlitReceive
  refine .ite ?_ ?_
  · exact h.next
  · refine .ite ?_ ?_
    · exact h.updLink.plain.updLink.next
    · exact .ite h.updLink.updLink.updLink.pumpLink.next h.updLink.updLink.next

protected theorem State.KeepsForm.execNakReceive {k seq : Nat} (h : s.KeepsForm t) : s.GoesOn (execNakReceive k seq t) :=
  .ite h.next (.next (.ite h.updLink.retrainLink h.updLink.replayLink.pumpLink))

protected theorem State.KeepsForm.execLinkSilenceTimeout {k : Nat} (h : s.KeepsForm t) : s.GoesOn (execLinkSilenceTimeout k t) :=
  .ite h.advanceTo.linkDown.next h.next

protected theorem State.KeepsForm.execLinkTrainingRetry {k : Nat} {signal : Bool} (h : s.KeepsForm t) :
    s.GoesOn (execLinkTrainingRetry k signal t) :=
  .ite h.advanceTo.updLink.next h.next

protected theorem State.KeepsForm.execLinkTrainingDone {k : Nat} {p : PeerInfo} (h : s.KeepsForm t) :
    s.GoesOn (execLinkTrainingDone k p t) := by
  unfold execLinkTrainingDone
  refine .ite ?_ ?_
  · exact h.next
  · refine .ite ?_ ?_
    · exact h.linkDown.next
    · refine .next ?_
      refine .ite ?_ ?_
      · exact .fltPost (.ite h.updLink.pumpLink.updPeer h.updLink.pumpLink)
      · exact .ite h.updLink.pumpLink.updPeer h.updLink.pumpLink

protected theorem State.KeepsForm.execLinkRetrain {k : Nat} (h : s.KeepsForm t) : s.GoesOn (execLinkRetrain k t) :=
  .ite h.retrainLink.next h.next

protected theorem State.KeepsForm.wakeLink {k : Nat} (h : s.KeepsForm t) : s.KeepsForm (wakeLink k t) :=
  .ite h.updLink h

protected theorem State.KeepsForm.execLinkEnable {k : Nat} {on : Bool} (h : s.KeepsForm t) : s.GoesOn (execLinkEnable k on t) :=
  .ite h.next (.next (.ite h.updLink.wakeLink h.updLink.linkDown))

protected theorem State.KeepsForm.execWavelengthFailure {k : Nat} {f : WaveFault} (h : s.KeepsForm t) :
    s.GoesOn (execWavelengthFailure k f t) := by
  unfold execWavelengthFailure
  refine .ite ?_ ?_
  · exact h.next
  · exact (((h.foldl fun _ _ h => h.appendRepair).withCap fun _ h => .ite h.updLaser h.updLink).foldl
      fun _ _ h => .ite h.retrainLink h).next

protected theorem State.KeepsForm.divert {k : Nat} (h : s.KeepsForm t) : s.KeepsForm (t.divert k) :=
  h.updLink.foldl fun _ _ h => .ite h.updLink h.sendTo

protected theorem State.KeepsForm.execLaserDrain {n : Nat} {on : Bool} (h : s.KeepsForm t) : s.GoesOn (execLaserDrain n on t) := by
  unfold execLaserDrain
  refine .ite ?_ ?_
  · exact h.next
  · exact ((h.updLaser.foldl fun _ _ h => h.updLink).foldl fun _ _ h => .ite h.divert h.pumpLink).next

protected theorem State.KeepsForm.execLaserDrained {n : Nat} (h : s.KeepsForm t) : s.GoesOn (execLaserDrained n t) :=
  .ite h.updLaser.next h.next

protected theorem State.KeepsForm.execLaserModuleInsert {n sources : Nat} (h : s.KeepsForm t) :
    s.GoesOn (execLaserModuleInsert n sources t) :=
  .ite h.next (((h.withCap fun _ h => h.updLaser).foldl fun _ _ h => h.wakeLink).next)

protected theorem State.KeepsForm.execLaserModuleRemove {n : Nat} (h : s.KeepsForm t) : s.GoesOn (execLaserModuleRemove n t) :=
  .ite h.next (((h.withCap fun _ h => h.updLaser).foldl fun _ _ h => h.stopLink.updLink).next)

protected theorem State.KeepsForm.forwardRq {m : FwdMsg} (h : s.KeepsForm t) : s.KeepsForm (forwardRq m t) := by
  unfold forwardRq
  split
  · exact h.respond
  · exact h.emit.plain

protected theorem State.KeepsForm.forwardRs {m : FwdMsg} (h : s.KeepsForm t) : s.KeepsForm (forwardRs m t) := by
  unfold forwardRs
  split
  · exact .ite h.plain.emit h.plain.sendTo
  · exact h.sendTo

protected theorem State.KeepsForm.forwardMg {m : FwdMsg} (h : s.KeepsForm t) : s.KeepsForm (forwardMg m t) := by
  unfold forwardMg
  split
  · exact h.respond
  · exact h.emit

protected theorem State.KeepsForm.execMessageForward {m : FwdMsg} (h : s.KeepsForm t) :
    s.GoesOn (execMessageForward m t) := by
  unfold execMessageForward
  refine .ite ?_ ?_
  · exact h.next
  · refine .ite ?_ ?_
    · exact h.fltPost.respond.next
    · split
      · exact h.forwardMg.next
      · exact h.forwardRq.next
      · exact h.forwardRs.next

protected theorem State.KeepsForm.serveRemote {src : Origin} {r : RemoteReq} (h : s.KeepsForm t) :
    s.KeepsForm (serveRemote src r t) := by
  unfold serveRemote
  split
  · exact h.serveRead
  · exact .ite h.landWrite h.respond
  · exact .ite h.sendAcc h.respond

protected theorem State.KeepsForm.releaseWrites : ∀ {n : Nat} {t : State}, s.KeepsForm t → s.KeepsForm (releaseWrites n t)
  | 0, _, h => h
  | _ + 1, _, h => by
    unfold Machine.releaseWrites
    split
    · exact h
    · exact h.plain.serveRemote.releaseWrites

protected theorem State.KeepsForm.applyRemote {src : Origin} {seq : Nat} {r : RemoteReq} (h : s.KeepsForm t) :
    s.KeepsForm (applyRemote src seq r t) := by
  unfold applyRemote
  dsimp only
  split
  · exact .ite h.plain h.serveRemote.releaseWrites
  · exact h.serveRemote.releaseWrites

protected theorem State.KeepsForm.execRemoteRequest {src : Origin} {seq : Nat} {r : RemoteReq} (h : s.KeepsForm t) :
    s.GoesOn (execRemoteRequest src seq r t) :=
  .ite h.next h.plain.applyRemote.next

/-! ### Machine/Gang -/

protected theorem State.KeepsForm.noteSeq {m : List Byte} (h : s.KeepsForm t) : s.KeepsForm (noteSeq m t) :=
  .ite h h.plain

/-- What a message does at its target, which may refuse it, keeps the form. -/
def State.Applies (s t : State) (r : Except Nat State) : Prop := ∀ u, r = .ok u → s.KeepsForm t → s.KeepsForm u

theorem State.applies_error {c : Nat} : s.Applies t (.error c) := fun _ e => nomatch e

theorem State.applies_ok (h : s.KeepsForm t → s.KeepsForm u) : s.Applies t (.ok u) := fun _ e => by
  cases e
  exact h

theorem State.Applies.ite {c : Prop} [Decidable c] {q r : Except Nat State} (hq : s.Applies t q) (hr : s.Applies t r) :
    s.Applies t (if c then q else r) := by
  split
  · exact hq
  · exact hr

protected theorem State.KeepsForm.applySigned {m : List Byte} {f : State → Except Nat State} (h : s.KeepsForm t)
    (hf : s.Applies t (f t)) : s.KeepsForm (applySigned m f t).1 := by
  unfold Machine.applySigned
  split
  · exact h
  · split
    · exact h
    · exact (hf _ ‹_› h).noteSeq

protected theorem State.KeepsForm.refuseMsg {k : Nat} {x : State × Nat} (h : s.KeepsForm x.1) :
    s.KeepsForm (refuseMsg k x) :=
  .ite h h.fltPost

protected theorem State.KeepsForm.signedMsg {type k : Nat} {m : List Byte} {f : State → Except Nat State} (h : s.KeepsForm t)
    (hf : s.Applies t (f t)) : s.GoesOn (signedMsg type k m f t) :=
  .ite (h.applySigned hf).refuseMsg.next h.next

protected theorem State.KeepsForm.relinkAddr {assigned : Bool} (h : s.KeepsForm t) : s.KeepsForm (relinkAddr assigned t) :=
  h.foldl fun _ _ h => h.updLink

theorem doAssign_applies {m : List Byte} : s.Applies t (doAssign m t) :=
  .ite State.applies_error (State.applies_ok fun h => (h.withCap fun _ h => h.plain).relinkAddr)

theorem doUnassign_applies : s.Applies t (doUnassign t) :=
  .ite State.applies_error (State.applies_ok fun h => (h.withCap fun _ h => h.plain).relinkAddr)

theorem doRoute_applies {m : List Byte} : s.Applies t (doRoute m t) :=
  State.applies_ok fun h => h.foldl fun _ _ h => .ite h (.ite h.plain (.updPeer h.plain))

protected theorem State.KeepsForm.setLevel {l : Nat} {x : Level} (h : s.KeepsForm t) :
    s.KeepsForm (t.setLevel l x) :=
  h.plain

theorem doForm_applies {m : List Byte} : s.Applies t (doForm m t) :=
  .ite State.applies_error (.ite (State.applies_ok fun h => h.setLevel) (State.applies_ok fun h => h.setLevel))

protected theorem State.KeepsForm.setGangTime {old : Nat} {followed : Bool} (h : s.KeepsForm t) :
    s.KeepsForm (setGangTime old followed t) :=
  .ite (.ite h.setTai h) h.draw.setTime

theorem doFormEnd_applies {m : List Byte} : s.Applies t (doFormEnd m t) :=
  .ite State.applies_error <| State.applies_ok fun h =>
    have hl := (h.withCap fun _ h => h.setLevel).plain
    .foldl (.ite hl.chooseSource.setGangTime hl) fun _ _ h => h.sendTo

theorem doJoin_applies {m : List Byte} : s.Applies t (doJoin m t) :=
  .ite State.applies_error <| State.applies_ok fun h =>
    have hl := (h.withCap fun _ h => h.setLevel).plain
    .ite hl.setGangTime hl

theorem doLeave_applies {m : List Byte} : s.Applies t (doLeave m t) :=
  .ite State.applies_error (State.applies_ok fun h => h.setLevel)

protected theorem State.KeepsForm.endGangCtxs {n : Nat} (h : s.KeepsForm t) : s.KeepsForm (endGangCtxs n t) :=
  h.terminateIf

protected theorem State.KeepsForm.endLevels {n : Nat} (h : s.KeepsForm t) : s.KeepsForm (endLevels n t) := by
  unfold endLevels
  refine .ite ?_ ?_
  · refine .ite ?_ ?_
    · exact (h.endGangCtxs.withCap fun _ h => h.foldl fun _ _ h => h.setLevel).plain
    · exact h.endGangCtxs.withCap fun _ h => h.foldl fun _ _ h => h.setLevel
  · refine .settleTime ?_
    refine .ite ?_ ?_
    · exact (h.endGangCtxs.withCap fun _ h => h.foldl fun _ _ h => h.setLevel).plain
    · exact h.endGangCtxs.withCap fun _ h => h.foldl fun _ _ h => h.setLevel

protected theorem State.KeepsForm.execLeaveEffect {n pkg : Nat} (h : s.KeepsForm t) : s.GoesOn (execLeaveEffect n pkg t) := by
  unfold execLeaveEffect
  refine .ite ?_ ?_
  · exact h.next
  · refine .ite ?_ ?_
    · exact h.endLevels.next
    · refine .next ?_
      refine .ite ?_ ?_
      · exact ((h.withCap fun _ h => h.setLevel).plain).chooseSource
      · exact (h.withCap fun _ h => h.setLevel).plain

theorem doDissolve_applies {m : List Byte} : s.Applies t (doDissolve m t) :=
  .ite State.applies_error (State.applies_ok fun h => h.endLevels)

theorem doQuery_applies {k : Option Nat} {m : List Byte} : s.Applies t (doQuery k m t) := by
  refine .ite State.applies_error ?_
  split
  · exact State.applies_ok fun h => .ite h.emit h.sendTo
  · exact State.applies_ok fun h => .ite h h.plain

protected theorem State.KeepsForm.deliver {m : List Byte} (h : s.KeepsForm t) : s.KeepsForm (doQuery.deliver m t) :=
  .ite h h.plain

protected theorem State.KeepsForm.execAssign {k : Nat} {m : List Byte} (h : s.KeepsForm t) : s.GoesOn (execAssign k m t) :=
  h.signedMsg doAssign_applies

protected theorem State.KeepsForm.execUnassign {k : Nat} {m : List Byte} (h : s.KeepsForm t) :
    s.GoesOn (execUnassign k m t) :=
  h.signedMsg doUnassign_applies

protected theorem State.KeepsForm.execRoute {k : Nat} {m : List Byte} (h : s.KeepsForm t) : s.GoesOn (execRoute k m t) :=
  h.signedMsg doRoute_applies

protected theorem State.KeepsForm.execForm {k : Nat} {m : List Byte} (h : s.KeepsForm t) : s.GoesOn (execForm k m t) :=
  h.signedMsg doForm_applies

protected theorem State.KeepsForm.execFormEnd {k : Nat} {m : List Byte} (h : s.KeepsForm t) :
    s.GoesOn (execFormEnd k m t) :=
  h.signedMsg doFormEnd_applies

protected theorem State.KeepsForm.execJoin {k : Nat} {m : List Byte} (h : s.KeepsForm t) : s.GoesOn (execJoin k m t) :=
  h.signedMsg doJoin_applies

protected theorem State.KeepsForm.execLeave {k : Nat} {m : List Byte} (h : s.KeepsForm t) : s.GoesOn (execLeave k m t) :=
  h.signedMsg doLeave_applies

protected theorem State.KeepsForm.execDissolve {k : Nat} {m : List Byte} (h : s.KeepsForm t) :
    s.GoesOn (execDissolve k m t) :=
  h.signedMsg doDissolve_applies

protected theorem State.KeepsForm.execQuery {k : Nat} {m : List Byte} (h : s.KeepsForm t) : s.GoesOn (execQuery k m t) :=
  h.signedMsg doQuery_applies

protected theorem State.KeepsForm.execReply {k : Nat} {m : List Byte} (h : s.KeepsForm t) : s.GoesOn (execReply k m t) :=
  .ite h.deliver.next h.next

protected theorem State.KeepsForm.farLinkDown (h : s.KeepsForm t) : s.KeepsForm (farLinkDown t) :=
  h.foldl fun _ _ h => .ite h.draw.resend h.draw

protected theorem State.KeepsForm.execDown {k : Nat} {m : List Byte} (h : s.KeepsForm t) : s.GoesOn (execDown k m t) :=
  .ite h.next (.next (.ite h.farLinkDown h.peerDown))

protected theorem State.KeepsForm.execReady {k : Nat} {m : List Byte} (h : s.KeepsForm t) : s.GoesOn (execReady k m t) := by
  unfold Machine.execReady
  refine .ite ?_ h.next
  split
  rename_i cap u e
  extract_lets v
  have hv : s.KeepsForm v := (h.of_freeBytes e).withCap fun _ h => h.updPeer.setLevel
  exact .next (.ite hv.chooseSource hv)

protected theorem State.KeepsForm.applyMsg {m : List Byte} (h : s.KeepsForm t) : s.KeepsForm (applyMsg m t).1 := by
  unfold applyMsg
  split
  · exact h.applySigned doAssign_applies
  · exact h.applySigned doUnassign_applies
  · exact h.applySigned doRoute_applies
  · exact h.applySigned doForm_applies
  · exact h.applySigned doFormEnd_applies
  · exact h.applySigned doJoin_applies
  · exact h.applySigned doLeave_applies
  · exact h.applySigned doDissolve_applies
  · exact h.applySigned doQuery_applies
  · exact h

protected theorem State.KeepsForm.tellPeer {m : List Byte} {k : Nat} (h : s.KeepsForm t) : s.KeepsForm (t.tellPeer m k) :=
  .ite h.updLink.updPeer (.ite (h.foldl fun _ _ h => h.updLink) h)

protected theorem State.KeepsForm.answered {m : List Byte} {k answer : Nat} (h : s.KeepsForm t) :
    s.KeepsForm (t.answered m k answer) :=
  .ite h.tellPeer h

protected theorem State.KeepsForm.execGangSend {answer : Nat} (h : s.KeepsForm t) : s.GoesOn (execGangSend answer t) := by
  unfold execGangSend
  refine .ite ?_ ?_
  · exact h.next
  · refine .ite ?_ ?_
    · exact h.plain.next
    · refine .ite ?_ ?_
      · exact h.applyMsg.plain.next
      · split
        · exact h.plain.next
        · exact .next (.plain (.ite h.emit.answered.advanceTo h.emit.answered))

/-! ### Machine/Pins -/

protected theorem State.KeepsForm.execEntdaa {addr : Nat} (h : s.KeepsForm t) : s.GoesOn (execEntdaa addr t) :=
  .ite h.plain.next h.next

protected theorem State.KeepsForm.execSetdasa {static addr : Nat} (h : s.KeepsForm t) : s.GoesOn (execSetdasa static addr t) :=
  .ite h.plain.next h.next

protected theorem State.KeepsForm.execSetnewda {old addr : Nat} (h : s.KeepsForm t) : s.GoesOn (execSetnewda old addr t) :=
  .ite h.plain.next h.next

protected theorem State.KeepsForm.tapDo {die : Nat} {f : Tap → Tap} (h : s.KeepsForm t) :
    s.GoesOn (tapDo die f t) :=
  .ite h.plain.next h.next

protected theorem State.KeepsForm.execBypass {die : Nat} (h : s.KeepsForm t) : s.GoesOn (execBypass die t) :=
  h.tapDo

protected theorem State.KeepsForm.execIdcode {die : Nat} (h : s.KeepsForm t) : s.GoesOn (execIdcode die t) :=
  h.tapDo

protected theorem State.KeepsForm.execSamplePreload {die pins preload : Nat} (h : s.KeepsForm t) :
    s.GoesOn (execSamplePreload die pins preload t) :=
  h.tapDo

protected theorem State.KeepsForm.extestAs {i : TapInstr} {die : Nat} (h : s.KeepsForm t) :
    s.GoesOn (extestAs i die t) :=
  .ite h.tapDo h.tapDo

protected theorem State.KeepsForm.execExtest {die : Nat} (h : s.KeepsForm t) : s.GoesOn (execExtest die t) :=
  h.extestAs

protected theorem State.KeepsForm.execExtestPulse {die : Nat} (h : s.KeepsForm t) : s.GoesOn (execExtestPulse die t) :=
  h.extestAs

protected theorem State.KeepsForm.execExtestTrain {die : Nat} (h : s.KeepsForm t) : s.GoesOn (execExtestTrain die t) :=
  h.extestAs

end Sys2Proof.Machine
end

section
/-! SUPPORT. The rules of the panes, tile steps, the vector unit, and pre-emption. -/

set_option Elab.async false -- the rules are too many to elaborate side by side

namespace Sys2Proof.Machine

variable {s t u : State}

/-! ### Machine/Mx -/

protected theorem State.KeepsForm.dropOnFault {x : Exec} (h : s.KeepsForm x.s) : s.KeepsForm (x.dropOnFault).s :=
  .iteExec h h

protected theorem State.KeepsForm.loadWeights {x : Exec} (h : s.KeepsForm x.s) : s.KeepsForm (loadWeights x).s := by
  unfold loadWeights
  extract_lets a rd x1 i x2
  have h2 : s.KeepsForm x2.s := h.raceBefore.touchSash
  clear_value x2
  split
  rename_i e
  have h3 := State.KeepsForm.of_fst e (.rdExec h2)
  split
  rename_i x4 _ e
  have h4 : s.KeepsForm x4.s := by
    split at e
    · exact State.KeepsForm.of_fst e (.rdExec h3)
    · cases e
      exact h3
  exact .iteExec h4.dropOnFault (.raceAfter h4)

theorem wloadImpl_keepsForm : wloadImpl.KeepsForm := fun _ _ _ h => h.loadWeights

protected theorem State.KeepsForm.execMxWload {t' c : Nat} (h : s.KeepsForm t) : s.GoesOn (execMxWload t' c t) :=
  h.issueOrStart wloadImpl_keepsForm

protected theorem State.KeepsForm.before {p : Stream} {r : Nat} {x : Exec} (h : s.KeepsForm x.s) :
    s.KeepsForm (Stream.before p x r).1.s := by
  unfold Stream.before
  split
  · exact h
  · split
    · exact .iteFstExec h h.rdLine
    · exact h.rdLine

protected theorem State.KeepsForm.freeLine {o : Opnd} {x : Exec} (h : s.KeepsForm x.s) :
    s.KeepsForm (x.freeLine o).1.s :=
  h.freeBytes

protected theorem State.KeepsForm.put {p : Stream} {intoSash : Bool} {r : Nat} {vs : List Attar} {x : Exec} (h : s.KeepsForm x.s) :
    s.KeepsForm (Stream.put p intoSash x r vs).s := by
  unfold Stream.put
  refine .iteExec ?_ ?_
  · refine .iteExec ?_ ?_
    · exact h.freeLine
    · split
      · exact h.freeLine.wrLine
      · exact .wrLine h.freeLine.freeBytes
  · exact .iteExec h (.iteExec h.wrLine h.wrVals)

protected theorem State.KeepsForm.row {p : Stream} {intoSash : Bool} {bytes r : Nat} {x : Exec} (h : s.KeepsForm x.s) :
    s.KeepsForm (Stream.row p intoSash bytes x r).s :=
  .iteExec h (.iteExec h.rdVals.before (.put h.rdVals.before))

protected theorem State.KeepsForm.streamBody {r0 n : Nat} {x : Exec} (h : s.KeepsForm x.s) : s.KeepsForm (streamBody x r0 n).s := by
  unfold streamBody
  refine .iteExec ?_ ?_
  · exact .dropOnFault (.foldlExec (.foldlFstExec h.touchSash.writeBack fun _ _ h => h.before) fun _ _ h => h.row)
  · exact (h.touchSash.foldlExec fun _ _ h => h.row).dropOnFault

theorem streamRow_keepsForm : streamRow.KeepsForm := fun _ _ _ _ h => h.streamBody

theorem streamImpl_keepsForm : streamImpl.KeepsForm := streamRow_keepsForm.impl

protected theorem State.KeepsForm.execMxStream {t' c : Nat} (h : s.KeepsForm t) : s.GoesOn (execMxStream t' c t) :=
  h.issueOrStart streamImpl_keepsForm

protected theorem State.KeepsForm.execStreamSwap {t' c : Nat} (h : s.KeepsForm t) : s.GoesOn (execStreamSwap t' c t) := by
  unfold execStreamSwap
  dsimp only
  split
  · exact h.next
  · split
    · exact .ite h.setCore.settleCore.next h.next
    · exact h.next

theorem stepRow_keepsForm {op : Nat} {r : RowOp} (e : stepRow op = some r) : r.KeepsForm := by
  unfold stepRow at e
  split at e
  · cases e
    exact streamRow_keepsForm
  · split at e
    · cases e
      exact movRow_keepsForm
    · cases e

/-! ### Machine/TileStep -/

protected theorem State.KeepsForm.runTile {r : RowOp} {eng : Engine} {o : OpRec}
    {x : Exec} (h : s.KeepsForm x.s) (hr : r.KeepsForm) :
    s.KeepsForm (runTile r eng x o).1.s :=
  h.runRowOp hr

protected theorem State.KeepsForm.execTileStepWait {t' c : Nat} {eng : Engine} (h : s.KeepsForm t) :
    s.GoesOn (execTileStepWait t' c eng t) := by
  unfold execTileStepWait
  dsimp only
  split
  · exact h.next
  · split
    · exact h.next
    · split
      · exact h.next
      · refine .ite ?_ ?_
        · exact h.next
        · refine .ite ?_ ?_
          · exact h.setCore.settleCore.next
          · refine .ite ?_ ?_
            · exact h.next
            · split
              · exact h.next
              · exact .ite h.next (.next (.settleCore (.closeExec (h.of.runTile (stepRow_keepsForm ‹_›)))))

theorem vecRow_keepsForm {b oldC : Bool} {line : Opnd → Opnd → Opnd → Mode → Exec → Nat → Exec}
    (hl : ∀ (s : State) (p q r : Opnd) (m : Mode) (x : Exec) (k : Nat), s.KeepsForm x.s → s.KeepsForm (line p q r m x k).s) :
    (vecRow b oldC line).KeepsForm :=
  fun _ _ _ _ h => h.foldlExec fun _ _ h => hl _ _ _ _ _ _ _ h

theorem vecImpl_keepsForm {r : RowOp} (hr : r.KeepsForm) : (vecImpl r).KeepsForm := hr.impl

/-! ### Machine/Vx -/

protected theorem State.KeepsForm.thenPut {f : Exec → Exec} {x : Exec} (h : s.KeepsForm x.s)
    (hf : ∀ x, s.KeepsForm x.s → s.KeepsForm (f x).s) : s.KeepsForm (x.thenPut f).s :=
  .iteExec h (hf x h)

protected theorem State.KeepsForm.ewLine {a b c : Opnd} {mode : Mode} {k : Nat} {x : Exec} (h : s.KeepsForm x.s) :
    s.KeepsForm (ewLine a b c mode x k).s := by
  unfold ewLine
  refine .iteExec ?_ ?_
  · exact h.rdVals.rdVals.rdVals.thenPut fun _ h => h.wrVals
  · exact h.rdVals.rdVals.thenPut fun _ h => h.wrVals

protected theorem State.KeepsForm.execVxEw {t' c : Nat} (h : s.KeepsForm t) : s.GoesOn (execVxEw t' c t) :=
  h.issueOrStart (vecImpl_keepsForm (vecRow_keepsForm fun _ _ _ _ _ _ _ h => h.ewLine : (vecRow true false ewLine).KeepsForm))

protected theorem State.KeepsForm.funcLine {a _b c : Opnd} {mode : Mode} {k : Nat} {x : Exec} (h : s.KeepsForm x.s) :
    s.KeepsForm (funcLine a _b c mode x k).s :=
  h.rdVals.thenPut fun _ h => h.wrVals

protected theorem State.KeepsForm.execVxFunc {t' c : Nat} (h : s.KeepsForm t) : s.GoesOn (execVxFunc t' c t) :=
  h.issueOrStart (vecImpl_keepsForm (vecRow_keepsForm fun _ _ _ _ _ _ _ h => h.funcLine))

protected theorem State.KeepsForm.cmpLine {a b c : Opnd} {n : Mode} {k : Nat} {x : Exec} (h : s.KeepsForm x.s) :
    s.KeepsForm (cmpLine a b c n x k).s :=
  h.rdVals.rdVals.thenPut fun _ h => h.wrLine

protected theorem State.KeepsForm.execVxCmp {t' c : Nat} (h : s.KeepsForm t) : s.GoesOn (execVxCmp t' c t) :=
  h.issueOrStart (vecImpl_keepsForm (vecRow_keepsForm fun _ _ _ _ _ _ _ h => h.cmpLine))

protected theorem State.KeepsForm.selectLine {a b c : Opnd} {n : Mode} {k : Nat} {x : Exec} (h : s.KeepsForm x.s) :
    s.KeepsForm (selectLine a b c n x k).s :=
  h.rdVals.rdVals.rdLine.rdScales.thenPut fun _ h => h.wrLine

protected theorem State.KeepsForm.execVxSelect {t' c : Nat} (h : s.KeepsForm t) : s.GoesOn (execVxSelect t' c t) :=
  h.issueOrStart (vecImpl_keepsForm (vecRow_keepsForm fun _ _ _ _ _ _ _ h => h.selectLine))

protected theorem State.KeepsForm.cvtLine {a _b c : Opnd} {mode : Mode} {k : Nat} {x : Exec} (h : s.KeepsForm x.s) :
    s.KeepsForm (cvtLine a _b c mode x k).s :=
  h.rdVals.thenPut fun _ h => h.wrVals

protected theorem State.KeepsForm.execVxCvt {t' c : Nat} (h : s.KeepsForm t) : s.GoesOn (execVxCvt t' c t) :=
  h.issueOrStart (vecImpl_keepsForm (vecRow_keepsForm fun _ _ _ _ _ _ _ h => h.cvtLine))

protected theorem State.KeepsForm.reduceLine {a _b c : Opnd} {mode : Mode} {k : Nat} {x : Exec} (h : s.KeepsForm x.s) :
    s.KeepsForm (reduceLine a _b c mode x k).s :=
  h.rdVals.thenPut fun _ h => h.wrVals

protected theorem State.KeepsForm.execVxReduce {t' c : Nat} (h : s.KeepsForm t) : s.GoesOn (execVxReduce t' c t) :=
  h.issueOrStart (vecImpl_keepsForm (vecRow_keepsForm fun _ _ _ _ _ _ _ h => h.reduceLine))

protected theorem State.KeepsForm.normLine {a b c : Opnd} {mode : Mode} {k : Nat} {x : Exec} (h : s.KeepsForm x.s) :
    s.KeepsForm (normLine a b c mode x k).s :=
  h.rdVals.rdVals.thenPut fun _ h => h.wrVals

protected theorem State.KeepsForm.execVxNorm {t' c : Nat} (h : s.KeepsForm t) : s.GoesOn (execVxNorm t' c t) :=
  h.issueOrStart (vecImpl_keepsForm (vecRow_keepsForm fun _ _ _ _ _ _ _ h => h.normLine : (vecRow false false normLine).KeepsForm))

protected theorem State.KeepsForm.softmaxLine {a _b c : Opnd} {mode : Mode} {k : Nat} {x : Exec} (h : s.KeepsForm x.s) :
    s.KeepsForm (softmaxLine a _b c mode x k).s :=
  h.rdVals.thenPut fun _ h => h.wrVals

protected theorem State.KeepsForm.execVxSoftmax {t' c : Nat} (h : s.KeepsForm t) : s.GoesOn (execVxSoftmax t' c t) :=
  h.issueOrStart (vecImpl_keepsForm (vecRow_keepsForm fun _ _ _ _ _ _ _ h => h.softmaxLine))

protected theorem State.KeepsForm.attarSumLine {a b c : Opnd} {n : Mode} {k : Nat} {x : Exec} (h : s.KeepsForm x.s) :
    s.KeepsForm (attarSumLine a b c n x k).s :=
  h.rdLine.rdLine.thenPut fun _ h => .wrLine h

protected theorem State.KeepsForm.execVxAttarSum {t' c : Nat} (h : s.KeepsForm t) : s.GoesOn (execVxAttarSum t' c t) :=
  h.issueOrStart (vecImpl_keepsForm (vecRow_keepsForm fun _ _ _ _ _ _ _ h => h.attarSumLine))

protected theorem State.KeepsForm.attarFromLine {a _b c : Opnd} {n : Mode} {k : Nat} {x : Exec} (h : s.KeepsForm x.s) :
    s.KeepsForm (attarFromLine a _b c n x k).s :=
  h.rdVals.thenPut fun _ h => .wrLine h

protected theorem State.KeepsForm.execVxAttarFrom {t' c : Nat} (h : s.KeepsForm t) : s.GoesOn (execVxAttarFrom t' c t) :=
  h.issueOrStart (vecImpl_keepsForm (vecRow_keepsForm fun _ _ _ _ _ _ _ h => h.attarFromLine))

protected theorem State.KeepsForm.attarRoundLine {a _b c : Opnd} {mode : Mode} {k : Nat} {x : Exec} (h : s.KeepsForm x.s) :
    s.KeepsForm (attarRoundLine a _b c mode x k).s :=
  h.rdLine.thenPut fun _ h => .wrVals h

protected theorem State.KeepsForm.execVxAttarRound {t' c : Nat} (h : s.KeepsForm t) : s.GoesOn (execVxAttarRound t' c t) :=
  h.issueOrStart (vecImpl_keepsForm (vecRow_keepsForm fun _ _ _ _ _ _ _ h => h.attarRoundLine))

/-! ### Machine/Preempt -/

protected theorem State.KeepsForm.rewind {b : Before} {x : Exec} (h : s.KeepsForm x.s) :
    s.KeepsForm (x.rewind b).s :=
  h.plain

protected theorem State.KeepsForm.retag {o : OpRec} {all done : List (Nat × Nat)} {x : Exec} (h : s.KeepsForm x.s) :
    s.KeepsForm (x.retag o all done).s :=
  h

protected theorem State.KeepsForm.rering {o : OpRec} {d : Nat} {x : Exec} (h : s.KeepsForm x.s) :
    s.KeepsForm (x.rering o d).s :=
  h.putBack

protected theorem State.KeepsForm.stopRows {o : OpRec} {d : Nat} {x : Exec} (h : s.KeepsForm x.s) :
    s.KeepsForm (x.stopRows o d).1.s :=
  .iteFstExec h (.retag (.foldl (.iteExec h.rering h.undoRows) fun _ _ h => h.tryWrite))

protected theorem State.KeepsForm.stopStream {o : OpRec} {d : Nat} {x : Exec} (h : s.KeepsForm x.s) :
    s.KeepsForm (x.stopStream o d).1.s := by
  unfold Exec.stopStream
  refine .iteFstExec h ?_
  extract_lets c r0 n y y' sash all done u x1 x2 x3
  have h2 : s.KeepsForm x2.s := .putBack (x := x1) h.plain
  have h3 : s.KeepsForm x3.s := h2.retag
  exact h3

protected theorem State.KeepsForm.stopTile {o : OpRec} {d : Nat} {x : Exec} (h : s.KeepsForm x.s) :
    s.KeepsForm (x.stopTile o d).1.s := by
  unfold Exec.stopTile
  refine .iteFstExec ?_ ?_
  · split
    · exact h
    · exact .runRowOp h (stepRow_keepsForm ‹_›)
  · exact h

protected theorem State.KeepsForm.stopGather {o : OpRec} {x : Exec} (h : s.KeepsForm x.s) :
    s.KeepsForm (x.stopGather o).1.s :=
  .iteFstExec h h.updEntry

protected theorem State.KeepsForm.stopAdd {o : OpRec} {d : Nat} {x : Exec} (h : s.KeepsForm x.s) :
    s.KeepsForm (x.stopAdd o d).1.s :=
  .iteFstExec (((h.plain.foldl fun _ _ h => h.dropOneRead).updEntry)) h

protected theorem State.KeepsForm.stopScatter {o : OpRec} {d : Nat} {x : Exec} (h : s.KeepsForm x.s) :
    s.KeepsForm (x.stopScatter o d).1.s :=
  .iteFstExec (((h.foldl fun _ _ h => h.tryWrite).updEntry)) h

protected theorem State.KeepsForm.stopLoad {o : OpRec} {d : Nat} {x : Exec} (h : s.KeepsForm x.s) :
    s.KeepsForm (x.stopLoad o d).1.s :=
  .iteFstExec h h

protected theorem State.KeepsForm.stop {o : OpRec} {d : Nat} {x : Exec} (h : s.KeepsForm x.s) :
    s.KeepsForm (x.stop o d).1.s := by
  unfold Exec.stop
  refine .iteFstExec ?_ ?_
  · exact h
  · refine .iteFstExec ?_ ?_
    · exact h.stopTile
    · refine .iteFstExec ?_ ?_
      · exact h
      · refine .iteFstExec ?_ ?_
        · exact h.stopLoad
        · refine .iteFstExec ?_ ?_
          · exact h.stopStream
          · exact .iteFstExec h.stopGather (.iteFstExec h.stopAdd (.iteFstExec h.stopScatter h.stopRows))

protected theorem State.KeepsForm.stopOps {stops : List OpStop} {t' c : Nat} {k : Core} {e : Entry} {i : Inst} (h : s.KeepsForm t) :
    s.KeepsForm (stopOps stops t' c k e t i).s :=
  .foldlStopped h fun _ _ h => h.of.stop.updEntry

protected theorem State.KeepsForm.failRestore {i : Inst} (h : s.KeepsForm t) : s.KeepsForm (failRestore i t) :=
  h.failCommand

protected theorem State.KeepsForm.holdCore {t' c : Nat} {k : Core} {i : Inst} (h : s.KeepsForm t) :
    s.KeepsForm (holdCore t' c k i t) :=
  h.setCore.fltPost.preemptMsg

protected theorem State.KeepsForm.stopRestore {t' c restored : Nat} {k : Core} {i : Inst} (h : s.KeepsForm t) :
    s.KeepsForm (stopRestore t' c restored k i t) :=
  .ite h.holdCore.failRestore h.holdCore

protected theorem State.KeepsForm.dropOpReads {i : Inst} (h : s.KeepsForm t) : s.KeepsForm (t.dropOpReads i) :=
  h.foldl fun _ _ h => h.foldl fun _ _ h => .ite h.updPc h

protected theorem State.KeepsForm.endStopping {t' c : Nat} {k : Core} {i : Inst} (h : s.KeepsForm t) :
    s.KeepsForm (endStopping t' c k i t) :=
  h.setCore.settleCore.preemptAll

protected theorem State.KeepsForm.releaseRun {t' c : Nat} {stops : List OpStop} {k : Core} {i : Inst}
    {e : Entry} (h : s.KeepsForm t) :
    s.KeepsForm (releaseRun t' c stops k i e t) := by
  unfold releaseRun
  refine .ite ?_ ?_
  · exact h.stopOps.endStopping.foldl fun _ _ h => h.report
  · exact h.stopOps.holdCore.dropOpReads.foldl fun _ _ h => h.report

protected theorem State.KeepsForm.execPreemptRelease {t' : Nat} {p : CoreStop} (h : s.KeepsForm t) :
    s.GoesOn (execPreemptRelease t' p t) := by
  unfold Machine.execPreemptRelease
  dsimp only
  split
  · exact h.next
  · refine .ite h.next (.ite h.endStopping.next (.ite h.stopRestore.next ?_))
    split
    · exact (h.orWait h.releaseRun).next
    · exact h.next

protected theorem State.KeepsForm.reload {w : WeightSet} {saved : Option Nat} {x : Exec} (h : s.KeepsForm x.s) :
    s.KeepsForm (x.reload w saved).1.s := by
  unfold Exec.reload
  split
  · exact h
  · exact h
  · split
    rename_i e
    have hd := State.KeepsForm.of_fst e h.rdLs
    split
    rename_i e
    split at e
    · exact State.KeepsForm.of_fst e hd.rdLs
    · cases e
      exact hd

protected theorem State.KeepsForm.endRestore {t' c : Nat} {k : Core} {i : Inst} {e : Entry} (h : s.KeepsForm t) :
    s.KeepsForm (endRestore t' c k i e t) := by
  unfold endRestore
  refine .ite ?_ ?_
  · exact h.setCore.failRestore.settleCore
  · exact .settleCore (.closeExec (.iteFstExec (.reload (.reload h)) (.reload h)))

protected theorem State.KeepsForm.execInstanceEnd {t' c : Nat} (h : s.KeepsForm t) : s.GoesOn (execInstanceEnd t' c t) := by
  unfold execInstanceEnd
  dsimp only
  split
  · exact .ite h.freeCore.next h.next
  · split
    · exact h.next
    · exact .ite h.endRestore.next h.endRun

end Sys2Proof.Machine
end

section
/-! SUPPORT. The rules of HBM, power, and the tier's commands. -/

set_option Elab.async false -- the rules are too many to elaborate side by side

namespace Sys2Proof.Machine

variable {s t u : State}

/-! ### Machine/Hbm -/

protected theorem State.KeepsForm.rowFails {d : Nat} {home : Option Nat} (h : s.KeepsForm t) : s.KeepsForm (rowFails d home t) := by
  unfold rowFails
  refine .ite ?_ ?_
  · exact h
  · dsimp only
    split
    · refine .ite ?_ ?_
      · exact h.appendRepair.updStack.plain.memoryEvent.plain
      · exact h.appendRepair.updStack.plain.memoryEvent.memoryEvent
    · exact .ite h.appendRepair.updStack.plain.memoryEvent.plain h.appendRepair.updStack.plain.memoryEvent

protected theorem State.KeepsForm.spillFails {at_ : Option (Nat × Nat × Nat)} (h : s.KeepsForm t) :
    s.KeepsForm (spillFails at_ t) := by
  unfold spillFails
  split
  · exact h
  · exact h.updCore

protected theorem State.KeepsForm.loseLine {d : Nat} {home : Option Nat} (h : s.KeepsForm t) : s.KeepsForm (loseLine d home t) := by
  unfold loseLine
  split
  · exact h.plain
  · exact h.spillFails

protected theorem State.KeepsForm.lineRead {d : Nat} {home : Option Nat} {errs : Nat} (h : s.KeepsForm t) :
    s.KeepsForm (lineRead d home errs t).1 := by
  unfold lineRead
  refine .iteFst ?_ ?_
  · exact h
  · exact .iteFst (.ite h.updStack.updPc.plain.rowFails h.updStack.updPc.plain) h.loseLine.countBad.rowFails

protected theorem State.KeepsForm.homeRead {line errs : Nat} (h : s.KeepsForm t) : s.KeepsForm (homeRead line errs t).1 :=
  .iteFst h.countBad h.lineRead

protected theorem State.KeepsForm.admitHeld {n p : Nat} (h : s.KeepsForm t) : s.KeepsForm (t.admitHeld n p) :=
  h.updPc

protected theorem State.KeepsForm.stopOp {line t' c word : Nat} {e : Entry} {k : Core} {i : Inst} (h : s.KeepsForm t) :
    s.KeepsForm (stopOp line t' c word e t k i).1 := by
  unfold stopOp
  split
  · exact h
  · dsimp only
    split
    · exact .iteExec h.of.undoRows (.iteExec h.of.stopStream h.of)
    · exact h.of

protected theorem State.KeepsForm.hostFill {t' u line : Nat} (h : s.KeepsForm t) : s.KeepsForm (hostFill t' u line t) :=
  h.updUcore

protected theorem State.KeepsForm.undoTensor {id : CmdId} {e : Entry} (h : s.KeepsForm t) :
    s.KeepsForm (undoTensor id e t) :=
  .ite h.updCtx h

protected theorem State.KeepsForm.giveReader {r : PcRead} (h : s.KeepsForm t) : s.KeepsForm (giveReader r t) := by
  unfold giveReader
  split
  · exact h.hostFill
  · exact .ite h h.respond
  · exact .ite h h.tlpData
  · exact h

protected theorem State.KeepsForm.dropReads {who : Reader} {a n : Nat} (h : s.KeepsForm t) :
    s.KeepsForm (t.dropReads who a n) :=
  h.foldl fun _ _ h => h.dropOneRead

protected theorem State.KeepsForm.failReader {r : PcRead} (h : s.KeepsForm t) : s.KeepsForm (failReader r t) := by
  unfold failReader
  split
  · split
    · refine .ite ?_ ?_
      · exact h
      · refine .settleCore ?_
        refine .failCommand ?_
        refine .faultRecord ?_
        split
        · exact h.stopOp.updCore
        · exact h.stopOp.updCore
        · exact h
    · exact h
  · dsimp only
    split
    · exact h
    · split
      · exact .ite h.failSync (.ite h.faultRecord.undoTensor.updEntry h)
      · exact h.faultRecord.finishWith
      · exact h
  · exact h.updCore
  · exact h.updUcore
  · exact h.dropReads.respond
  · exact h.dropReads.tlpError
  · exact h

protected theorem State.KeepsForm.servedRead {r : PcRead} {errs : Nat} (h : s.KeepsForm t) :
    s.KeepsForm (servedRead r errs t).1 :=
  .iteFst h h.homeRead

protected theorem State.KeepsForm.popRead {n p : Nat} {r : PcRead} (h : s.KeepsForm t) :
    s.KeepsForm (t.popRead n p r) :=
  h.updPc.updStack

protected theorem State.KeepsForm.applyAcc {i : Nat} {a : Acc} {errs : Nat} (h : s.KeepsForm t) :
    s.KeepsForm (applyAcc i a errs t) := by
  unfold applyAcc
  dsimp only
  split
  · exact .ackAccumulate (.noteAccumulate (.scramble (.poke (.ite h.plain.forwardAcc.readCode.unkeep h.plain.forwardAcc.readCode))))
  · refine .ackAccumulate ?_
    refine .ite ?_ ?_
    · refine .poke ?_
      refine .iteSnd ?_ ?_
      · exact .draw (.ite h.plain.forwardAcc.readCode.unkeep h.plain.forwardAcc.readCode)
      · exact .ite h.plain.forwardAcc.readCode.unkeep h.plain.forwardAcc.readCode
    · refine .iteSnd ?_ ?_
      · exact .draw (.ite h.plain.forwardAcc.readCode.unkeep h.plain.forwardAcc.readCode)
      · exact .ite h.plain.forwardAcc.readCode.unkeep h.plain.forwardAcc.readCode

protected theorem State.KeepsForm.serveAdder {n p i : Nat} {a : Acc} {r : PcRead} {errs : Nat} (h : s.KeepsForm t) :
    s.KeepsForm (serveAdder n p i a r errs t) :=
  h.popRead.homeRead.applyAcc.admitHeld

protected theorem State.KeepsForm.execHbmReadServe {n p errs : Nat} (h : s.KeepsForm t) :
    s.GoesOn (execHbmReadServe n p errs t) := by
  unfold execHbmReadServe
  refine .ite ?_ ?_
  · exact h.next
  · split
    · exact h.drainWrites.next
    · split
      · exact h.serveAdder.next
      · exact .next (.admitHeld (.ite h.popRead.servedRead.failReader h.popRead.servedRead.giveReader))

protected theorem State.KeepsForm.execAccumulateApply {k : AddAt} (h : s.KeepsForm t) :
    s.GoesOn (execAccumulateApply k t) := by
  unfold execAccumulateApply
  split
  · exact h.next
  · refine .ite ?_ ?_
    · exact .next (.ite h h.applyAcc)
    · refine .ite ?_ ?_
      · exact h.next
      · split
        · exact .ite h.serveAdder.next h.next
        · exact h.next

protected theorem State.KeepsForm.execReadAgePromote {n p : Nat} (h : s.KeepsForm t) : s.GoesOn (execReadAgePromote n p t) := by
  unfold execReadAgePromote
  split
  · exact h.next
  · exact h.advanceTo.updPc.next

protected theorem State.KeepsForm.execWriteQueueEnter {addr : Nat} {data : List Byte} (h : s.KeepsForm t) :
    s.GoesOn (execWriteQueueEnter addr data t) := by
  unfold execWriteQueueEnter
  refine .ite ?_ ?_
  · exact h.next
  · split
    · exact ((h.writeMem ‹_›).noteWrites).next
    · exact h.next

protected theorem State.KeepsForm.execScrubRead {addr errs : Nat} (h : s.KeepsForm t) : s.GoesOn (execScrubRead addr errs t) := by
  refine .ite (State.GoesOn.next (h.setStrikes fun hw => Table.wf_put _ hw ..)) (.ite h.next ?_)
  split
  · exact h.homeRead.next
  · exact h.lineRead.next

protected theorem State.KeepsForm.granuleTraffic {old new : Nat} (h : s.KeepsForm t) : s.KeepsForm (t.granuleTraffic old new) :=
  h.foldl fun _ _ h => h.traffic

protected theorem State.KeepsForm.moveGranule {g : Nat} (h : s.KeepsForm t) : s.KeepsForm (t.moveGranule g) := by
  unfold State.moveGranule
  split
  · exact h.plain.memoryEvent
  · exact h.plain.granuleTraffic.fltPost

protected theorem State.KeepsForm.execGranuleMove {g : Nat} (h : s.KeepsForm t) : s.GoesOn (execGranuleMove g t) :=
  .ite h.next (.ite h.moveGranule.next h.next)

protected theorem State.KeepsForm.degrade {n p : Nat} (h : s.KeepsForm t) : s.KeepsForm (degrade n p t) :=
  .ite h.updPc.appendRepair.updStack.plain.memoryEvent h.updPc.appendRepair.memoryEvent

protected theorem State.KeepsForm.execRecalibration {n p : Nat} {cause : RecalCause} (h : s.KeepsForm t) :
    s.GoesOn (execRecalibration n p cause t) :=
  .ite h.advanceTo.updPc.next h.next

protected theorem State.KeepsForm.resumeWrites {n p : Nat} (h : s.KeepsForm t) : s.KeepsForm (t.resumeWrites n p) :=
  .foldl (.updPc (.ite h.drainWrites h)) fun _ _ h => h.landWrite

protected theorem State.KeepsForm.execRecalibrationDone {n p : Nat} {margin : Bool} (h : s.KeepsForm t) :
    s.GoesOn (execRecalibrationDone n p margin t) :=
  .ite (.ite h.updPc.resumeWrites.next h.updPc.resumeWrites.degrade.next) h.next

protected theorem State.KeepsForm.execDegradingErrorRate {n p : Nat} (h : s.KeepsForm t) :
    s.GoesOn (execDegradingErrorRate n p t) :=
  .ite h.degrade.next h.next

protected theorem State.KeepsForm.moveSpill : ∀ {gs : List Nat} {t : State}, s.KeepsForm t → s.KeepsForm (t.moveSpill gs)
  | [], _, h => h
  | _ :: _, _, h => by
    unfold State.moveSpill
    split
    · exact h
    · exact h.plain.granuleTraffic.moveSpill

protected theorem State.KeepsForm.clearSpill (h : s.KeepsForm t) : s.KeepsForm (t.clearSpill) :=
  h.moveSpill.plain

protected theorem State.KeepsForm.mapoutMoveStep {n p : Nat} (h : s.KeepsForm t) : s.KeepsForm (mapoutMoveStep n p t) := by
  unfold mapoutMoveStep
  split
  · exact h.moveGranule
  · exact h.clearSpill.updStack.updPc.memoryEvent

protected theorem State.KeepsForm.mapoutDone {n p : Nat} (h : s.KeepsForm t) : s.KeepsForm (mapoutDone n p t) :=
  h.appendRepair.updStack.updPc.plain.memoryEvent

protected theorem State.KeepsForm.losePieces {n x d : Nat} (h : s.KeepsForm t) : s.KeepsForm (losePieces n x d t) :=
  h.foldl fun _ _ h => h.loseLine

protected theorem State.KeepsForm.failMapped {n x : Nat} (h : s.KeepsForm t) : s.KeepsForm (failMapped n x t) :=
  .ite h (h.updStack.foldl fun _ _ h => h.losePieces)

protected theorem State.KeepsForm.mapoutPieces {n p : Nat} (h : s.KeepsForm t) : s.KeepsForm (mapoutPieces n p t) :=
  .ite h.advanceTo.updStack.traffic.mapoutDone h.advanceTo.updStack.traffic

protected theorem State.KeepsForm.execMapoutGranuleStep {m : MapoutAt} (h : s.KeepsForm t) :
    s.GoesOn (execMapoutGranuleStep m t) := by
  unfold execMapoutGranuleStep
  dsimp only
  split
  · exact h.next
  · refine .ite ?_ ?_
    · exact h.next
    · split
      · exact .next (.memoryEvent (.updStack (.ite h.failMapped h)))
      · exact .next (.ite (.ite h.failMapped h) (.mapoutMoveStep (.ite h.failMapped h)))
      · exact .next (.ite (.ite h.failMapped h) (.mapoutPieces (.ite h.failMapped h)))
      · exact .next (.ite h.failMapped h)

protected theorem State.KeepsForm.powerEvent {b unit reading limit : Nat} (h : s.KeepsForm t) :
    s.KeepsForm (powerEvent b unit reading limit t) :=
  h.plain.fltPost

protected theorem State.KeepsForm.execHbmTempRead {n : Nat} {temp : Int} (h : s.KeepsForm t) : s.GoesOn (execHbmTempRead n temp t) :=
  .ite h.next (.ite h.updStack.stackLost.powerEvent.next h.updStack.next)

/-! ### Machine/Power -/

protected theorem State.KeepsForm.applyLimit {t' : Nat} (h : s.KeepsForm t) : s.KeepsForm (applyLimit t' t) :=
  .ite h (h.foldl fun _ _ h => .ite h.setCore h)

protected theorem State.KeepsForm.applyLimits (h : s.KeepsForm t) : s.KeepsForm (applyLimits t) :=
  h.foldl fun _ _ h => h.applyLimit

protected theorem State.KeepsForm.noteDroop {t' : Nat} (h : s.KeepsForm t) : s.KeepsForm (noteDroop t' t) :=
  .ite h h.draw.updTpower

protected theorem State.KeepsForm.noteLasers (h : s.KeepsForm t) : s.KeepsForm (noteLasers t) := by
  unfold noteLasers
  refine .ite ?_ ?_
  · exact ((h.foldl fun _ _ h => .ite h.draw.updLaser h).draw).plain
  · exact (h.foldl fun _ _ h => .ite h.draw.updLaser h).plain

protected theorem State.KeepsForm.execPowerMeasure {buses : List Nat} (h : s.KeepsForm t) : s.GoesOn (execPowerMeasure buses t) :=
  ((h.advanceTo.plain.foldl fun _ _ h => h.noteDroop).noteLasers).next

protected theorem State.KeepsForm.cutExcursion (h : s.KeepsForm t) : s.KeepsForm (cutExcursion t) :=
  .ite h.plain.powerEvent h

protected theorem State.KeepsForm.noteUnmet {missed : Bool} (h : s.KeepsForm t) : s.KeepsForm (noteUnmet missed t) :=
  .ite h.plain (.ite h.plain.plain.powerEvent h.plain)

protected theorem State.KeepsForm.notePower (h : s.KeepsForm t) : s.KeepsForm (notePower t) :=
  h.plain.foldl fun _ _ h => h.updTpower

protected theorem State.KeepsForm.execPowerControl {model : List Nat} (h : s.KeepsForm t) : s.GoesOn (execPowerControl model t) :=
  h.advanceTo.notePower.plain.cutExcursion.plain.noteUnmet.applyLimits.next

protected theorem State.KeepsForm.execPowerSecond (h : s.KeepsForm t) : s.GoesOn (execPowerSecond t) :=
  (h.advanceTo.withCap fun _ h => h.plain).next

protected theorem State.KeepsForm.execPwrLimit {id : CmdId} (h : s.KeepsForm t) : s.GoesOn (execPwrLimit id t) :=
  h.runCmd fun _ _ h => .iteFst h.plain h

protected theorem State.KeepsForm.execPwrIdle {id : CmdId} (h : s.KeepsForm t) : s.GoesOn (execPwrIdle id t) :=
  h.runCmd fun _ _ h => h.foldl fun _ _ h => h.updCore

protected theorem State.KeepsForm.execPwrBmcCapWrite {via : Via} {off : Nat} {value : Word} (h : s.KeepsForm t) :
    s.GoesOn (execPwrBmcCapWrite via off value t) :=
  .ite h.next (.ite (.ite h.plain.next h.next) (.ite h.plain.next h.next))

protected theorem State.KeepsForm.clampTile {t' sill die : Nat} (h : s.KeepsForm t) : s.KeepsForm (clampTile t' sill die t) := by
  unfold clampTile
  refine .applyLimit ?_
  refine .ite ?_ ?_
  · exact .powerEvent (.ite h.updTpower.powerEvent h.updTpower)
  · exact .ite h.updTpower.powerEvent h.updTpower

protected theorem State.KeepsForm.setDomain {d : Domain} {live lost : Bool} (h : s.KeepsForm t) :
    s.KeepsForm (setDomain d live lost t) :=
  h.plain

protected theorem State.KeepsForm.ioHeat {n die : Nat} (h : s.KeepsForm t) : s.KeepsForm (ioHeat n die t) :=
  .ite h (.ite h.setDomain.ioDie1Off.powerEvent (.ite h.packageStop h))

protected theorem State.KeepsForm.execThermalRead {t' sill die : Nat} (h : s.KeepsForm t) :
    s.GoesOn (execThermalRead t' sill die t) := by
  unfold execThermalRead
  refine .ite ?_ ?_
  · exact h.ioHeat.next
  · refine .ite ?_ ?_
    · exact h.next
    · refine .ite ?_ ?_
      · exact .next (.stackLost (.updTpower (.sillOff (.ite h.clampTile.withdrawTile.updTpower.powerEvent h.clampTile))))
      · exact .next (.ite h.clampTile.withdrawTile.updTpower.powerEvent h.clampTile)

protected theorem State.KeepsForm.execCurrentGuardTrip {t' : Nat} (h : s.KeepsForm t) : s.GoesOn (execCurrentGuardTrip t' t) :=
  .ite h.next h.updTpower.applyLimit.powerEvent.next

protected theorem State.KeepsForm.execCurrentGuardEnd {t' : Nat} (h : s.KeepsForm t) : s.GoesOn (execCurrentGuardEnd t' t) :=
  .ite h.next h.advanceTo.updTpower.applyLimit.next

/-! ### Machine/Tier -/

protected theorem State.KeepsForm.execTierLayerSchedule {id : CmdId} (h : s.KeepsForm t) :
    s.GoesOn (execTierLayerSchedule id t) := by
  refine h.runCmd fun _ _ h => .iteFst ?_ ?_
  · dsimp only
    exact h.updCtx
  · dsimp only
    exact (.prefetchLayers h.updCtx)

protected theorem State.KeepsForm.shedPage {c p : Nat} (h : s.KeepsForm t) : s.KeepsForm (t.shedPage c p) := by
  unfold State.shedPage
  split
  · exact h.demote
  · exact h.updPage
  · exact h.updPage
  · exact h
  · exact h

protected theorem State.KeepsForm.fitQuota {c : Nat} : ∀ {n : Nat} {t : State}, s.KeepsForm t → s.KeepsForm (State.fitQuota c n t)
  | 0, _, h => h
  | n + 1, t, h => by
    unfold State.fitQuota
    refine .ite h ?_
    split
    · exact h.demote.fitQuota
    · split
      · exact h.shedPage.fitQuota
      · exact h.foldl fun _ _ h => h.shedPage

protected theorem State.KeepsForm.execTierQuota {id : CmdId} (h : s.KeepsForm t) : s.GoesOn (execTierQuota id t) :=
  h.runCmd fun _ _ h => h.updCtx.fitQuota

protected theorem State.KeepsForm.makeRoom {c : Nat} (h : s.KeepsForm t) : s.KeepsForm (t.makeRoom c) :=
  .getD (fun _ e => h.quotaRoom e) h

protected theorem State.KeepsForm.pinPage {c p : Nat} (h : s.KeepsForm t) : s.KeepsForm (t.pinPage c p) := by
  unfold State.pinPage
  refine .ite ?_ ?_
  · exact h
  · dsimp only
    split
    · exact .getD (fun _ e => .placePage (.ite h h.makeRoom) e) (.ite h h.makeRoom)
    · exact .keepPage (.ite h h.makeRoom)
    · exact .updPage (.ite h h.makeRoom)

protected theorem State.KeepsForm.claimPage {c p : Nat} (h : s.KeepsForm t) : s.KeepsForm (t.claimPage c p) := by
  unfold State.claimPage
  split
  · exact .getD (fun _ e => h.makeRoom.claimFrame e) h
  · exact .ite h.makeRoom.setDirect h

protected theorem State.KeepsForm.execTierPin {id : CmdId} (h : s.KeepsForm t) : s.GoesOn (execTierPin id t) := by
  unfold execTierPin
  split
  · exact h.next
  · refine .ite ?_ ?_
    · exact h.next
    · refine .ite ?_ ?_
      · refine .ite ?_ ?_
        · exact (h.foldl fun _ _ h => h.pinPage).runCmd fun _ _ h => h
        · exact (h.foldl fun _ _ h => h.pinPage).next
      · refine .ite ?_ ?_
        · exact (h.foldl fun _ _ h => h.claimPage).runCmd fun _ _ h => h
        · exact (h.foldl fun _ _ h => h.claimPage).next

protected theorem State.KeepsForm.execTierUnpin {id : CmdId} (h : s.KeepsForm t) : s.GoesOn (execTierUnpin id t) :=
  h.runCmd fun _ _ h => .iteFst (h.foldl fun _ _ h => h.unpin) (h.foldl fun _ _ h => h.startRelease)

protected theorem State.KeepsForm.execTierEvict {id : CmdId} (h : s.KeepsForm t) : s.GoesOn (execTierEvict id t) :=
  h.runCmd fun _ _ h => h.foldl fun _ _ h => h.releasePage

protected theorem State.KeepsForm.prefetch {c : Nat} : ∀ {ps : List Nat} {n : Nat} {t : State}, s.KeepsForm t →
    s.KeepsForm (State.prefetch c ps t n).1
  | [], _, _, h => h
  | p :: ps, n, t, h => by
    unfold State.prefetch
    refine .iteFst h.updPage.prefetch (.iteFst h.prefetch ?_)
    split
    · exact h
    · split
      · exact (h.placePage ‹_›).prefetch
      · exact h.prefetch

protected theorem State.KeepsForm.execTierPrefetch {id : CmdId} (h : s.KeepsForm t) : s.GoesOn (execTierPrefetch id t) :=
  h.runCmd fun _ _ h => h.prefetch

protected theorem State.KeepsForm.execHeatDecay (h : s.KeepsForm t) : s.GoesOn (execHeatDecay t) :=
  (h.advanceTo.foldl fun _ _ h => h.updPage).next

protected theorem State.KeepsForm.runDeferred {p : Nat} (h : s.KeepsForm t) : s.KeepsForm (t.runDeferred p) := by
  unfold State.runDeferred
  refine .ite ?_ ?_
  · exact h
  · refine h.updPage.foldl fun _ _ h => ?_
    split
    · exact .ite h.tryPlace h
    · exact h.releasePage
    · exact h.tryPlace
    · exact .ite h.demote h

protected theorem State.KeepsForm.execTierScan (h : s.KeepsForm t) : s.GoesOn (execTierScan t) :=
  ((h.advanceTo.foldl fun _ _ h => h.runDeferred).foldl fun _ _ h => .ite h.updPage h.tryPlace).next

protected theorem State.KeepsForm.readBlock {p k : Nat} (h : s.KeepsForm t) : s.KeepsForm (t.readBlock p k) :=
  .ite h.readSill h

protected theorem State.KeepsForm.moveBlock {p k : Nat} (h : s.KeepsForm t) : s.KeepsForm (t.moveBlock p k) := by
  unfold State.moveBlock
  dsimp only
  split
  · exact h.copyBlock.freshLines
  · exact h.copyBlock

protected theorem State.KeepsForm.execMigrationCopy {p : Nat} (h : s.KeepsForm t) : s.GoesOn (execMigrationCopy p t) := by
  unfold execMigrationCopy
  dsimp only
  split
  · exact h.next
  · exact .ite h.next (.ite h.readBlock.next h.readBlock.moveBlock.updPage.next)

protected theorem State.KeepsForm.execMigrationFreeze {p : Nat} (h : s.KeepsForm t) : s.GoesOn (execMigrationFreeze p t) := by
  unfold execMigrationFreeze
  refine .ite ?_ ?_
  · exact h.next
  · exact ((((h.draw.foldl fun _ _ h => h.readBlock.moveBlock).updPage).plain).runDeferred).next

protected theorem State.KeepsForm.execStaleEpochForward {addr epoch : Nat} {data : List Byte} (h : s.KeepsForm t) :
    s.GoesOn (execStaleEpochForward addr epoch data t) := by
  unfold execStaleEpochForward
  refine .ite ?_ ?_
  · exact h.next
  · split
    · exact (((h.writeMem ‹_›).noteWrites).plain).next
    · exact h.next

protected theorem State.KeepsForm.execDirectPageRelease {p : Nat} (h : s.KeepsForm t) : s.GoesOn (execDirectPageRelease p t) :=
  h.settleDirect.next

end Sys2Proof.Machine
end

section
/-! SUPPORT. The rules of time commands, host ports, hinges, and collectives. -/

set_option Elab.async false -- the rules are too many to elaborate side by side

namespace Sys2Proof.Machine

variable {s t u : State}

/-! ### Machine/Time -/

protected theorem State.KeepsForm.discipline {d : Int} (h : s.KeepsForm t) : s.KeepsForm (discipline d t) :=
  .settleTime (.ite (.correct (.ite h.plain.pickSource h.plain)) (.ite h.plain.pickSource h.plain))

protected theorem State.KeepsForm.execTimeMark {id : CmdId} (h : s.KeepsForm t) : s.GoesOn (execTimeMark id t) :=
  h.runCmd fun _ _ h => h

protected theorem State.KeepsForm.takeSource {src : Nat} {reference : Option Word} (h : s.KeepsForm t) :
    s.KeepsForm (takeSource src reference t) := by
  unfold takeSource
  split
  · exact .ite h.setTai.plain.setClass (.ite h.setClass h.setClass)
  · exact .ite h.setClass h.setClass

protected theorem State.KeepsForm.execTimeSource {id : CmdId} {reference : Option Word} (h : s.KeepsForm t) :
    s.GoesOn (execTimeSource id reference t) :=
  h.runCmd fun _ _ h => .iteFst h (.ite h.plain.chooseSource h.plain.takeSource)

protected theorem State.KeepsForm.execPpsEdge {stamp : Word} (h : s.KeepsForm t) : s.GoesOn (execPpsEdge stamp t) := by
  unfold execPpsEdge
  refine .ite ?_ ?_
  · exact h.next
  · refine .ite ?_ ?_
    · exact .next (.ite h.advanceTo.plain.lostReference h.advanceTo.plain)
    · split
      · exact .ite h.advanceTo.plain.discipline.next h.advanceTo.plain.next
      · exact h.advanceTo.plain.next

protected theorem State.KeepsForm.pinsLost {t' : Time → Time} (h : s.KeepsForm t) :
    s.KeepsForm (pinsLost t' t) :=
  .ite h.plain.lostReference h.plain

protected theorem State.KeepsForm.execRef10mLoss (h : s.KeepsForm t) : s.GoesOn (execRef10mLoss t) :=
  .ite h.pinsLost.next h.next

protected theorem State.KeepsForm.execPpsMissing (h : s.KeepsForm t) : s.GoesOn (execPpsMissing t) :=
  .ite h.advanceTo.pinsLost.next h.next

protected theorem State.KeepsForm.learnSource {m : SyncMsg} (h : s.KeepsForm t) : s.KeepsForm (learnSource m t) :=
  (h.updPeer.foldl fun _ _ h => h.updPeer).chooseSource

protected theorem State.KeepsForm.sendTime {not : Option Nat} {size : Nat} (h : s.KeepsForm t) :
    s.KeepsForm (t.sendTime not size) :=
  h.foldl fun _ _ h => h.emit

protected theorem State.KeepsForm.execPtpSync {k : Nat} {m : SyncMsg} (h : s.KeepsForm t) : s.GoesOn (execPtpSync k m t) := by
  unfold execPtpSync
  refine .ite ?_ ?_
  · exact h.next
  · exact .ite h.updLink.learnSource.next h.updLink.learnSource.plain.correct.setClass.sendTime.next

protected theorem State.KeepsForm.execPtpSyncLoss (h : s.KeepsForm t) : s.GoesOn (execPtpSyncLoss t) :=
  .ite h.next (.next (.ite h.advanceTo.plain.setClass h.advanceTo.plain))

protected theorem State.KeepsForm.execPtpAnnounce (h : s.KeepsForm t) : s.GoesOn (execPtpAnnounce t) :=
  .ite (.next (.ite h.advanceTo.plain.sendTime.sendTime h.advanceTo.plain.sendTime)) h.next

protected theorem State.KeepsForm.execPtmDialogue {p : Nat} {master : Option Word} (h : s.KeepsForm t) :
    s.GoesOn (execPtmDialogue p master t) := by
  unfold execPtmDialogue
  refine .ite ?_ ?_
  · exact h.next
  · split
    · exact .ite h.updPort.next (.next (.ite h.updPort.plain.discipline h.updPort.plain))
    · exact .ite h.next (.next (.ite h.plain.lostReference h.plain))

protected theorem State.KeepsForm.execHoldoverExpire (h : s.KeepsForm t) : s.GoesOn (execHoldoverExpire t) :=
  .ite h.advanceTo.plain.settleTime.next h.next

protected theorem State.KeepsForm.execTimEpochWrite {value : Word} (h : s.KeepsForm t) :
    s.GoesOn (execTimEpochWrite value t) :=
  .ite h.next h.plain.setTai.next

protected theorem State.KeepsForm.execPpsOutPulse (h : s.KeepsForm t) : s.GoesOn (execPpsOutPulse t) :=
  .ite h.advanceTo.plain.next h.next

/-! ### Machine/Ports -/

protected theorem State.KeepsForm.execPcieLinkUp {p speed width : Nat} {cxl : Bool} (h : s.KeepsForm t) :
    s.GoesOn (execPcieLinkUp p speed width cxl t) :=
  .ite h.next h.updPort.next

protected theorem State.KeepsForm.execHostDown {h' : HostLoss} (h : s.KeepsForm t) : s.GoesOn (execHostDown h' t) :=
  h.hostDownPort.updPort.next

protected theorem State.KeepsForm.execHostLinkLossTimeout {p : Nat} (h : s.KeepsForm t) : s.GoesOn (execHostLinkLossTimeout p t) :=
  .ite h.updPort.hostDownPort.next h.next

protected theorem State.KeepsForm.execVfFlr {p v : Nat} (h : s.KeepsForm t) : s.GoesOn (execVfFlr p v t) :=
  h.terminateIf.updPort.next

protected theorem State.KeepsForm.execPcieEvtWrite {p : Nat} {value : Word} (h : s.KeepsForm t) :
    s.GoesOn (execPcieEvtWrite p value t) :=
  h.updPort.next

/-! ### Machine/Hinges -/

protected theorem State.KeepsForm.spareLane {e : Nat} {f : LaneFail} (h : s.KeepsForm t) :
    s.KeepsForm (spareLane e t f) := by
  unfold spareLane
  refine .ite ?_ ?_
  · exact h.updEdge
  · split
    · exact h.updEdge
    · exact h.updEdge.appendRepair

protected theorem State.KeepsForm.assignSpares {e : Nat} (h : s.KeepsForm t) : s.KeepsForm (assignSpares e t) :=
  h.foldl fun _ _ h => h.spareLane

protected theorem State.KeepsForm.beginRetrain {e : Nat} {t' : Training} (h : s.KeepsForm t) :
    s.KeepsForm (beginRetrain e t' t) := by
  unfold beginRetrain
  refine .ite ?_ ?_
  · exact h.updEdge.assignSpares.updEdge.updEdge.settleEdges
  · exact .ite h.updEdge.assignSpares.updEdge.edgeOut h.updEdge.assignSpares.updEdge

protected theorem State.KeepsForm.freeTraining {e : Nat} (h : s.KeepsForm t) : s.KeepsForm (freeTraining e t).2 :=
  h.draw

protected theorem State.KeepsForm.execLaneFailure {e dir lane : Nat} (h : s.KeepsForm t) :
    s.GoesOn (execLaneFailure e dir lane t) :=
  .ite h.next h.appendRepair.draw.updEdge.next

protected theorem State.KeepsForm.execHingeRetrain {e : Nat} {training : Training} (h : s.KeepsForm t) :
    s.GoesOn (execHingeRetrain e training t) := by
  unfold execHingeRetrain
  dsimp only
  split
  · exact h.next
  · exact .ite h.next h.advanceTo.beginRetrain.next

protected theorem State.KeepsForm.execHingeCtrlRetrain {t' : EdgeTraining} (h : s.KeepsForm t) :
    s.GoesOn (execHingeCtrlRetrain t' t) :=
  .ite h.updEdge.next (.ite h.beginRetrain.next h.next)

protected theorem State.KeepsForm.hingeCtrlWrite {e : Nat} (h : s.KeepsForm t) : s.GoesOn (hingeCtrlWrite e t) :=
  State.KeepsForm.execHingeCtrlRetrain (h.freeTraining (e := e))

protected theorem State.KeepsForm.execHingeRetrainDone {e : Nat} (h : s.KeepsForm t) : s.GoesOn (execHingeRetrainDone e t) := by
  unfold execHingeRetrainDone
  refine .ite ?_ ?_
  · exact h.next
  · split
    · exact h.edgeOut.next
    · exact .next (.ite h.updEdge.appendRepair.fltPost h.updEdge)

/-! ### Machine/Red -/

protected theorem State.KeepsForm.rdRed {d : Od} {a n : Nat} {x : RedRun} (h : s.KeepsForm x.s) :
    s.KeepsForm (x.rd d a n).1.s := by
  unfold RedRun.rd
  refine .iteFstRed ?_ ?_
  · exact h
  · dsimp only
    split
    · dsimp only
      exact h.accessEnds
    · exact h.demandTier

protected theorem State.KeepsForm.wrRed {d : Od} {a : Nat} {bs : List Byte} {x : RedRun} (h : s.KeepsForm x.s) :
    s.KeepsForm (x.wr d a bs).s := by
  unfold RedRun.wr
  refine .iteRed ?_ ?_
  · exact h
  · dsimp only
    split
    · exact h.accessEnds
    · exact (((h.writeMem ‹_›).noteWrites).demandTier)

protected theorem State.KeepsForm.input {r : Nat} {x : RedRun} (h : s.KeepsForm x.s) : s.KeepsForm (x.input r).1.s :=
  h.rdRed

protected theorem State.KeepsForm.inputs {x : RedRun} (h : s.KeepsForm x.s) : s.KeepsForm (x.inputs).1.s :=
  h.foldlFstRed fun _ _ h => h.input

protected theorem State.KeepsForm.freeOverlaps {x : RedRun} (h : s.KeepsForm x.s) : s.KeepsForm (x.freeOverlaps).s :=
  .iteRed h h.scramble

protected theorem State.KeepsForm.closeRed {r : CmdResult} {x : RedRun} (h : s.KeepsForm x.s) :
    s.KeepsForm (x.close r).1 := by
  unfold RedRun.close
  dsimp only
  split
  · exact (h.foldl fun _ _ h => h.releasePage).accessFault
  · dsimp only
    exact h.foldl fun _ _ h => h.releasePage

protected theorem State.KeepsForm.thin {k : Nat} {ins : List (List Nat)} {x : RedRun} (h : s.KeepsForm x.s) :
    s.KeepsForm (x.thin k ins).1.s :=
  h.foldlFstRed fun _ _ h => .iteFstRed h h.rdRed

protected theorem State.KeepsForm.putHalves {k : Nat} {cur : List (List Attar)} {x : RedRun} (h : s.KeepsForm x.s) :
    s.KeepsForm (x.putHalves k cur).s :=
  h.foldlRed fun _ _ h => h.wrRed

protected theorem State.KeepsForm.charge {id : CmdId} {tensor chunk : Nat} {u : ChargedUnit} (h : s.KeepsForm t) :
    s.KeepsForm (charge id tensor chunk u t) :=
  h.plain.fltPost

protected theorem State.KeepsForm.check {faults : List PathFault} {x : RedRun} (h : s.KeepsForm x.s) :
    s.KeepsForm (x.check faults).1.s := by
  unfold RedRun.check
  refine .plain ?_
  refine .iteFst ?_ ?_
  · refine h.foldlFst fun _ _ h => ?_
    dsimp only
    split
    · exact h
    · exact .iteFst (h.foldl fun _ _ h => h.charge) (h.foldl fun _ _ h => h.fltPost)
  · exact h

protected theorem State.KeepsForm.putSlice {codes lost : List Nat} {r : Nat} {x : RedRun} (h : s.KeepsForm x.s) :
    s.KeepsForm (x.putSlice codes lost r).s :=
  h.foldlRed fun _ _ h => h.wrRed

protected theorem State.KeepsForm.stage {sums : List Attar} {c : Nat} {x : RedRun} (h : s.KeepsForm x.s) :
    s.KeepsForm (x.stage sums c).s := by
  unfold RedRun.stage
  split
  · exact h.updSill
  · exact h

protected theorem State.KeepsForm.stagingFault {checked : List Nat} {faults : List PathFault} {x : RedRun} (h : s.KeepsForm x.s) :
    s.KeepsForm (x.stagingFault checked faults).s := by
  unfold RedRun.stagingFault
  split
  · exact .iteRed h h
  · exact h

protected theorem State.KeepsForm.sendData {dst addr : Nat} {bs : List Byte} (h : s.KeepsForm t) :
    s.KeepsForm (t.sendData dst addr bs) :=
  h.foldl fun _ _ h => h.requestTo

protected theorem State.KeepsForm.sendLines {dst addr : Nat} {ts : List Attar} (h : s.KeepsForm t) :
    s.KeepsForm (t.sendLines dst addr ts) :=
  h.foldl fun _ _ h => h.requestTo

protected theorem State.KeepsForm.exchange {a : Int} {at' : List (List Attar)} {vs : List (List Num)} {mineIn codes : List Nat}
    {again : Bool} {k : Checks} {x : RedRun} (h : s.KeepsForm x.s) :
    s.KeepsForm (x.exchange a at' vs mineIn codes again k).s := by
  unfold RedRun.exchange
  split
  · exact h
  · refine .ite ?_ ?_
    · refine .foldl ?_ fun _ _ h => ?_
      · refine .ite ?_ ?_
        · refine .foldl ?_ fun _ _ h => ?_
          · refine .foldl ?_ fun _ _ h => ?_
            · refine .ite ?_ ?_
              · exact .foldl (.foldl (.ite (h.foldl fun _ _ h => h.sendData) h) fun _ _ h => h.sendData) fun _ _ h => h.sendLines
              · exact .foldl (.ite (h.foldl fun _ _ h => h.sendData) h) fun _ _ h => h.sendData
            · exact h.foldl fun _ _ h => h.sendLines
          · exact h.sendData
        · refine .foldl ?_ fun _ _ h => ?_
          · refine .ite ?_ ?_
            · exact .foldl (.foldl (.ite (h.foldl fun _ _ h => h.sendData) h) fun _ _ h => h.sendData) fun _ _ h => h.sendLines
            · exact .foldl (.ite (h.foldl fun _ _ h => h.sendData) h) fun _ _ h => h.sendData
          · exact h.foldl fun _ _ h => h.sendLines
      · exact h.sendData
    · refine .ite ?_ ?_
      · refine .foldl ?_ fun _ _ h => ?_
        · refine .foldl ?_ fun _ _ h => ?_
          · refine .ite ?_ ?_
            · exact .foldl (.foldl (.ite (h.foldl fun _ _ h => h.sendData) h) fun _ _ h => h.sendData) fun _ _ h => h.sendLines
            · exact .foldl (.ite (h.foldl fun _ _ h => h.sendData) h) fun _ _ h => h.sendData
          · exact h.foldl fun _ _ h => h.sendLines
        · exact h.sendData
      · refine .foldl ?_ fun _ _ h => ?_
        · refine .ite ?_ ?_
          · exact .foldl (.foldl (.ite (h.foldl fun _ _ h => h.sendData) h) fun _ _ h => h.sendData) fun _ _ h => h.sendLines
          · exact .foldl (.ite (h.foldl fun _ _ h => h.sendData) h) fun _ _ h => h.sendData
        · exact h.foldl fun _ _ h => h.sendLines

protected theorem State.KeepsForm.setTensor {count : Nat} {x : RedRun} (h : s.KeepsForm x.s) :
    s.KeepsForm (x.setTensor count).s := by
  dsimp only [RedRun.setTensor]
  exact h.updCtx

protected theorem State.KeepsForm.send {a : Int} {at' : List (List Attar)} {vs : List (List Num)} {ins : List (List Nat)}
    {sat : Bool} {faults : List PathFault} {x : RedRun} (h : s.KeepsForm x.s) : s.KeepsForm (x.send a at' vs ins sat faults).1 := by
  unfold RedRun.send
  refine .iteFst h.closeRed ?_
  split
  split
  rename_i e
  have h1 := State.KeepsForm.of_fstRed e h.check
  extract_lets sums x2 x3 x4 st x5
  have h2 : s.KeepsForm x2.s := (h1.foldlRed fun _ _ h => h.stage).stagingFault
  have h3 : s.KeepsForm x3.s := .iteRed h2 h2.exchange
  have h4 : s.KeepsForm x4.s := (h3.foldlRed fun _ _ h => h.putSlice).freeOverlaps
  have h5 : s.KeepsForm x5.s := .iteRed h4.setTensor h4
  exact h5.closeRed

protected theorem State.KeepsForm.runRed {faults : List PathFault} {x : RedRun} (h : s.KeepsForm x.s) :
    s.KeepsForm (x.run faults).1 := by
  unfold RedRun.run
  refine .iteFst ?_ ?_
  · exact h
  · refine .iteFst ?_ ?_
    · exact h.inputs.send
    · refine .iteFst ?_ ?_
      · exact .closeRed (.iteRed h.inputs.thin.putHalves.setTensor h.inputs.thin.putHalves)
      · exact h.inputs.thin.send

protected theorem State.KeepsForm.askReads {id : CmdId} {e : Entry} (h : s.KeepsForm t) : s.KeepsForm (askReads id e t) := by
  unfold Machine.askReads
  extract_lets ask
  have hask : ∀ u r, s.KeepsForm u → s.KeepsForm (ask u r) := by
    intro u r hu
    unfold ask
    split
    · exact hu.takeReads
    · exact hu
  exact .ite h (.updEntry (h.foldl hask))

protected theorem State.KeepsForm.markLate {r : RedAt} {e : Entry} (h : s.KeepsForm t) :
    s.KeepsForm (markLate r e t) :=
  .ite h.updEntry h

protected theorem State.KeepsForm.runRedAt {r : RedAt} {op : Nat} {f : RedRun → State × CmdResult} (h : s.KeepsForm t)
    (hf : ∀ x : RedRun, s.KeepsForm x.s → s.KeepsForm (f x).1) : s.GoesOn (runRed r op t f) := by
  unfold Machine.runRed
  split
  · exact h.next
  · rename_i e _
    have hr : s.KeepsForm (askReads r.id e (markLate r e t)) := h.markLate.askReads
    exact .ite h.next (.ite hr.next (.next (.ite hr (.finishWith (hf _ hr)))))

protected theorem State.KeepsForm.execRedAllreduce {r : RedAt} {faults : List PathFault} (h : s.KeepsForm t) :
    s.GoesOn (execRedAllreduce r faults t) :=
  h.runRedAt fun _ h => h.runRed

protected theorem State.KeepsForm.execRedReduceScatter {r : RedAt} {faults : List PathFault} (h : s.KeepsForm t) :
    s.GoesOn (execRedReduceScatter r faults t) :=
  h.runRedAt fun _ h => h.runRed

protected theorem State.KeepsForm.sendCopies {ins : List (List Nat)} {part : List Nat → Nat → List Nat}
    {x : RedRun} (h : s.KeepsForm x.s) :
    s.KeepsForm (x.sendCopies ins part).s := by
  unfold RedRun.sendCopies
  split
  · exact h
  · exact (h.foldl fun _ _ h => h.sendData)

protected theorem State.KeepsForm.copy {part : List Nat → Nat → List Nat} {x : RedRun} (h : s.KeepsForm x.s) :
    s.KeepsForm (x.copy part).1 :=
  .closeRed (.freeOverlaps (.foldlRed (.iteRed h.inputs h.inputs.sendCopies) fun _ _ h => h.wrRed))

protected theorem State.KeepsForm.execRedAllgather {r : RedAt} (h : s.KeepsForm t) : s.GoesOn (execRedAllgather r t) :=
  h.runRedAt fun _ h => h.copy

protected theorem State.KeepsForm.execRedAlltoall {r : RedAt} (h : s.KeepsForm t) : s.GoesOn (execRedAlltoall r t) :=
  h.runRedAt fun _ h => h.copy

protected theorem State.KeepsForm.execRedBarrier {r : RedAt} (h : s.KeepsForm t) : s.GoesOn (execRedBarrier r t) := by
  unfold execRedBarrier
  split
  · exact .ite h.next h.markLate.finishWith.next
  · exact h.next

protected theorem State.KeepsForm.discardAccs {p : Acc → Bool} (h : s.KeepsForm t) :
    s.KeepsForm (discardAccs p t) :=
  h.foldl fun _ _ h => h.discard

protected theorem State.KeepsForm.discardRows {p : Nat → Bool} (h : s.KeepsForm t) : s.KeepsForm (discardRows p t) :=
  h.foldl fun _ _ h => h.discard

protected theorem State.KeepsForm.discardPorts {d : Nat} (h : s.KeepsForm t) : s.KeepsForm (discardPorts d t) :=
  h.foldl fun _ _ h => .ite h.draw.discard h.draw

protected theorem State.KeepsForm.discardUsers {u : ChargedUnit} (h : s.KeepsForm t) : s.KeepsForm (discardUsers u t) := by
  unfold discardUsers
  split
  · exact h
  · exact h.discardAccs
  · split
    · exact (h.foldl fun _ _ h => h.discard).discardReds
    · exact h.discardPorts
    · exact h
  · exact h.discardAccs.discardRows.discardReds

protected theorem State.KeepsForm.fenceUnit {u : ChargedUnit} (h : s.KeepsForm t) : s.KeepsForm (fenceUnit u t) := by
  unfold fenceUnit
  dsimp only
  split
  · exact h.discardUsers.withdrawCore
  · exact h.discardUsers.withdrawTile
  · exact h.discardUsers.edgeOut
  · exact (h.discardUsers.withCap fun _ h => h.updLink).linkDown

protected theorem State.KeepsForm.execUnitFence {u : ChargedUnit} (h : s.KeepsForm t) : s.GoesOn (execUnitFence u t) := by
  unfold execUnitFence
  split
  · exact h.next
  · split
    · exact h.next
    · exact .ite h.next h.plain.appendRepair.fenceUnit.fltPost.next

end Sys2Proof.Machine
end

section
/-! SUPPORT. The rules of self-tests, starts, and security. -/

set_option Elab.async false -- the rules are too many to elaborate side by side

namespace Sys2Proof.Machine

variable {s t u : State}

/-! ### Machine/SelfTest -/

protected theorem State.KeepsForm.failSpare {t' p : Nat} (h : s.KeepsForm t) : s.KeepsForm (failSpare t' p t) :=
  .ite h h.updTile.appendRepair

protected theorem State.KeepsForm.failSpareUcore {t' p : Nat} (h : s.KeepsForm t) : s.KeepsForm (failSpareUcore t' p t) :=
  .ite h h.draw.updTile.appendRepair

protected theorem State.KeepsForm.failHbm {excl : Bool} {n p : Nat} (h : s.KeepsForm t) : s.KeepsForm (failHbm excl n p t) := by
  unfold failHbm
  refine .ite ?_ ?_
  · exact .ite h.draw.draw.degrade h.draw.draw
  · dsimp only
    split
    · exact h.draw.draw
    · split
      · exact h.draw.draw
      · exact h.draw.draw.rowFails

protected theorem State.KeepsForm.failUnit {excl : Bool} {r : TestResult} (h : s.KeepsForm t) :
    s.KeepsForm (failUnit excl r t) := by
  unfold failUnit
  split
  · exact h.draw.retireFrame
  · exact .ite h.failHbm h
  · exact .ite h.draw.execLaneFailure.after h.draw
  · exact .ite h.draw.execWavelengthFailure.after h.draw
  · exact h.failSpareUcore
  · exact h
  · exact h
  · split
    · exact h.withdrawCore
    · exact h.failSpare

protected theorem State.KeepsForm.postFailed {test tile unit : Nat} (h : s.KeepsForm t) :
    s.KeepsForm (postFailed test tile unit t) :=
  h.plain.fltPost

protected theorem State.KeepsForm.takeResult {excl : Bool} {r : TestResult} (h : s.KeepsForm t) :
    s.KeepsForm (takeResult excl t r) :=
  .ite h.plain.fltPost (.ite h.failUnit.postFailed h)

protected theorem State.KeepsForm.startTests {tests : Nat} {rs : List TestResult} (h : s.KeepsForm t) :
    s.KeepsForm (startTests tests rs t) :=
  .ite (h.foldl fun _ _ h => h.takeResult) h

/-! ### Machine/Start -/

protected theorem State.KeepsForm.closeOpen (h : s.KeepsForm t) : s.KeepsForm (closeOpen t) := by
  unfold closeOpen
  split
  · exact .ite h h.closeStart
  · exact h

protected theorem State.KeepsForm.openEntry {cause bank progress : Nat} (h : s.KeepsForm t) :
    s.KeepsForm (openEntry cause bank progress t) :=
  h.plain

protected theorem State.KeepsForm.stageDone (h : s.KeepsForm t) : s.KeepsForm (stageDone t) :=
  h.plain

protected theorem State.KeepsForm.extendMr {i : Nat} {d : List Byte} (h : s.KeepsForm t) : s.KeepsForm (extendMr i d t) :=
  h.plain (List.length_set ..)

protected theorem State.KeepsForm.loadPower (h : s.KeepsForm t) : s.KeepsForm (loadPower t) :=
  h.plain

protected theorem State.KeepsForm.stageRom {env : StageEnv} (h : s.KeepsForm t) : s.KeepsForm (stageRom env t).1 := by
  unfold stageRom
  refine .iteFst ?_ ?_
  · exact h.closeOpen.draw.plain.loadPower.openEntry
  · refine .iteFst ?_ ?_
    · exact h.closeOpen.draw.plain.loadPower.openEntry
    · refine .iteFst ?_ ?_
      · exact h.closeOpen.draw.plain.loadPower.openEntry.plain.stageDone.plain.fltPost
      · exact h.closeOpen.draw.plain.loadPower.openEntry.plain.stageDone

protected theorem State.KeepsForm.stageImage (h : s.KeepsForm t) : s.KeepsForm (stageImage t).1 := by
  unfold stageImage
  refine .iteFst ?_ ?_
  · exact (h.plain.plain.foldl fun _ _ h => h.extendMr).stageDone
  · exact .iteFst ((h.plain.fltPost.plain.foldl fun _ _ h => h.extendMr).stageDone) h.plain.fltPost.fltPost

protected theorem State.KeepsForm.readHome (h : s.KeepsForm t) : s.KeepsForm (readHome t) :=
  h.plain

protected theorem State.KeepsForm.stageLedger {env : StageEnv} (h : s.KeepsForm t) : s.KeepsForm (stageLedger env t).1 := by
  unfold stageLedger
  refine .stageDone ?_
  refine .extendMr ?_
  refine .readHome ?_
  refine .ite ?_ ?_
  · exact .plain (.ite (.fltPost (.plain (.draw (.ite h.fltPost h)))) (.ite h.fltPost h))
  · exact .ite (.fltPost (.plain (.draw (.ite h.fltPost h)))) (.ite h.fltPost h)

protected theorem State.KeepsForm.sillRepair {n : Nat} (h : s.KeepsForm t) : s.KeepsForm (sillRepair n t) :=
  h.foldl fun _ _ h => .ite h.appendRepair h.updSill

protected theorem State.KeepsForm.bringTile {env : StageEnv} {n : Nat} (h : s.KeepsForm t) :
    s.KeepsForm (bringTile env n t) := by
  unfold bringTile
  refine .ite ?_ ?_
  · exact h
  · split
    · exact h
    · exact h.updTile.updTpower.sillRepair

protected theorem State.KeepsForm.stageTiles {env : StageEnv} (h : s.KeepsForm t) : s.KeepsForm (stageTiles env t).1 :=
  (h.foldl fun _ _ h => h.bringTile).stageDone

protected theorem State.KeepsForm.trainEdge {env : StageEnv} {e : Nat} (h : s.KeepsForm t) :
    s.KeepsForm (trainEdge env e t) := by
  unfold trainEdge
  split
  · exact h
  · refine .ite ?_ ?_
    · exact h.updEdge.updEdge
    · dsimp only
      split
      · exact h.updEdge.assignSpares.updEdge
      · exact h.updEdge.assignSpares

protected theorem State.KeepsForm.settleTrained {env : StageEnv} {e : Nat} (h : s.KeepsForm t) :
    s.KeepsForm (settleTrained env e t) :=
  .ite h.edgeFails h

protected theorem State.KeepsForm.stageHinges {env : StageEnv} (h : s.KeepsForm t) : s.KeepsForm (stageHinges env t).1 := by
  unfold Machine.stageHinges
  refine .iteFst h ?_
  extract_lets x1 x2
  have h2 : s.KeepsForm x2 := (h.foldl fun _ _ h => h.trainEdge).foldl fun _ _ h => h.settleTrained
  clear_value x2
  exact .iteFst h2 h2.dropUnreached.stageDone

protected theorem State.KeepsForm.repairRow {f : RowId × Nat} (h : s.KeepsForm t) : s.KeepsForm (repairRow t f) :=
  .ite h.draw.plain.appendRepair h.draw.plain.appendRepair

protected theorem State.KeepsForm.settleRepaired {d : Nat} (h : s.KeepsForm t) : s.KeepsForm (settleRepaired t d) :=
  .ite h h.plain

protected theorem State.KeepsForm.bringStack {env : StageEnv} {n : Nat} (h : s.KeepsForm t) :
    s.KeepsForm (bringStack env n t) := by
  unfold bringStack
  refine .ite ?_ ?_
  · exact h
  · dsimp only
    split
    · exact .updPc (.updStack (.foldl (.ite h.updStack.powerEvent h.updStack) fun _ _ h => h.updPc))
    · exact .foldl (.ite h.updStack.powerEvent h.updStack) fun _ _ h => h.updPc

protected theorem State.KeepsForm.degradeUnspared (h : s.KeepsForm t) : s.KeepsForm (degradeUnspared t) :=
  h.foldl fun _ _ h => h.foldl fun _ _ h => .ite h.degrade h

protected theorem State.KeepsForm.poisonGranule {g : Nat} (h : s.KeepsForm t) : s.KeepsForm (poisonGranule g t) :=
  h.plain

protected theorem State.KeepsForm.poisonLost (h : s.KeepsForm t) : s.KeepsForm (poisonLost t) := by
  unfold poisonLost
  refine h.plain.foldl fun _ _ h => ?_
  split
  · exact h.poisonGranule
  · exact h

protected theorem State.KeepsForm.finishJournals (h : s.KeepsForm t) : s.KeepsForm (finishJournals t) :=
  h.foldl fun _ _ h => h.appendRepair.plain.fltPost

protected theorem State.KeepsForm.journalWaiting (h : s.KeepsForm t) : s.KeepsForm (journalWaiting t) := by
  unfold journalWaiting
  refine h.foldl fun _ _ h => ?_
  split
  · exact h
  · exact .ite h h.plain.appendRepair.memoryEvent

protected theorem State.KeepsForm.leaveGranules (h : s.KeepsForm t) : s.KeepsForm (leaveGranules t) :=
  (h.foldl fun _ _ h => .ite h.moveGranule h).clearSpill

protected theorem State.KeepsForm.dropGranules {u : Nat} (h : s.KeepsForm t) : s.KeepsForm (dropGranules u t) :=
  h.foldl fun _ _ h => h.plain

protected theorem State.KeepsForm.offerHome (h : s.KeepsForm t) : s.KeepsForm (offerHome t) := by
  unfold offerHome
  refine .ite ?_ ?_
  · exact .plain (.finishJournals (.ite h.leaveGranules.dropGranules h))
  · exact h.plain.finishJournals.plain.plain.clearSpill

protected theorem State.KeepsForm.repairRows (h : s.KeepsForm t) : s.KeepsForm (repairRows t) :=
  (h.foldl fun _ _ h => h.repairRow).foldl fun _ _ h => h.settleRepaired

protected theorem State.KeepsForm.stageHbm {env : StageEnv} (h : s.KeepsForm t) : s.KeepsForm (stageHbm env t).1 :=
  .stageDone (.degradeUnspared (.offerHome (.foldl (.journalWaiting (.repairRows (.ite h.plain.poisonLost h)))
      fun _ _ h => h.bringStack)))

protected theorem State.KeepsForm.bringCores {bad : List Nat} {t' : Nat} (h : s.KeepsForm t) :
    s.KeepsForm (bringCores bad t' t) := by
  unfold bringCores
  refine ((h.foldl fun _ _ h => h.setCore).foldl fun _ _ h => h.updTile.appendRepair).foldl fun _ _ h => ?_
  refine .ite ?_ ?_
  · exact h.withdrawCore
  · refine .ite ?_ ?_
    · split
      · exact h.updCore.appendRepair
      · exact h
    · exact h

protected theorem State.KeepsForm.bringUcores {bad : List Nat} {t' : Nat} (h : s.KeepsForm t) :
    s.KeepsForm (bringUcores bad t' t) := by
  unfold bringUcores
  refine ((h.foldl fun _ _ h => h.draw.updTile.appendRepair).foldl fun _ _ h => h.updUcore).foldl fun _ _ h => ?_
  refine .ite ?_ ?_
  · exact h
  · split
    · exact h.updUcore.appendRepair
    · exact h

protected theorem State.KeepsForm.stageCores {env : StageEnv} (h : s.KeepsForm t) : s.KeepsForm (stageCores env t).1 := by
  unfold stageCores
  refine .iteFst ?_ ?_
  · exact ((h.foldl fun _ _ h => h.bringCores.bringUcores).foldl fun _ _ h => h.draw.postFailed).foldl fun _ _ h => h.postFailed
  · exact ((((((h.foldl fun _ _ h => h.bringCores.bringUcores).foldl fun _ _ h => h.draw.postFailed).foldl
      fun _ _ h => h.postFailed).withCap fun _ h => h.plain).startTests).extendMr).stageDone

protected theorem State.KeepsForm.bringLink {k : Nat} (h : s.KeepsForm t) : s.KeepsForm (bringLink k t) :=
  .ite h h.updLink

protected theorem State.KeepsForm.stageLinks {env : StageEnv} (h : s.KeepsForm t) : s.KeepsForm (stageLinks env t).1 := by
  unfold Machine.stageLinks
  extract_lets lasers
  have hl : ∀ u, s.KeepsForm u → s.KeepsForm (lasers u) := fun _ h => h.foldl fun _ _ h => h.updLaser
  clear_value lasers
  exact (h.withCap fun u h => (hl u h).foldl fun _ _ h => h.bringLink).startTests.stageDone

protected theorem State.KeepsForm.stageReady {env : StageEnv} (h : s.KeepsForm t) : s.KeepsForm (stageReady env t).1 := by
  unfold stageReady
  split
  · exact h
  · exact h.stageDone.closeStart.plain.fltPost

protected theorem State.KeepsForm.runStage {env : StageEnv} (h : s.KeepsForm t) : s.KeepsForm (runStage env t).1 := by
  unfold runStage
  split
  · exact h.stageRom
  · exact h.stageImage
  · exact h.stageLedger
  · exact h.stageTiles
  · exact h.stageHinges
  · exact h.stageHbm
  · exact h.stageCores
  · exact h.stageLinks
  · exact h.stageReady

protected theorem State.KeepsForm.execStartStage {env : StageEnv} (h : s.KeepsForm t) :
    s.GoesOn (execStartStage env t) := by
  unfold execStartStage
  refine .ite ?_ ?_
  · exact h.next
  · dsimp only
    split
    · exact h.runStage.next
    · exact h.runStage.stopPackage.next

protected theorem State.KeepsForm.execStartStageTimeout (h : s.KeepsForm t) : s.GoesOn (execStartStageTimeout t) :=
  .ite h.next (.next (.stopPackage (.ite h.advanceTo.closeOpen.openEntry h.advanceTo)))

protected theorem State.KeepsForm.retry (h : s.KeepsForm t) : s.KeepsForm (retry t) :=
  h.advanceTo.restart.plain

protected theorem State.KeepsForm.execStartRetry (h : s.KeepsForm t) : s.GoesOn (execStartRetry t) :=
  .ite h.retry.next h.next

protected theorem State.KeepsForm.execWatchdog (h : s.KeepsForm t) : s.GoesOn (execWatchdog t) :=
  .ite h.restart.next h.next

protected theorem State.KeepsForm.execClear (h : s.KeepsForm t) : s.GoesOn (execClear t) :=
  h.plain.next

protected theorem State.KeepsForm.execRestart (h : s.KeepsForm t) : s.GoesOn (execRestart t) :=
  .ite h.closeStart.restart.next h.next

protected theorem State.KeepsForm.execPkgReset {lowNs : Nat} {taken : Bool} (h : s.KeepsForm t) :
    s.GoesOn (execPkgReset lowNs taken t) :=
  .ite h.next h.restart.plain.next

protected theorem State.KeepsForm.laserPowered {n : Nat} (h : s.KeepsForm t) : s.KeepsForm (laserPowered n t) :=
  .ite (h.updLaser.foldl fun _ _ h => h.wakeLink) h

protected theorem State.KeepsForm.execDomainPowerGood {d : Domain} (h : s.KeepsForm t) :
    s.GoesOn (execDomainPowerGood d t) := by
  unfold execDomainPowerGood
  refine .ite ?_ ?_
  · exact h.next
  · split
    · exact .ite h.setDomain.plain.next (.ite h.next h.setDomain.restart.next)
    · exact ((h.withCap fun _ h => h.setDomain).laserPowered).next
    · exact (h.withCap fun _ h => h.setDomain).next

protected theorem State.KeepsForm.laserLost {n : Nat} (h : s.KeepsForm t) : s.KeepsForm (laserLost n t) :=
  h.updLaser.foldl fun _ _ h => h.stopLink.updLink

protected theorem State.KeepsForm.execDomainLost {d : Domain} (h : s.KeepsForm t) : s.GoesOn (execDomainLost d t) := by
  unfold execDomainLost
  refine .ite ?_ ?_
  · exact h.next
  · split
    · refine .next ?_
      refine .setDomain ?_
      split
      · exact h.packageStop.tearClose
      · exact h
      · exact h.supplyGone
    · exact (((h.withCap fun _ h => h.setDomain).tileLost).powerEvent).next
    · exact h.setDomain.ioDie1Off.powerEvent.next
    · exact (((h.withCap fun _ h => h.setDomain).laserLost).powerEvent).next

/-! ### Machine/Security -/

protected theorem State.KeepsForm.execFwUpdateStart {img : ImageView} (h : s.KeepsForm t) :
    s.GoesOn (execFwUpdateStart img t) := by
  unfold execFwUpdateStart
  split
  · exact h.plain.next
  · exact h.plain.next

protected theorem State.KeepsForm.execFwUpdateDone {ok : Bool} (h : s.KeepsForm t) : s.GoesOn (execFwUpdateDone ok t) :=
  .ite h.next (.ite h.plain.next h.plain.next)

protected theorem State.KeepsForm.execCommit (h : s.KeepsForm t) : s.GoesOn (execCommit t) :=
  .ite h.plain.next h.next

protected theorem State.KeepsForm.execMrExtend {value : Word} (h : s.KeepsForm t) : s.GoesOn (execMrExtend value t) :=
  .ite h.extendMr.next h.next

protected theorem State.KeepsForm.writeOutputs {id : CmdId} {seg base : Nat} {self : Option Nat} {own : List Byte}
    {len : State → Nat × State} (hlen : ∀ u, s.KeepsForm u → s.KeepsForm (len u).2) : ∀ {ms : List (Option Nat)} {k total : Nat}
    {t : State}, s.KeepsForm t → s.KeepsForm (writeOutputs id seg base self own len ms k total t).1
  | [], _, _, _, h => h
  | m :: ms, k, total, t, h => by
    unfold Machine.writeOutputs
    split
    rename_i n v e
    have hv : s.KeepsForm v := by
      have := State.KeepsForm.iteSnd (c := (m == self) = true) (a := (own.length, t)) h (hlen t h)
      rwa [e] at this
    split
    rename_i bs w e
    have hw : s.KeepsForm w := by
      have := State.KeepsForm.iteSnd (c := (m == self) = true) (a := (own, v)) hv (hv.freeBytes (n := n))
      rwa [e] at this
    split
    · exact hw.accessEnds.accessFault
    · exact State.KeepsForm.writeOutputs hlen (hw.writeMem ‹_›)

protected theorem State.KeepsForm.execSecAttest {id : CmdId} (h : s.KeepsForm t) : s.GoesOn (execSecAttest id t) := by
  unfold Machine.execSecAttest
  refine h.runCmd fun _ _ h => ?_
  extract_lets
  split
  rename_i e
  exact State.KeepsForm.writeOutputs (fun _ h => h) (of_snd e h.freeBytes)

protected theorem State.KeepsForm.execSecCert {id : CmdId} (h : s.KeepsForm t) : s.GoesOn (execSecCert id t) := by
  unfold Machine.execSecCert
  refine h.runCmd fun _ _ h => ?_
  extract_lets _ len
  exact State.KeepsForm.writeOutputs (len := len) (fun _ h => h.draw) h

protected theorem State.KeepsForm.execFltHeadWrite {value : Word} (h : s.KeepsForm t) :
    s.GoesOn (execFltHeadWrite value t) :=
  h.plain.fltDrainHeld.next

end Sys2Proof.Machine
end

section
/-! SUPPORT. The rules of registers, Ultur cores, and resets. -/

set_option Elab.async false -- the rules are too many to elaborate side by side

namespace Sys2Proof.Machine

variable {s t u : State}

/-! ### Machine/Registers -/

protected theorem State.KeepsForm.setGang {f : Gang → Gang} (h : s.KeepsForm t) :
    s.KeepsForm (t.setGang f) :=
  h.plain

protected theorem State.KeepsForm.gangWrite {o mask v : Nat} (h : s.KeepsForm t) : s.KeepsForm (gangWrite o mask v t) := by
  unfold gangWrite
  refine .ite ?_ ?_
  · exact h
  · exact .ite h.setGang (.ite h.setGang (.ite (.ite h.setGang.draw.execGangSend.after h.setGang) h))

protected theorem State.KeepsForm.ctxCmd {v : Nat} (h : s.KeepsForm t) : s.KeepsForm (ctxCmd v t) := by
  unfold ctxCmd
  dsimp only
  split
  · exact h.execEnable.after
  · exact h.execDisable.after
  · exact h.execTerminate.after
  · exact .ite h h.setCtxStat

protected theorem State.KeepsForm.sysWrite {o mask v : Nat} (h : s.KeepsForm t) : s.KeepsForm (sysWrite o mask v t) := by
  refine .ite h.gangWrite (.ite (h.setPrivs fun hw => Table.wf_upd _ hw ..) ?_)
  split
  · exact h.plain
  · exact .ite h.ctxCmd h
  · exact h.plain
  · exact h.plain
  · exact h.plain
  · exact h

protected theorem State.KeepsForm.sysClear {o mask : Nat} (h : s.KeepsForm t) : s.KeepsForm (sysClear o mask t) := by
  unfold sysClear
  split
  · exact h.plain
  · exact h.plain
  · exact h

protected theorem State.KeepsForm.timCtrlWrite {mask v : Nat} (h : s.KeepsForm t) : s.KeepsForm (timCtrlWrite mask v t) :=
  .ite h.plain.chooseSource h.plain

protected theorem State.KeepsForm.timWrite {o mask v : Nat} (h : s.KeepsForm t) : s.KeepsForm (timWrite o mask v t) := by
  unfold timWrite
  dsimp only
  split
  · exact h.timCtrlWrite
  · exact .ite h.execTimEpochWrite.after h
  · exact .ite h.plain h
  · exact h.plain
  · exact h.plain
  · exact h

protected theorem State.KeepsForm.pwrWrite {via : Via} {o mask v : Nat} (h : s.KeepsForm t) :
    s.KeepsForm (pwrWrite via o mask v t) := by
  unfold pwrWrite
  refine .ite ?_ ?_
  · exact .ite h.updTpower h
  · split
    · exact .ite h.execPwrBmcCapWrite.after h
    · exact .ite h.execPwrBmcCapWrite.after h
    · exact h.plain
    · exact h

protected theorem State.KeepsForm.pwrClear {o mask : Nat} (h : s.KeepsForm t) : s.KeepsForm (pwrClear o mask t) :=
  .ite h.updTpower (.ite h.plain h)

protected theorem State.KeepsForm.tierWrite {o mask v : Nat} (h : s.KeepsForm t) : s.KeepsForm (tierWrite o mask v t) := by
  unfold tierWrite
  split
  · exact h.plain
  · exact h.plain
  · exact h.plain
  · exact h

protected theorem State.KeepsForm.tierClear {o mask : Nat} (h : s.KeepsForm t) : s.KeepsForm (tierClear o mask t) :=
  .ite h.plain h

protected theorem State.KeepsForm.segWrite {o v : Nat} (h : s.KeepsForm t) : s.KeepsForm (segWrite o v t) :=
  .ite h.updCtx h

protected theorem State.KeepsForm.fltWrite {o mask v : Nat} (h : s.KeepsForm t) : s.KeepsForm (fltWrite o mask v t) := by
  unfold fltWrite
  dsimp only
  split
  · exact h.plain
  · exact h.plain
  · exact h.plain
  · exact .ite h.execFltHeadWrite.after h
  · exact h

protected theorem State.KeepsForm.fltClear {o mask : Nat} (h : s.KeepsForm t) : s.KeepsForm (fltClear o mask t) :=
  .ite h.plain h

protected theorem State.KeepsForm.hbmWrite {n o mask v : Nat} (h : s.KeepsForm t) : s.KeepsForm (hbmWrite n o mask v t) :=
  .ite h.updStack h

protected theorem State.KeepsForm.hbmClear {n o mask : Nat} (h : s.KeepsForm t) : s.KeepsForm (hbmClear n o mask t) := by
  unfold hbmClear
  refine .ite ?_ ?_
  · exact h
  · refine .ite ?_ ?_
    · exact h.updPc
    · split
      · exact h.updStack
      · exact h.updStack
      · exact h

protected theorem State.KeepsForm.tileWrite {n o mask v : Nat} (h : s.KeepsForm t) : s.KeepsForm (tileWrite n o mask v t) := by
  unfold tileWrite
  split
  · exact .ite h.setCore h
  · exact h

protected theorem State.KeepsForm.tileClear {n o mask : Nat} (h : s.KeepsForm t) : s.KeepsForm (tileClear n o mask t) := by
  unfold tileClear
  split
  · exact .ite h.updCore h
  · exact h

protected theorem State.KeepsForm.linkCtrlWrite {k v : Nat} (h : s.KeepsForm t) : s.KeepsForm (linkCtrlWrite k v t) := by
  unfold linkCtrlWrite
  refine .ite ?_ ?_
  · exact (State.KeepsForm.execLinkRetrain (.ite h h.execLinkEnable.after)).after
  · exact .ite h h.execLinkEnable.after

protected theorem State.KeepsForm.linkWrite {k o mask v : Nat} (h : s.KeepsForm t) : s.KeepsForm (linkWrite k o mask v t) := by
  unfold linkWrite
  refine .ite ?_ ?_
  · exact h
  · split
    · exact .ite h.linkCtrlWrite h
    · exact .ite h.updLink h
    · exact .ite h.execLaserDrain.after h
    · exact h

protected theorem State.KeepsForm.linkClear {k o mask : Nat} (h : s.KeepsForm t) : s.KeepsForm (linkClear k o mask t) :=
  .ite h.updLink h

protected theorem State.KeepsForm.hingeWrite {e o v : Nat} (h : s.KeepsForm t) : s.KeepsForm (hingeWrite e o v t) :=
  .ite h.hingeCtrlWrite.after h

protected theorem State.KeepsForm.hingeClear {e o mask : Nat} (h : s.KeepsForm t) : s.KeepsForm (hingeClear e o mask t) :=
  .ite h.updEdge h

protected theorem State.KeepsForm.portWrite {p o mask v : Nat} (h : s.KeepsForm t) : s.KeepsForm (portWrite p o mask v t) := by
  unfold portWrite
  split
  · exact h.updPort
  · exact h.updPort
  · exact h.execPcieEvtWrite.after
  · exact h

protected theorem State.KeepsForm.freeImage (h : s.KeepsForm t) : s.KeepsForm (freeImage t).2 := by
  unfold Machine.freeImage
  split
  rename_i e
  have h1 := of_snd e h.draw
  split
  rename_i e
  have h2 := of_snd e h1.draw
  split
  rename_i e
  have h3 := of_snd e h2.draw
  split
  rename_i e
  have h4 := of_snd e h3.freeBytes
  split
  rename_i e
  have h5 := of_snd e h4.freeBytes
  split
  rename_i e
  exact (of_snd e h5.freeBytes).draw

protected theorem State.KeepsForm.fwCtrlWrite {v : Nat} (h : s.KeepsForm t) : s.KeepsForm (fwCtrlWrite v t) := by
  unfold fwCtrlWrite
  refine .ite ?_ ?_
  · exact (State.KeepsForm.execCommit (.ite h.freeImage.execFwUpdateStart.after h)).after
  · exact .ite h.freeImage.execFwUpdateStart.after h

protected theorem State.KeepsForm.startCtrlWrite {v : Nat} (h : s.KeepsForm t) : s.KeepsForm (startCtrlWrite v t) :=
  .ite ((State.KeepsForm.execRestart (.ite h.execClear.after h)).after) (.ite h.execClear.after h)

protected theorem State.KeepsForm.secWrite {o mask v : Nat} (h : s.KeepsForm t) : s.KeepsForm (secWrite o mask v t) := by
  unfold secWrite
  refine .ite ?_ ?_
  · exact h.plain
  · split
    · exact h.startCtrlWrite
    · exact h.plain
    · exact h.plain
    · exact h.fwCtrlWrite
    · exact h.execMrExtend.after
    · exact h

protected theorem State.KeepsForm.bellWrite {n o mask v : Nat} (h : s.KeepsForm t) : s.KeepsForm (bellWrite n o mask v t) := by
  unfold bellWrite
  refine .ite ?_ ?_
  · exact h
  · refine .ite ?_ ?_
    · exact h.execDoorbell.after
    · split
      · exact h.execDbCqHeadWrite.after
      · exact h.execDbCqArmWrite.after
      · exact h.updCtx
      · exact h

protected theorem State.KeepsForm.shutterClear {o mask : Nat} (h : s.KeepsForm t) : s.KeepsForm (shutterClear o mask t) := by
  unfold shutterClear
  split
  · exact h.sysClear
  · exact h.pwrClear
  · exact h.tierClear
  · exact h.fltClear
  · exact h.hbmClear
  · exact h.tileClear
  · exact h.linkClear
  · exact h.hingeClear
  · exact h

protected theorem State.KeepsForm.shutterWrite {via : Via} {o mask v : Nat} (h : s.KeepsForm t) :
    s.KeepsForm (shutterWrite via o mask v t) := by
  unfold shutterWrite
  split
  · exact h.sysWrite
  · exact h.timWrite
  · exact h.pwrWrite
  · exact h.tierWrite
  · exact h.segWrite
  · exact h.fltWrite
  · exact h.hbmWrite
  · exact h.tileWrite
  · exact h.linkWrite
  · exact h.hingeWrite
  · exact h.portWrite
  · exact h.secWrite
  · exact h.bellWrite
  · exact h

protected theorem State.KeepsForm.readShutter {via : Via} {o width : Nat} (h : s.KeepsForm t) :
    s.KeepsForm (readShutter via o width t).2 :=
  .iteSnd h h.shutterClear

protected theorem State.KeepsForm.narrowStore {o : Nat} (h : s.KeepsForm t) : s.KeepsForm (narrowStore o t) :=
  h.fltPost

protected theorem State.KeepsForm.writeShutter {via : Via} {o width value : Nat} (h : s.KeepsForm t) :
    s.KeepsForm (writeShutter via o width value t) :=
  .ite h h.shutterWrite

protected theorem State.KeepsForm.execRegisterWrite {via : Via} {o width : Nat} {value : Word} (h : s.KeepsForm t) :
    s.GoesOn (execRegisterWrite via o width value t) :=
  .ite h.next (.ite h.narrowStore.next h.writeShutter.next)

protected theorem State.KeepsForm.execRegisterReadClear {via : Via} {o width : Nat} (h : s.KeepsForm t) :
    s.GoesOn (execRegisterReadClear via o width t) :=
  .ite h.plain.next h.readShutter.plain.next

protected theorem State.KeepsForm.execShutterNarrowStore {o width : Nat} {_value : Word} (h : s.KeepsForm t) :
    s.GoesOn (execShutterNarrowStore o width _value t) :=
  .ite h.next h.narrowStore.next

/-! ### Machine/Access -/

protected theorem State.KeepsForm.tlpReg {p : Nat} {q : Tlp} {off : Nat} (h : s.KeepsForm t) :
    s.KeepsForm (tlpReg p q off t) :=
  .ite h.tlpError (.ite h.readShutter.plain (.ite h.plain.narrowStore h.plain.writeShutter))

protected theorem State.KeepsForm.tlpMem {p : Nat} {q : Tlp} {a : Nat} (h : s.KeepsForm t) : s.KeepsForm (tlpMem p q a t) := by
  unfold tlpMem
  refine .ite ?_ ?_
  · split
    · exact h.landWrite.plain
    · exact h.tlpError
  · split
    · exact h.readFor fun _ h => h.tlpData
    · exact h.demandShared.readFailed.tlpError
    · exact h.tlpError

protected theorem State.KeepsForm.tlpConfig {p : Nat} {q : Tlp} (h : s.KeepsForm t) : s.KeepsForm (tlpConfig p q t) :=
  .ite h.updPort.plain h.updPort.draw.plain

protected theorem State.KeepsForm.execHostTlp {p : Nat} {q : Tlp} (h : s.KeepsForm t) : s.GoesOn (execHostTlp p q t) := by
  unfold execHostTlp
  split
  · exact .next (.ite h.tlpConfig h)
  · exact .next (.ite h.tlpReg h)
  · exact .next (.ite h.tlpMem h)
  · exact .next (.ite h.tlpError h)

protected theorem State.KeepsForm.execI3cPrivateWrite {addr offset : Nat} {data : Option Word} (h : s.KeepsForm t) :
    s.GoesOn (execI3cPrivateWrite addr offset data t) := by
  unfold execI3cPrivateWrite
  refine .ite ?_ ?_
  · exact h.next
  · dsimp only
    split
    · exact .next (.ite h.plain.writeShutter h.plain)
    · exact h.plain.next

protected theorem State.KeepsForm.execI3cPrivateRead {addr : Nat} (h : s.KeepsForm t) : s.GoesOn (execI3cPrivateRead addr t) :=
  .ite h.next (.next (.plain (.iteSnd h.readShutter h)))

/-! ### Machine/Panes -/

protected theorem State.KeepsForm.execPaneCheckFault {t' c : Nat} (h : s.KeepsForm t) : s.GoesOn (execPaneCheckFault t' c t) :=
  h.withdrawCore.next

protected theorem State.KeepsForm.execLouvreSlot {t' : Nat} (h : s.KeepsForm t) : s.GoesOn (execLouvreSlot t' t) := by
  unfold execLouvreSlot
  dsimp only
  split
  · exact h.advanceTo.updTile.next
  · exact .ite h.advanceTo.updTile.next ((h.advanceTo.updTile.foldl fun _ _ h => h.updCore).next)

protected theorem State.KeepsForm.execIssueLimitStep {t' c : Nat} (h : s.KeepsForm t) : s.GoesOn (execIssueLimitStep t' c t) :=
  .ite h.advanceTo.updCore.next h.next

protected theorem State.KeepsForm.execKeepWarmGap {t' c rows : Nat} (h : s.KeepsForm t) :
    s.GoesOn (execKeepWarmGap t' c rows t) := by
  unfold execKeepWarmGap
  dsimp only
  split
  · exact .ite h.advanceToCycle.setCore.next h.next
  · exact h.next

protected theorem State.KeepsForm.execCoreCold {t' c : Nat} (h : s.KeepsForm t) : s.GoesOn (execCoreCold t' c t) := by
  unfold execCoreCold
  dsimp only
  split
  · exact .ite h.advanceToCycle.setCore.settleCore.next h.next
  · exact h.next

/-! ### Machine/Ultur -/

protected theorem State.KeepsForm.takeTrap {t' u cause addr : Nat} (h : s.KeepsForm t) : s.KeepsForm (takeTrap t' u cause addr t) :=
  h.updUcore

protected theorem State.KeepsForm.takeFill {t' u line : Nat} (h : s.KeepsForm t) : s.KeepsForm (takeFill t' u line t) :=
  .ite h.updUcore h.hostFill

protected theorem State.KeepsForm.fillLine {t' u errs line : Nat} (h : s.KeepsForm t) :
    s.KeepsForm (fillLine t' u errs t line) := by
  unfold fillLine
  refine .ite ?_ ?_
  · exact h
  · refine .ite ?_ ?_
    · exact .ite h.updUcore.enqueueRead.updUcore h.updUcore.enqueueRead.takeFill
    · exact h.updUcore.readCode.takeFill

protected theorem State.KeepsForm.forgetBad {t' u : Nat} {ls : List Nat} (h : s.KeepsForm t) : s.KeepsForm (forgetBad t' u ls t) :=
  h.updUcore

protected theorem State.KeepsForm.needLines {t' u errs : Nat} {ls : List Nat} (h : s.KeepsForm t) :
    s.KeepsForm (needLines t' u errs ls t) :=
  h.foldl fun _ _ h => h.fillLine

protected theorem State.KeepsForm.takeValue {t' u v : Nat} (h : s.KeepsForm t) : s.KeepsForm (takeValue t' u v t) :=
  h.updUcore

protected theorem State.KeepsForm.giveLoad {t' u a width : Nat} {kind : AccKind} {f : List (Option Nat)} (h : s.KeepsForm t) :
    s.KeepsForm (giveLoad t' u a width kind f t) :=
  .ite h.takeValue.updUcore h.takeValue

protected theorem State.KeepsForm.loadLocal {t' u a width : Nat} {l : LoadOf} {f : List (Option Nat)} (h : s.KeepsForm t) :
    s.KeepsForm (loadLocal t' u a width l f t) := by
  unfold loadLocal
  dsimp only
  split
  · exact (h.foldl fun _ _ h => h.demandShared).needLines
  · exact (((h.foldl fun _ _ h => h.demandShared).needLines).forgetBad).takeTrap
  · refine .ite ?_ ?_
    · exact (((h.foldl fun _ _ h => h.demandShared).needLines).giveLoad).updUcore
    · exact (((h.foldl fun _ _ h => h.demandShared).needLines).giveLoad).updUcore

protected theorem State.KeepsForm.loadFar {t' u a width : Nat} {kind : AccKind} {f : List (Option Nat)} (h : s.KeepsForm t) :
    s.KeepsForm (loadFar t' u a width kind f t) := by
  unfold loadFar
  split
  · exact h.requestLines.giveLoad
  · exact h.requestLines.advanceTo.takeTrap
  · exact h.takeTrap

protected theorem State.KeepsForm.loadMemory {t' u a width : Nat} {l : LoadOf} {f : List (Option Nat)} (h : s.KeepsForm t) :
    s.KeepsForm (loadMemory t' u a width l f t) := by
  unfold loadMemory
  dsimp only
  split
  · exact .ite h.takeTrap (.ite h.giveLoad h.loadLocal)
  · exact .ite h.takeTrap (.ite h.giveLoad h.loadLocal)
  · exact h.takeTrap
  · exact .ite h.giveLoad h.loadFar

protected theorem State.KeepsForm.execHostLoad {t' u a width : Nat} {l : LoadOf} (h : s.KeepsForm t) :
    s.GoesOn (execHostLoad t' u a width l t) := by
  unfold execHostLoad
  refine .ite ?_ ?_
  · exact h.next
  · refine .ite ?_ ?_
    · exact h.takeTrap.next
    · split
      · exact .ite h.next h.readShutter.takeValue.next
      · exact .ite h.loadMemory.next h.next
      · exact .ite h.next h.loadMemory.next

protected theorem State.KeepsForm.landPart {t' u : Nat} {x : UStore} (h : s.KeepsForm t) :
    s.KeepsForm (landPart t' u x t) := by
  unfold landPart
  dsimp only
  split
  · exact h.busError
  · split
    · exact .foldl (.ite h.fltPost (h.writeMem ‹_›)) fun _ _ h => h.takeFill
    · exact (((h.writeMem ‹_›).noteWrites).demandShared).foldl fun _ _ h => h.takeFill
    · exact .ite (((h.writeMem ‹_›).noteWrites).demandShared) (h.writeMem ‹_›)
    · exact (h.writeMem ‹_›).updPort
    · exact (h.writeMem ‹_›)

protected theorem State.KeepsForm.landStore {t' u : Nat} {x : UStore} (h : s.KeepsForm t) :
    s.KeepsForm (landStore t' u x t) := by
  unfold landStore
  dsimp only
  split
  · exact .ite h.landPart h.landPart.landPart
  · exact h.landPart

protected theorem State.KeepsForm.landAmo {t' u a width : Nat} {op : AmoOp} {v : Nat} (h : s.KeepsForm t) :
    s.KeepsForm (landAmo t' u a width op v t) :=
  h.landStore.takeValue

protected theorem State.KeepsForm.landSc {t' u a width v : Nat} (h : s.KeepsForm t) : s.KeepsForm (landSc t' u a width v t) :=
  .ite h.landStore.updUcore.takeValue h.updUcore.takeValue

protected theorem State.KeepsForm.atomicStore {i j a w : Nat} {f : State → State} (h : s.KeepsForm t)
    (hf : ∀ u, s.KeepsForm u → s.KeepsForm (f u)) : s.KeepsForm (atomicStore i j a w f t) := by
  refine .ite h ?_
  have hl := (h.foldl (l := t.missing i j (linesOf a w)) (g := fun s l => s.demandShared l 64)
      fun _ _ h => h.demandShared).needLines
    (t' := i) (u := j) (ls := linesOf a w) (errs := 0)
  dsimp only
  split
  · exact hl
  · exact hl.forgetBad.takeTrap
  · exact .ite hl (hf _ hl)

protected theorem State.KeepsForm.commitStore {t' u a width v : Nat} {nc : Bool} (h : s.KeepsForm t) :
    s.KeepsForm (commitStore t' u a width v nc t) :=
  .ite h h.updUcore

protected theorem State.KeepsForm.execHostStore {t' u a width : Nat} {k : StoreOf} {value : Word} (h : s.KeepsForm t) :
    s.GoesOn (execHostStore t' u a width k value t) := by
  unfold execHostStore
  refine .ite ?_ ?_
  · exact h.next
  · refine .ite ?_ ?_
    · exact h.takeTrap.next
    · split
      · exact (h.atomicStore fun _ h => h.landAmo).next
      · exact (h.atomicStore fun _ h => h.landSc).next
      · exact h.commitStore.next

protected theorem State.KeepsForm.popStore {t' u : Nat} (h : s.KeepsForm t) : s.KeepsForm (popStore t' u t) :=
  h.updUcore

protected theorem State.KeepsForm.drainLocal {t' u : Nat} {x : UStore} (h : s.KeepsForm t) :
    s.KeepsForm (drainLocal t' u x t) := by
  unfold drainLocal
  refine .ite ?_ ?_
  · exact h.popStore.landStore
  · dsimp only
    split
    · exact h.needLines
    · exact h.needLines.popStore.forgetBad.busError
    · exact h.needLines.popStore.landStore

protected theorem State.KeepsForm.execStoreDrain {t' u : Nat} (h : s.KeepsForm t) : s.GoesOn (execStoreDrain t' u t) := by
  unfold execStoreDrain
  dsimp only
  split
  · exact h.next
  · refine .ite ?_ ?_
    · split
      · exact h.popStore.busError.next
      · exact .ite h.popStore.requestWrites.updUcore.next h.next
    · refine .ite ?_ ?_
      · exact h.next
      · split
        · exact .next (.ite h.popStore.narrowStore h.popStore.writeShutter)
        · exact .next (.ite h h.drainLocal)

protected theorem State.KeepsForm.popTracked {t' u : Nat} (h : s.KeepsForm t) : s.KeepsForm (popTracked t' u t) :=
  (h.foldl fun _ _ h => h.foldl fun _ _ h => h.unkeep).updUcore

protected theorem State.KeepsForm.expireStore {t' u : Nat} {x : UStore} (h : s.KeepsForm t) :
    s.KeepsForm (expireStore t' u x t) :=
  h.advanceTo.popTracked.busError

protected theorem State.KeepsForm.execWriteAck {t' u k : Nat} (h : s.KeepsForm t) : s.GoesOn (execWriteAck t' u k t) := by
  unfold execWriteAck
  split
  · exact h.next
  · exact .ite h.next (.ite h.expireStore.next (.ite h.next h.popTracked.landStore.next))

protected theorem State.KeepsForm.execFence {t' u : Nat} {predW predO : Bool} (h : s.KeepsForm t) :
    s.GoesOn (execFence t' u predW predO t) :=
  .ite h.next h.updUcore.next

protected theorem State.KeepsForm.timeoutRow {t' c pos : Nat} (h : s.KeepsForm t) : s.KeepsForm (timeoutRow t' c pos t) := by
  unfold timeoutRow
  dsimp only
  split
  · exact h
  · split
    · split
      · exact h
      · split
        · exact h
        · split
          · exact h
          · exact .ite h h.advanceTo.of.failMem.closeGather.settleCore
    · exact h

protected theorem State.KeepsForm.timeoutAcc {n : Nat} (h : s.KeepsForm t) : s.KeepsForm (timeoutAcc n t) := by
  unfold timeoutAcc
  split
  · exact h
  · refine .ite ?_ ?_
    · exact h
    · exact .ackAccumulate (.ite h.advanceTo.plain.unkeep.dropOneRead.draw.poke h.advanceTo.plain.unkeep.dropOneRead.draw)

protected theorem State.KeepsForm.timeoutCommand {id : CmdId} {seg a since : Nat} (h : s.KeepsForm t) :
    s.KeepsForm (timeoutCommand id seg a since t) := by
  unfold timeoutCommand
  split
  · exact h
  · refine .ite ?_ ?_
    · exact h
    · refine .ite ?_ ?_
      · split
        · exact h.advanceTo.faultRecord.failCommand
        · exact h.advanceTo
      · exact h.advanceTo.accessFault.finishWith

protected theorem State.KeepsForm.execCompletionTimeout {who : TimeoutOf} (h : s.KeepsForm t) :
    s.GoesOn (execCompletionTimeout who t) := by
  unfold execCompletionTimeout
  split
  · split
    · exact h.next
    · exact .ite h.next h.expireStore.next
  · exact h.timeoutRow.next
  · exact h.timeoutAcc.next
  · exact h.timeoutCommand.next

protected theorem State.KeepsForm.execUberrInfoWrite {t' u : Nat} {o : CsrOp} (h : s.KeepsForm t) :
    s.GoesOn (execUberrInfoWrite t' u o t) := by
  unfold execUberrInfoWrite
  refine .ite ?_ ?_
  · exact h.next
  · split
    · exact .next (.ite h h.updUcore)
    · refine .next ?_
      split
      · exact h.takeValue
      · exact h
    · exact h.updUcore.next
    · exact h.updUcore.next

protected theorem State.KeepsForm.execUlturMachineCheck {t' u : Nat} (h : s.KeepsForm t) :
    s.GoesOn (execUlturMachineCheck t' u t) :=
  .ite h.next (((h.draw.appendRepair.updTile.withCap fun _ h => h.updUcore).fltPost).next)

/-! ### Machine/Reset -/

protected theorem State.KeepsForm.drainStores {i j : Nat} : ∀ {n : Nat} {t : State}, s.KeepsForm t →
    s.KeepsForm (drainStores i j n t)
  | 0, _, h => h
  | n + 1, t, h => by
    unfold Machine.drainStores
    split
    · exact .ite h.expireStore.drainStores h.execWriteAck.after.drainStores
    · exact .ite h h.execStoreDrain.after.drainStores

protected theorem State.KeepsForm.drainTile {t' : Nat} (h : s.KeepsForm t) : s.KeepsForm (drainTile t' t) :=
  h.foldl fun _ _ h => h.drainStores

protected theorem State.KeepsForm.resetCore {t' c : Nat} (h : s.KeepsForm t) : s.KeepsForm (resetCore t' c t) :=
  h.updCore

protected theorem State.KeepsForm.resetSill {n : Nat} (h : s.KeepsForm t) : s.KeepsForm (resetSill n t) :=
  (h.foldl fun _ _ h => h.demoteNow).releaseSill

protected theorem State.KeepsForm.resetTile {t' : Nat} (h : s.KeepsForm t) : s.KeepsForm (resetTile t' t) :=
  ((h.resetSill.foldl fun _ _ h => h.updCore).applyLimit).foldl fun _ _ h => h.updUcore

protected theorem State.KeepsForm.discardOthers {id : CmdId} {p : Nat → Bool} (h : s.KeepsForm t) :
    s.KeepsForm (discardOthers id p t) :=
  h.discardIf

protected theorem State.KeepsForm.writeRecords (h : s.KeepsForm t) : s.KeepsForm (writeRecords t) :=
  h.foldl fun _ _ h => h.foldl fun _ _ h => h.finishEntry

protected theorem State.KeepsForm.quiesceScope {id : CmdId} {kind index : Nat} (h : s.KeepsForm t) :
    s.KeepsForm (quiesceScope id kind index t) := by
  unfold quiesceScope
  split
  · exact h.discardCore
  · exact h.discardTile.drainTile
  · exact h.discardOthers.writeRecords.foldl fun _ _ h => h.drainTile
  · exact h.discardOthers

protected theorem State.KeepsForm.stopSelftest (h : s.KeepsForm t) : s.KeepsForm (stopSelftest t) := by
  unfold stopSelftest
  split
  · exact h.discard
  · exact h

protected theorem State.KeepsForm.resetDone {scope : Nat} (h : s.KeepsForm t) : s.KeepsForm (resetDone scope t) :=
  h.fltPost

protected theorem State.KeepsForm.resetScope {scope kind index : Nat} (h : s.KeepsForm t) :
    s.KeepsForm (resetScope scope kind index t) := by
  unfold resetScope
  split
  · exact h.resetCore.resetDone
  · exact h.resetTile.resetDone
  · exact h.restart
  · exact h.terminateIf.resetDone

protected theorem State.KeepsForm.beginReset {id : CmdId} {kind index : Nat} (h : s.KeepsForm t) :
    s.KeepsForm (beginReset id kind index t) :=
  h.stopSelftest.quiesceScope.updEntry

protected theorem State.KeepsForm.execSysReset {id : CmdId} (h : s.KeepsForm t) : s.GoesOn (execSysReset id t) := by
  unfold execSysReset
  split
  · exact h.next
  · refine .ite ?_ ?_
    · exact h.next
    · refine .ite ?_ ?_
      · exact h.finishWith.next
      · refine .ite ?_ ?_
        · exact h.beginReset.next
        · refine .ite ?_ ?_
          · exact h.beginReset.next
          · refine .next ?_
            refine .ite ?_ ?_
            · exact h.beginReset.finishWith.finishEntry.resetScope
            · exact h.beginReset.finishWith.finishEntry.resetDone

protected theorem State.KeepsForm.exclusiveWork {d : CtxDesc} {tests : Nat} (h : s.KeepsForm t) :
    s.KeepsForm (exclusiveWork d tests t) := by
  unfold exclusiveWork
  extract_lets wide hit edges s1 s2
  have hs2 : s.KeepsForm s2 := by
    refine .ite ?_ ?_
    · exact .foldl (.ite (h.foldl fun _ _ h => h.demoteNow) h) fun _ _ h => h.hingeCtrlWrite.after.execHingeRetrainDone.after
    · exact .ite (h.foldl fun _ _ h => h.demoteNow) h
  exact .ite (hs2.foldl fun _ _ h => h.execLinkRetrain.after) hs2

protected theorem State.KeepsForm.memberCounts : ∀ {ms : List Nat} {c : Nat × Nat} {t : State}, s.KeepsForm t →
    s.KeepsForm (memberCounts ms c t).2
  | [], _, _, h => h
  | _ :: ms, (_, _), _, h => State.KeepsForm.memberCounts (ms := ms) h.draw.draw

protected theorem State.KeepsForm.runTests {id : CmdId} {d : CtxDesc} {excl : Bool} {tests : Nat}
    {rs : List TestResult} (h : s.KeepsForm t) :
    s.KeepsForm (runTests id d excl tests rs t) :=
  .finishWith (.memberCounts (.foldl (.ite h.exclusiveWork h) fun _ _ h => h.takeResult))

protected theorem State.KeepsForm.execSysSelftest {id : CmdId} {rs : List TestResult} (h : s.KeepsForm t) :
    s.GoesOn (execSysSelftest id rs t) := by
  unfold execSysSelftest
  split
  · exact h.next
  · exact .ite h.next (.ite (.ite h.next h.plain.next) h.runTests.next)

protected theorem State.KeepsForm.execSelftestDrainTimeout (h : s.KeepsForm t) : s.GoesOn (execSelftestDrainTimeout t) := by
  unfold execSelftestDrainTimeout
  split
  · exact h.next
  · exact h.advanceTo.discardOthers.next

end Sys2Proof.Machine
end

section
/-! SUPPORT. The rules of every command. -/

set_option Elab.async false -- the rules are too many to elaborate side by side

namespace Sys2Proof.Machine

variable {s t u : State}

/-! ### Machine/Dispatch -/

protected theorem State.KeepsForm.exec {i : Instr} (h : s.KeepsForm t) : s.GoesOn (exec i t) := by
  unfold exec
  split
  · exact h.execEnable
  · exact h.execDisable
  · exact h.execTerminate
  · exact h.execDoorbell
  · exact h.execPacketFetch
  · exact h.execSlotReread
  · exact h.execDescBlockReread
  · exact h.execProgImageReread
  · exact h.execReleaseTime
  · exact h.execCommandDispatch
  · exact h.execPreemptRelease
  · exact h.execInstanceStart
  · exact h.execInstanceEnd
  · exact h.execTileOpComplete
  · exact h.execProgTokenWaitSatisfied
  · exact h.execProgTokenHoldTimeout
  · exact h.execTileStepWait
  · exact h.execCommandFinish
  · exact h.execTokenWaitTimeout
  · exact h.execDbCqHeadWrite
  · exact h.execDbCqArmWrite
  · exact h.execRegisterWrite
  · exact h.execRegisterReadClear
  · exact h.execShutterNarrowStore
  · exact h.execSysNop
  · exact h.execSysTokenSet
  · exact h.execSysSelftest
  · exact h.execSelftestDrainTimeout
  · exact h.execSysReset
  · exact h.execSegSync
  · exact h.execProgRun
  · exact h.execProgNop
  · exact h.execProgLoop
  · exact h.execProgEndloop
  · exact h.execProgDrain
  · exact h.execMovLoad
  · exact h.execMovStore
  · exact h.execMovCopy
  · exact h.execMovLs
  · exact h.execMovZero
  · exact h.execMxWload
  · exact h.execMxStream
  · exact h.execStreamSwap
  · exact h.execVxEw
  · exact h.execVxFunc
  · exact h.execVxCmp
  · exact h.execVxSelect
  · exact h.execVxCvt
  · exact h.execVxReduce
  · exact h.execVxNorm
  · exact h.execVxSoftmax
  · exact h.execVxAttarSum
  · exact h.execVxAttarFrom
  · exact h.execVxAttarRound
  · exact h.execGaGather
  · exact h.execGaBag
  · exact h.execGaScatterAdd
  · exact h.execGaScatter
  · exact h.execRowArrival
  · exact h.execRunAheadRead
  · exact h.execRemoteGatherRequest
  · exact h.execAccumulateApply
  · exact h.execPaneCheckFault
  · exact h.execLouvreSlot
  · exact h.execIssueLimitStep
  · exact h.execKeepWarmGap
  · exact h.execCoreCold
  · exact h.execRedAllreduce
  · exact h.execRedReduceScatter
  · exact h.execRedAllgather
  · exact h.execRedAlltoall
  · exact h.execRedBarrier
  · exact h.execUnitFence
  · exact h.execTierLayerSchedule
  · exact h.execTierQuota
  · exact h.execTierPin
  · exact h.execTierUnpin
  · exact h.execTierEvict
  · exact h.execTierPrefetch
  · exact h.execHeatDecay
  · exact h.execTierScan
  · exact h.execMigrationCopy
  · exact h.execMigrationFreeze
  · exact h.execStaleEpochForward
  · exact h.execDirectPageRelease
  · exact h.execHbmTempRead
  · exact h.execHbmReadServe
  · exact h.execReadAgePromote
  · exact h.execWriteQueueEnter
  · exact h.execScrubRead
  · exact h.execGranuleMove
  · exact h.execRecalibration
  · exact h.execRecalibrationDone
  · exact h.execMapoutGranuleStep
  · exact h.execHostLoad
  · exact h.execHostStore
  · exact h.execStoreDrain
  · exact h.execWriteAck
  · exact h.execFence
  · exact h.execCompletionTimeout
  · exact h.execUberrInfoWrite
  · exact h.execFlitReceive
  · exact h.execNakReceive
  · exact h.execLinkSilenceTimeout
  · exact h.execLinkTrainingRetry
  · exact h.execLinkTrainingDone
  · exact h.execLinkRetrain
  · exact h.execLinkEnable
  · exact h.execWavelengthFailure
  · exact h.execLaserDrain
  · exact h.execLaserDrained
  · exact h.execLaserModuleInsert
  · exact h.execLaserModuleRemove
  · exact h.execMessageForward
  · exact h.execRemoteRequest
  · exact h.execGangSend
  · exact h.execAssign
  · exact h.execUnassign
  · exact h.execRoute
  · exact h.execForm
  · exact h.execFormEnd
  · exact h.execJoin
  · exact h.execLeave
  · exact h.execLeaveEffect
  · exact h.execDissolve
  · exact h.execQuery
  · exact h.execReply
  · exact h.execDown
  · exact h.execReady
  · exact h.execTimeMark
  · exact h.execTimeSource
  · exact h.execPpsEdge
  · exact h.execRef10mLoss
  · exact h.execPpsMissing
  · exact h.execPtpSync
  · exact h.execPtpSyncLoss
  · exact h.execPtpAnnounce
  · exact h.execPtmDialogue
  · exact h.execHoldoverExpire
  · exact h.execTimEpochWrite
  · exact h.execPpsOutPulse
  · exact h.execHostTlp
  · exact h.execHostDown
  · exact h.execHostLinkLossTimeout
  · exact h.execVfFlr
  · exact h.execPcieEvtWrite
  · exact h.execLaneFailure
  · exact h.execHingeRetrain
  · exact h.execHingeCtrlRetrain
  · exact h.execPowerMeasure
  · exact h.execPowerControl
  · exact h.execPowerSecond
  · exact h.execPwrLimit
  · exact h.execPwrIdle
  · exact h.execPwrBmcCapWrite
  · exact h.execThermalRead
  · exact h.execCurrentGuardTrip
  · exact h.execCurrentGuardEnd
  · exact h.execDomainPowerGood
  · exact h.execDomainLost
  · exact h.execPkgReset
  · exact h.execStartStage
  · exact h.execStartStageTimeout
  · exact h.execStartRetry
  · exact h.execWatchdog
  · exact h.execStewardRestart
  · exact h.execClear
  · exact h.execRestart
  · exact h.execFwUpdateStart
  · exact h.execFwUpdateDone
  · exact h.execCommit
  · exact h.execMrExtend
  · exact h.execSecAttest
  · exact h.execSecCert
  · exact h.execFltHeadWrite
  · exact h.execI3cPrivateWrite
  · exact h.execI3cPrivateRead
  · exact h.execEntdaa
  · exact h.execSetdasa
  · exact h.execSetnewda
  · exact h.execBypass
  · exact h.execIdcode
  · exact h.execSamplePreload
  · exact h.execExtest
  · exact h.execExtestPulse
  · exact h.execExtestTrain
  · exact h.execShardMapReread
  · exact h.execHingeRetrainDone
  · exact h.execPcieLinkUp
  · exact h.execUlturMachineCheck
  · exact h.execDegradingErrorRate

end Sys2Proof.Machine
end

section
/-! THEOREMS. Every command answers; none touches the queue or the variant; every step keeps the canonical form. -/

namespace Sys2Proof.Machine

theorem exec_goesOn (i : Instr) (s : State) : s.GoesOn (exec i s) := (State.KeepsForm.refl s).exec

/-- What a command leaves keeps the form. -/
theorem exec_keepsForm {i : Instr} {s t : State} (h : exec i s = .next t) : s.KeepsForm t := by
  obtain ⟨u, hu, hk⟩ := exec_goesOn i s
  cases hu.symm.trans h
  exact hk

/-- Settles O3: every command goes on (`exec_goesOn`). -/
theorem everyCommandAnswers : Obligations.EveryCommandAnswers := by
  intro i s
  obtain ⟨t, ht, -⟩ := exec_goesOn i s
  exact ⟨t, ht⟩

/-- Settles O4: each operation of the model has a rule that it keeps the form, the queue and the variant with it, and a command is a
chain of operations. -/
theorem commandsKeepQueueAndVariant : Obligations.CommandsKeepQueueAndVariant :=
  fun _ _ _ h => ⟨(exec_keepsForm h).pending, (exec_keepsForm h).variant⟩

/-- Settles O5: a step is one idle cycle or a command on the queue's rest, and both keep the form. -/
theorem stepKeepsCanonicalForm : Obligations.StepKeepsCanonicalForm := by
  intro s t hs h
  unfold step at h
  split at h
  · cases h
    exact (State.KeepsForm.refl s).tick.canonical hs
  · exact (exec_keepsForm h).canonical { hs with }

/-- Settles O1: `step` reads the queue first. -/
theorem stepRunsFrontCommand : Obligations.StepRunsFrontCommand := by
  intro c rest s h
  unfold step
  rw [h]

/-- Where no correction is pending, none is slewed. -/
theorem slewed_zero (ns : Nat) : slewed 0 ns = 0 := by
  have hm : (0 : Int) ≤ ((ns / 2000 : Nat) : Int) := Int.natCast_nonneg _
  rw [slewed, if_pos (Int.le_refl _), Int.min_eq_left hm]

/-- Settles O2: a cycle adds 10 to the thirteenths, and 13 of them are one nanosecond. -/
theorem idleStepIsOneCycle : Obligations.IdleStepIsOneCycle := by
  intro s h
  refine ⟨tick s, by rw [step, h], rfl, rfl, fun hslew hsub hnow => ?_⟩
  have hns : (s.clk.sub + 10) / 13 ≤ 1 := by omega
  have hclk : (tick s).clk.now = s.clk.now + (s.clk.sub + 10) / 13 := by
    simp only [tick, Clock.advance, hslew, slewed_zero]
    rw [Int.add_zero, Int.toNat_natCast, Nat.mod_eq_of_lt (by omega)]
  have hrest : (tick s).clk.sub = (s.clk.sub + 10) % 13 := rfl
  refine ⟨?_, ?_, ?_⟩
  · rw [hclk, hrest]
    omega
  · rw [hrest]
    omega
  · simp [tick, Clock.advance, Clock.slewFor, hslew, slewed_zero]

/-- Settles O6: every table of the state after reset is empty, and the eight measurement registers are there. -/
theorem resetIsCanonical : Obligations.ResetIsCanonical := by
  constructor <;> rfl

/-- Settles O7: the values that the state's fields begin with. -/
theorem resetRegisters : Obligations.ResetRegisters :=
  ⟨rfl, rfl, rfl, rfl, rfl, rfl, rfl, rfl, rfl, rfl, rfl, fun _ => rfl, fun _ _ => rfl, rfl⟩

end Sys2Proof.Machine
end

section
/-! SUPPORT. What a decay reads in a table of pages, what a pushed op leaves of the engine's turn, and rows under a limit. -/

namespace Sys2Proof.Machine

/-! ### Tables -/

theorem Table.keys_ge {α : Type} [DecidableEq α] (d : α) : ∀ {lo : Nat} {t : Table α}, Table.wfFrom d lo t = true →
    ∀ e ∈ t, lo ≤ e.1
  | _, [], _, e, he => nomatch he
  | lo, (k, v) :: t, h, e, he => by
    simp only [Table.wfFrom, Bool.and_eq_true, decide_eq_true_eq] at h
    obtain ⟨⟨hk, -⟩, ht⟩ := h
    rcases List.mem_cons.mp he with rfl | he
    · exact hk
    · exact Nat.le_trans (by omega) (Table.keys_ge d ht e he)

theorem Table.keys_nodup {α : Type} [DecidableEq α] (d : α) : ∀ {lo : Nat} {t : Table α}, Table.wfFrom d lo t = true →
    (t.map (·.1)).Nodup
  | _, [], _ => List.nodup_nil
  | lo, (k, v) :: t, h => by
    simp only [Table.wfFrom, Bool.and_eq_true, decide_eq_true_eq] at h
    rw [List.map_cons, List.nodup_cons]
    refine ⟨fun hk => ?_, Table.keys_nodup d h.2⟩
    obtain ⟨e, he, hek⟩ := List.mem_map.mp hk
    have hge := Table.keys_ge d h.2 e he
    omega

theorem Table.get_of_not_mem {α : Type} (d : α) {i : Nat} : ∀ {t : Table α}, i ∉ t.map (·.1) → Table.get d t i = d
  | [], _ => rfl
  | (k, v) :: t, h => by
    rw [List.map_cons, List.mem_cons, not_or] at h
    rw [Table.get, if_neg (Ne.symm h.1), Table.get_of_not_mem d h.2]

/-! ### The decay of heat (09 R299) -/

/-- A change of every listed page, each listed once. -/
theorem State.page_foldl_updPage (f : TierPage → TierPage) (p : Nat) : ∀ {l : List (Nat × TierPage)} {s : State},
    Table.wf ({} : TierPage) s.pages = true → (l.map (·.1)).Nodup →
    (l.foldl (fun s e => s.updPage e.1 f) s).page p = if p ∈ l.map (·.1) then f (s.page p) else s.page p
  | [], _, _, _ => rfl
  | e :: l, s, hs, hl => by
    rw [List.map_cons, List.nodup_cons] at hl
    have hrest := State.page_foldl_updPage f p (s := s.updPage e.1 f) (Table.wf_upd _ hs ..) hl.2
    rw [List.foldl_cons, hrest]
    by_cases hp : p = e.1
    · subst hp
      rw [if_neg hl.1, if_pos (by simp), State.page_updPage hs]
    · simp only [List.map_cons, List.mem_cons, hp, false_or, State.page_updPage_other hs hp]

/-- The fold touches the pages alone. -/
theorem State.foldl_updPage_frame (f : TierPage → TierPage) (l : List (Nat × TierPage)) (s : State) :
    ∃ pages, l.foldl (fun s e => s.updPage e.1 f) s = { s with pages } := by
  induction l generalizing s with
  | nil => exact ⟨_, rfl⟩
  | cons e l ih =>
    obtain ⟨pages, h⟩ := ih (s.updPage e.1 f)
    exact ⟨pages, h⟩

/-! ### An engine's turn behind a pushed op (04 R139) -/

theorem Inst.unstarted_push {i j : Inst} {o : OpRec} {eng : Engine} (hj : j.ops = i.ops ++ [o]) (hu : (i.unstarted eng).isSome = true) :
    j.unstarted eng = i.unstarted eng := by
  unfold Inst.unstarted at hu ⊢
  rw [hj, List.find?_append, Option.or_of_isSome hu]

theorem Inst.settled_push {i j : Inst} {o : OpRec} {eng : Engine} (hj : j.ops = i.ops ++ [o]) (ho : o.started = false) :
    j.settled eng = i.settled eng := by
  simp [Inst.settled, hj, ho]

/-- An op that has not started gives no other turn to an engine that has an op waiting. -/
theorem Inst.due_push {i j : Inst} {o : OpRec} {eng : Engine} {early : Bool} (hj : j.ops = i.ops ++ [o]) (ho : o.started = false)
    (hu : (i.unstarted eng).isSome = true) : j.due eng early = i.due eng early := by
  have hfind : j.ops.find? (fun o => o.eng == eng && o.goesOn) = i.ops.find? (fun o => o.eng == eng && o.goesOn) := by
    simp [hj, List.find?_append, OpRec.goesOn, ho]
  simp only [Inst.due, hfind, Inst.unstarted_push hj hu, Inst.settled_push hj ho]

/-- No op is ready to start. -/
theorem tryStart_of_not_ready {op : Nat} {m : OpImpl} {t c : Nat} {i : Inst} {e : Entry} {s : State} (hrun : (s.core t c).run = some i)
    (hentry : s.entry? i.cmd = some e) (hready : m.ready op (s.core t c) i e.image.words = none) : tryStart op m t c s = s := by
  simp only [tryStart, hrun, hentry, hready]

/-! ### Rows under an issue limit (06 R217) -/

/-- The pattern of a limit repeats after 64 cycles. -/
theorem rows_mod (l c : Nat) : c % 64 * l / 64 < (c % 64 + 1) * l / 64 ↔ c * l / 64 < (c + 1) * l / 64 := by
  have h0 : c * l = c % 64 * l + 64 * (c / 64 * l) := by
    rw [← Nat.mul_assoc, ← Nat.add_mul, Nat.mod_add_div]
  have h1 : (c + 1) * l = (c % 64 + 1) * l + 64 * (c / 64 * l) := by
    rw [← Nat.mul_assoc, ← Nat.add_mul, Nat.add_right_comm, Nat.mod_add_div]
  rw [h0, h1, Nat.add_mul_div_left _ _ (by decide), Nat.add_mul_div_left _ _ (by decide)]
  omega

/-- A cycle permits one row or none. -/
theorem rows_step {l : Nat} (hl : l ≤ 64) (c : Nat) :
    (c + 1) * l / 64 = c * l / 64 + if c * l / 64 < (c + 1) * l / 64 then 1 else 0 := by
  have h : (c + 1) * l = c * l + l := Nat.succ_mul c l
  rw [h]
  split <;> omega

theorem rows_count {l : Nat} (hl : l ≤ 64) (a n : Nat) : (a + n) * l / 64 = a * l / 64 +
    ((List.range n).filter (fun i => decide ((a + i) % 64 * l / 64 < ((a + i) % 64 + 1) * l / 64))).length := by
  induction n with
  | zero => rfl
  | succ n ih =>
    have hlast : ([n].filter (fun i => decide ((a + i) % 64 * l / 64 < ((a + i) % 64 + 1) * l / 64))).length =
        if (a + n) * l / 64 < (a + n + 1) * l / 64 then 1 else 0 := by
      simp only [List.filter_cons, List.filter_nil, rows_mod, decide_eq_true_eq]
      by_cases hc : (a + n) * l / 64 < (a + n + 1) * l / 64 <;> simp [hc]
    rw [← Nat.add_assoc, rows_step hl (a + n), List.range_succ, List.filter_append, List.length_append, hlast]
    omega

end Sys2Proof.Machine
end

section
/-! THEOREMS. Small laws of the Ultur cores, the tier, the stacks, the sequencer and the panes. -/

namespace Sys2Proof.Machine

/-- Settles O35: `busError` writes one core, by whether an error is already kept and whether the interrupt is enabled. -/
theorem busErrorKeepsFirst : Obligations.BusErrorKeepsFirst := by
  intro t u a k s hs
  refine ⟨fun hv => ?_, fun hv => ?_, fun t' u' h => State.ucore_updUcore_other hs.ucores h _⟩
  · rw [busError, State.ucore_updUcore hs.ucores]
    cases hm : (s.ucore t u).mie16 <;> simp [hv, hm]
  · rw [busError, State.ucore_updUcore hs.ucores]
    cases hm : (s.ucore t u).mie16 <;> simp [hv, hm]

/-- Settles O28: the fold halves each listed page once, and a page that is not listed has no heat. -/
theorem heatDecayHalvesEveryPage : Obligations.HeatDecayHalvesEveryPage := by
  intro s t hs h
  change execHeatDecay s = .next t at h
  unfold execHeatDecay at h
  extract_lets u at h
  have hu : Table.wf ({} : TierPage) u.pages = true := hs.pages
  cases h
  refine ⟨fun p => ?_, ?_⟩
  · rw [State.page_foldl_updPage _ p hu (Table.keys_nodup _ hu)]
    split
    · rfl
    · rename_i hp
      rw [show u.page p = {} from Table.get_of_not_mem _ hp, show s.page p = {} from Table.get_of_not_mem _ hp]
      rfl
  · obtain ⟨pages, hf⟩ := State.foldl_updPage_frame (fun g => { g with heat := g.heat / 2 }) u.pages u
    rw [hf]
    rfl

/-- Settles O31: the code that a rise gives and the code that a fall allows, by temperature. -/
theorem refreshHysteresis : Obligations.RefreshHysteresis := by
  intro n temp s t hs hin htemp hr h
  change execHbmTempRead n temp s = .next t at h
  have hup : refreshUp temp ≠ 3 := by
    unfold refreshUp
    (repeat' split) <;> omega
  simp only [execHbmTempRead, hin, Bool.not_true, Bool.false_eq_true, if_false, if_neg hup] at h
  cases h
  rw [State.stack_updStack hs.hbm]
  dsimp only [refreshUp, refreshDown]
  refine ⟨?_, ?_, ?_, ?_, ?_⟩ <;> intros <;> (repeat' split) <;> omega

/-- Settles O21: the pushed op has not started, and the engine's turn stays with the op that waits (`Inst.due_push`). -/
theorem issueOnlyQueues : Obligations.IssueOnlyQueues := by
  intro op m t c i e w s hok hs hw hu hr
  let o : OpRec := Issue.op ⟨s.core t c, i, e, w⟩ m.eng
  let p := m.plan (Exec.of s (s.core t c) i t c e o)
  let o' : OpRec := { o with reads := p.1, writes := p.2 }
  let j : Inst := { i with pc := i.pc + 1, ops := i.ops ++ [o'], issued := setAt i.issued (engineNum m.eng) o'.num
                           taken := false, holdSince := none }
  have hcore : (s.setCore t c { s.core t c with run := some j }).core t c = { s.core t c with run := some j } :=
    State.core_setCore hs.cores ..
  have hready : m.ready op { s.core t c with run := some j } j e.image.words = none := by
    have hdue : j.due m.eng m.early = i.due m.eng m.early := Inst.due_push rfl rfl hu
    rw [← hr]
    simp only [OpImpl.ready, hdue, hok]
  exact ⟨o', tryStart_of_not_ready (congrArg Core.run hcore) hw.entry (hcore.symm ▸ hready), rfl, rfl, rfl, rfl, rfl⟩

/-- Settles O55: each cycle permits one row or none, and the pattern repeats after 64 cycles. -/
theorem rowsUnderLimit : Obligations.RowsUnderLimit := by
  intro l a b hl hab
  have h := rows_count hl a (b - a)
  rw [Nat.add_sub_cancel' hab] at h
  rw [rowsUnder, h, Nat.add_sub_cancel_left]

end Sys2Proof.Machine
end

section
/-! SUPPORT. A write of all bytes of a register, and how the two registers of the FLT message are reached. -/

namespace Sys2Proof.Machine

/-- Under a full mask the old value leaves nothing behind. -/
theorem merge_full_mod (old v : Nat) {n : Nat} (hn : n ≤ 64) : merge old (2 ^ 64 - 1) v % 2 ^ n = v % 2 ^ n := by
  apply Nat.eq_of_testBit_eq
  intro i
  rw [Nat.testBit_mod_two_pow, Nat.testBit_mod_two_pow]
  by_cases hi : i < n
  · have hbit : Nat.testBit (2 ^ 64 - 1) i = true := by
      rw [Nat.testBit_two_pow_sub_one]
      exact decide_eq_true (by omega)
    simp only [merge, Nat.testBit_or, Nat.testBit_xor, Nat.testBit_and, hbit, Bool.and_true, Bool.xor_self, Bool.false_or]
  · simp [hi]

/-- A field from bit 0 that takes any value, after a write of all bytes. -/
theorem rwField_full (old v : Nat) {hi : Nat} (hn : hi < 64) : rwField old hi 0 (2 ^ 64 - 1) v anyValue = v % 2 ^ (hi + 1) := by
  have h := merge_full_mod old v (n := hi + 1) (by omega)
  simpa [rwField, anyValue, bits] using h

/-- A core's aligned write of 8 bytes to an FLT register. -/
theorem exec_registerWrite_flt {o k : Nat} {v : Word} {s : State} (hs : s.start.phase = .ready) (ho : o % 8 = 0)
    (hk : shutterAt o = .flt k) : exec (.registerWrite .core o 8 v) s = .next (fltWrite k (2 ^ 64 - 1) v.toNat s) := by
  have ho8 : o / 8 * 8 = o := by omega
  have hv : v.toNat % 18446744073709551616 = v.toNat := Nat.mod_eq_of_lt v.isLt
  change execRegisterWrite .core o 8 v s = _
  simp [execRegisterWrite, pathOpen, hs, ho, writeShutter, mayWrite, reaches, ho8, hk, shutterWrite, accessMask, hv]

/-- A core's aligned read of 8 bytes of an FLT register. -/
theorem exec_registerRead_flt {o k : Nat} {s : State} (hs : s.start.phase = .ready) (ho : o % 8 = 0) (hk : shutterAt o = .flt k) :
    exec (.registerReadClear .core o 8) s =
      .next { fltClear k (2 ^ 64 - 1) s with bus := fltRead s k % 2 ^ 64, busError := false } := by
  have ho8 : o / 8 * 8 = o := by omega
  change execRegisterReadClear .core o 8 s = _
  simp [execRegisterReadClear, pathOpen, hs, ho, readShutter, reaches, ho8, hk, shutterRead, shutterClear, accessMask]

/-- Settles O40: the write sets the field to the bits written, and the read returns the field. -/
theorem registerReadsBack : Obligations.RegisterReadsBack := by
  intro v s hs
  refine ⟨⟨_, _, exec_registerWrite_flt hs rfl rfl, exec_registerRead_flt hs rfl rfl, ?_⟩,
    ⟨_, _, exec_registerWrite_flt hs rfl rfl, exec_registerRead_flt hs rfl rfl, ?_⟩⟩
  · change rwField s.flt.msiAddr 55 0 (2 ^ 64 - 1) v.toNat anyValue % 2 ^ 64 % 2 ^ 56 = _
    rw [rwField_full _ _ (by decide)]
    omega
  · change rwField s.flt.msiData 31 0 (2 ^ 64 - 1) v.toNat anyValue % 2 ^ 64 % 2 ^ 32 = _
    rw [rwField_full _ _ (by decide)]
    omega

end Sys2Proof.Machine
end

section
/-! SUPPORT. What a write to home memory leaves in memory. -/

namespace Sys2Proof.Machine

theorem foldl_mem {β : Type} {g : State → β → State} (hg : ∀ u x, (g u x).mem = u.mem) :
    ∀ (l : List β) (s : State), (l.foldl g s).mem = s.mem
  | [], _ => rfl
  | x :: l, s => (foldl_mem hg l (g s x)).trans (hg s x)

theorem State.backInvalidate_mem (s : State) (ls : List Nat) : (s.backInvalidate ls).mem = s.mem := by
  rw [State.backInvalidate]
  split <;> rfl

theorem State.dropLines_mem (s : State) (a n : Nat) : (s.dropLines a n).mem = s.mem := by
  simp only [State.dropLines]
  split
  · exact (foldl_mem (by intros; rfl) _ _).trans (s.backInvalidate_mem _)
  · exact s.backInvalidate_mem _

theorem State.markBlock_mem (s : State) (b : Nat) : (s.markBlock b).mem = s.mem := by
  simp only [State.markBlock]
  split
  · rfl
  · split <;> rfl
  · split <;> rfl
  · split <;> rfl
  · split <;> rfl

theorem State.storeLocal_mem (s : State) (a : Nat) (bs : List Byte) : (s.storeLocal a bs).mem = s.mem.write a bs := by
  simp only [State.storeLocal, State.dropLines_mem]
  split
  · rw [foldl_mem State.markBlock_mem]
  · rfl

theorem State.enqueueWrite_mem (s : State) (l : Nat) : (s.enqueueWrite l).mem = s.mem := by
  simp only [State.enqueueWrite]
  split <;> rfl

theorem State.noteWrites_mem (s : State) (a n : Nat) : (s.noteWrites a n).mem = s.mem := foldl_mem State.enqueueWrite_mem _ s

theorem regionOf_home {a : Nat} (h : a < 0x6000000000) : regionOf a = .home a := by
  rw [regionOf, if_neg (by omega), if_neg (by omega), if_pos h]

theorem State.localAddr_home {s : State} {a : Nat} (h : a < 0x6000000000) : s.localAddr a = a := by
  rw [State.localAddr, regionOf_home h]

theorem State.accessErr_home {s : State} {a n : Nat} (h : a < 0x6000000000) (hn : a + n ≤ s.homeBytes) : s.accessErr a n = none := by
  simp [State.accessErr, State.backed, regionOf_home h, hn]

theorem State.poke_home {s : State} {a : Nat} {bs : List Byte} (h : a < 0x6000000000) : s.poke a bs = s.storeLocal a bs := by
  simp [State.poke, State.localAddr_home h, regionOf_home h]

/-- A write to home memory that meets no bad line is done. -/
theorem State.writeMem_home {s : State} {a : Nat} {bs : List Byte} (h : a < 0x6000000000) (hn : a + bs.length ≤ s.homeBytes)
    (hp : ∀ l ∈ s.poison, l + 64 ≤ a ∨ a + bs.length ≤ l) (hl : ∀ l ∈ linesOf a bs.length, s.sillBad l = false) :
    s.writeMem a bs = .ok (s.storeLocal a bs) := by
  have hpoison : s.poison.any (fun l => decide (l + 64 > a) && decide (l < a + bs.length) && !(wholeLines a bs.length).contains l) =
      false := by
    rw [List.any_eq_false]
    intro l hlp
    rcases hp l hlp with hbelow | habove
    · simp [show ¬ a < l + 64 by omega]
    · simp [show ¬ l < a + bs.length by omega]
  have hsill : (linesOf a bs.length).any (fun l => !(wholeLines a bs.length).contains l && s.sillBad l) = false := by
    rw [List.any_eq_false]
    intro l hla
    simp [hl l hla]
  simp only [State.writeMem, State.accessErr_home h hn, State.localAddr_home h, State.poke_home h, hpoison, hsill,
    Bool.and_false, Bool.or_false, Bool.false_eq_true, if_false]

/-- Settles O32: the write is made as it enters its queue, and the queue takes no byte of memory. -/
theorem queuedWriteIsVisible : Obligations.QueuedWriteIsVisible := by
  intro a data s t hs hn hhome hroom hp hl h
  change execWriteQueueEnter a data s = .next t at h
  by_cases ha : a < 0x6000000000
  · have hmem : t.mem = s.mem.write a data := by
      simp only [execWriteQueueEnter, decide_eq_false (Nat.not_le.mpr ha), hroom, Bool.or_false, Bool.false_eq_true, if_false,
        State.writeMem_home ha hn hp hl] at h
      cases h
      rw [State.noteWrites_mem, State.storeLocal_mem]
    rw [hmem]
    exact ⟨fun i hi => Memory.byte_write_in hs.mem hi, fun b hb => Memory.byte_write_other hs.mem hb⟩
  · have hdata : data.length = 0 := by omega
    simp only [execWriteQueueEnter, decide_eq_true (Nat.not_lt.mp ha), Bool.true_or, if_true] at h
    cases h
    exact ⟨fun i hi => by omega, fun _ _ => rfl⟩

end Sys2Proof.Machine
end

section
/-! SUPPORT. Rounding a value that is already in units of its format's last place (05 R161 to R163, R180). -/

namespace Sys2Proof.Machine

/-- A value in whole units does not round up. -/
theorem roundsUp_exact (mode : Mode) (draw n : Nat) (toTop : Bool) : roundsUp mode draw n n 1 toTop = false := by
  cases mode <;> simp [roundsUp]

theorem Mag.log2_int {m : Nat} (hm : m ≠ 0) (e : Int) : Mag.log2 ⟨m, 1, e⟩ = (Nat.log2 m : Int) + e := by
  have hle : 2 ^ Nat.log2 m ≤ m := Nat.log2_self_le hm
  have h1 : Nat.log2 1 = 0 := by decide
  simp [Mag.log2, h1, hle]

theorem Mag.inUnits_self (m : Nat) (e : Int) : Mag.inUnits ⟨m, 1, e⟩ e = (m, 1) := by
  simp [Mag.inUnits]

/-- A magnitude whose last place is the format's in its binade `ex` keeps its magnitude code. -/
theorem roundFloatMag_exact {ff : FloatFmt} {m : Nat} {e ex : Int} (mode : Mode) (draw : Nat) (hm : m ≠ 0)
    (hex : max ((Nat.log2 m : Int) + e) (1 - (ff.bias : Int)) = ex) (he : ex - ff.pbits = e)
    (htop : m + (ex - (1 - (ff.bias : Int))).toNat * 2 ^ ff.pbits < ff.top) :
    roundFloatMag ff mode draw ⟨m, 1, e⟩ = m + (ex - (1 - (ff.bias : Int))).toNat * 2 ^ ff.pbits := by
  simp only [roundFloatMag, Mag.log2_int hm, hex, he, Mag.inUnits_self, Nat.div_one, roundsUp_exact, Bool.false_eq_true, if_false]
  rw [if_neg (by omega)]

/-- The magnitude and the sign of a code. -/
theorem mag_add_sign {n c : Nat} (hc : c < 2 ^ (n + 1)) : c % 2 ^ n + flagAt (bit c n) n = c := by
  have hq : c / 2 ^ n < 2 := Nat.div_lt_of_lt_mul (by rw [← Nat.pow_succ]; exact hc)
  have hdiv := Nat.mod_add_div c (2 ^ n)
  unfold flagAt bit
  rw [Nat.testBit_eq_decide_div_mod_eq, Nat.mod_eq_of_lt hq]
  obtain hlow | hhigh : c / 2 ^ n = 0 ∨ c / 2 ^ n = 1 := Nat.le_one_iff_eq_zero_or_eq_one.mp (Nat.le_of_lt_succ hq)
  · rw [hlow] at hdiv ⊢
    simp only [Nat.zero_ne_one, decide_false, Bool.false_eq_true, if_false]
    omega
  · rw [hhigh] at hdiv ⊢
    simp only [decide_true, if_true]
    omega

/-- The finite codes of a floating-point format round to themselves. -/
theorem roundMag_float {f : Fmt} {ff : FloatFmt} (hf : f.float = some ff) (hbits : f.bits = ff.ebits + ff.pbits + 1)
    {c m draw : Nat} {neg : Bool} {e : Int} {mode : Mode} (hc : c < 2 ^ f.bits) (hd : decodeElem f c = .fin neg m e) (hm : m ≠ 0) :
    roundMag f mode draw neg ⟨m, 1, e⟩ = c := by
  simp only [decodeElem, hf] at hd
  rw [hbits] at hc
  have hmag := mag_add_sign hc
  generalize hx : c % 2 ^ (ff.ebits + ff.pbits) = x at hd hmag
  have hdiv := Nat.mod_add_div x (2 ^ ff.pbits)
  have hlt : x % 2 ^ ff.pbits < 2 ^ ff.pbits := Nat.mod_lt _ (Nat.two_pow_pos _)
  generalize x / 2 ^ ff.pbits = q at hd hdiv
  generalize x % 2 ^ ff.pbits = r at hd hdiv hlt
  split at hd
  · cases hd
  · split at hd
    · cases hd
    · have htop : x < ff.top := by omega
      suffices hr : roundFloatMag ff mode draw ⟨m, 1, e⟩ = x ∧ neg = bit c (ff.ebits + ff.pbits) by
        obtain ⟨hr, rfl⟩ := hr
        simp only [roundMag, if_neg hm, hf, hr, floatCode]
        rw [if_neg (by omega), hmag]
      split at hd
      · rename_i hsub
        cases hd
        have hmlt : Nat.log2 m < ff.pbits := (Nat.log2_lt hm).mpr hlt
        have hex : max ((Nat.log2 m : Int) + (1 - (ff.bias : Int) - ff.pbits)) (1 - (ff.bias : Int)) =
            1 - (ff.bias : Int) := Int.max_eq_right (by omega)
        have hval : m + (1 - (ff.bias : Int) - (1 - (ff.bias : Int))).toNat * 2 ^ ff.pbits = x := by
          rw [Int.sub_self, Int.toNat_zero, Nat.zero_mul]
          rw [hsub] at hdiv
          omega
        exact ⟨(roundFloatMag_exact mode draw hm hex (by omega) (by omega)).trans hval, rfl⟩
      · rename_i hnorm
        cases hd
        have hlog : Nat.log2 (r + 2 ^ ff.pbits) = ff.pbits := by
          rw [Nat.log2_eq_iff hm]
          exact ⟨by omega, by rw [Nat.pow_succ]; omega⟩
        have hex : max ((Nat.log2 (r + 2 ^ ff.pbits) : Int) + ((q : Int) - ff.bias - ff.pbits))
            (1 - (ff.bias : Int)) = (q : Int) - ff.bias := by
          rw [hlog, Int.max_eq_left (by omega)]
          omega
        have hval : r + 2 ^ ff.pbits +
            ((q : Int) - ff.bias - (1 - (ff.bias : Int))).toNat * 2 ^ ff.pbits = x := by
          obtain ⟨k, hk⟩ := Nat.exists_eq_succ_of_ne_zero hnorm
          have hnat : ((q : Int) - ff.bias - (1 - (ff.bias : Int))).toNat = k := by omega
          rw [hnat]
          rw [hk, Nat.mul_succ, Nat.mul_comm] at hdiv
          omega
        exact ⟨(roundFloatMag_exact mode draw hm hex (by omega) (by omega)).trans hval, rfl⟩

/-- Two's complement of `w + 1` bits and back. -/
theorem intCode_signed {w x : Nat} (hx : x < 2 ^ (w + 1)) :
    intCode (w + 1) (decide (signed (w + 1) x < 0)) (signed (w + 1) x).natAbs = x := by
  have hpow : 2 ^ (w + 1) = 2 * 2 ^ w := by rw [Nat.pow_succ]; omega
  unfold intCode signed unsigned
  rw [Nat.add_sub_cancel]
  have hcast : (2 : Int) ^ (w + 1) = ((2 ^ (w + 1) : Nat) : Int) := by push_cast; rfl
  rw [hcast]
  generalize 2 ^ (w + 1) = b at hpow hx
  generalize 2 ^ w = h at hpow
  simp only [decide_eq_true_eq]
  (repeat' split)
  · omega
  · omega
  · have hmin : min ((x : Int) - b).natAbs h = ((x : Int) - b).natAbs := Nat.min_eq_left (by omega)
    have hneg : -((((x : Int) - b).natAbs : Nat) : Int) = (x : Int) - b := by omega
    rw [hmin, hneg, Int.sub_emod_right, Int.emod_eq_of_lt (by omega) (by omega)]
    omega
  · omega

/-- The codes of an integer format round to themselves. -/
theorem roundMag_int {f : Fmt} {w c m draw : Nat} {neg : Bool} {e : Int} {mode : Mode} (hf : f.float = none) (hw : f.intBits = w + 1)
    (hc : c < 2 ^ (w + 1)) (hd : Num.ofInt (signed (w + 1) c) = .fin neg m e) (hm : m ≠ 0) :
    roundMag f mode draw neg ⟨m, 1, e⟩ = c := by
  cases hd
  simp only [roundMag, if_neg hm, hf, hw, roundIntMag, Mag.inUnits_self, Nat.div_one, roundsUp_exact, Bool.false_eq_true, if_false]
  exact intCode_signed hc

/-- Settles O51: the value of a code lies on the grid of its binade, and the code of a grid point is its place. -/
theorem roundingKeepsRepresentables : Obligations.RoundingKeepsRepresentables := by
  intro f c m draw neg e mode ht hmx hc hd hm
  change roundMag f mode draw neg ⟨m, 1, e⟩ = c
  cases f with
  | fp32 | bf16 | fp16 | e4m3 | e5m2 | fp4 => exact roundMag_float rfl rfl hc hd hm
  | int32 | int8 | int4 =>
    exact roundMag_int rfl rfl hc ((congrArg (fun x => Num.ofInt (signed _ x)) (Nat.mod_eq_of_lt hc).symm).trans hd) hm
  | mxFp4 | mxE4m3 | mxE5m2 => cases hmx
  | attar | uint32 | uint64 | e8m0 | mask => cases ht

end Sys2Proof.Machine
end

section
/-! SUPPORT. What each of 36 commands can touch. -/

namespace Sys2Proof.Machine

/-- Every next state that the outcome gives satisfies `P`. -/
def Gives (P : State → Prop) (o : Host.Outcome State Fault Refusal) : Prop := ∀ t, o = .next t → P t

theorem Gives.next {P : State → Prop} {t : State} (h : P t) : Gives P (.next t) := fun _ e => by
  cases e
  exact h

theorem Gives.ite {P : State → Prop} {c : Prop} [Decidable c] {o p : Host.Outcome State Fault Refusal} (ho : Gives P o) (hp : Gives P p) :
    Gives P (if c then o else p) := by
  split
  · exact ho
  · exact hp

variable {s : State}

/-! ### Links and modules -/

theorem foldl_updLink_frame (f : Link → Link) (ks : List Nat) (s : State) :
    ∃ a, ks.foldl (fun s k => s.updLink k f) s = { s with links := a } :=
  foldl_links _ (fun _ _ => ⟨_, rfl⟩) ks s

theorem sendTo_frame (s : State) (ch dst size : Nat) (bs : List Byte) :
    ∃ a b, s.sendTo ch dst size bs = { s with links := a, outMsgs := b } := by
  unfold State.sendTo
  split
  · exact ⟨_, _, rfl⟩
  · exact emit_frame ..

theorem divert_frame (s : State) (k : Nat) : ∃ a b, s.divert k = { s with links := a, outMsgs := b } := by
  refine foldl_emits _ (fun u w => ?_) (s.link k).waiting (s.updLink k (fun l => { l with waiting := [] })) |>.imp fun _ ⟨b, h⟩ =>
    ⟨b, h⟩
  split
  · exact ⟨_, _, rfl⟩
  · exact sendTo_frame ..

theorem wakeLink_frame (k : Nat) (s : State) : ∃ a, wakeLink k s = { s with links := a } := by
  unfold wakeLink
  dsimp only
  split <;> exact ⟨_, rfl⟩

/-- `t` is `s` but for its links and what has left over them. -/
def State.SameButLinks (s t : State) : Prop := t = { s with links := t.links, outMsgs := t.outMsgs }

theorem State.SameButLinks.trans {s t u : State} (hst : s.SameButLinks t) (htu : t.SameButLinks u) : s.SameButLinks u :=
  Eq.trans htu (congrArg (fun x : State => { x with links := u.links, outMsgs := u.outMsgs }) hst)

theorem State.updLink_sameButLinks (s : State) (k : Nat) (f : Link → Link) : s.SameButLinks (s.updLink k f) := rfl

theorem State.pumpLink_sameButLinks (s : State) (k : Nat) : s.SameButLinks (s.pumpLink k) := by
  obtain ⟨a, b, h⟩ := pumpLink_frame s k
  rw [h]
  rfl

theorem execFlitReceive_frame (k : Nat) (f : Flit) :
    Gives s.SameButLinks (execFlitReceive k f s) := by
  unfold execFlitReceive
  extract_lets l u v w
  have hu : s.SameButLinks u := rfl
  have hv : u.SameButLinks v := rfl
  have hw : u.SameButLinks w := rfl
  clear_value u v w
  exact .ite (.next rfl) (.ite (.next (hu.trans (hv.trans rfl)))
    (.ite (.next (hu.trans (hw.trans ((w.updLink_sameButLinks k _).trans (State.pumpLink_sameButLinks _ k))))) (.next (hu.trans hw))))

theorem execLinkTrainingRetry_frame (k : Nat) (g : Bool) :
    Gives (fun t => t = { s with links := t.links, clk := t.clk }) (execLinkTrainingRetry k g s) :=
  .ite (.next rfl) (.next rfl)

theorem execLaserDrain_frame (n : Nat) (on : Bool) :
    Gives (fun t => t = { s with links := t.links, lasers := t.lasers, outMsgs := t.outMsgs }) (execLaserDrain n on s) := by
  unfold execLaserDrain
  refine .ite (.next rfl) ?_
  extract_lets u v
  refine .next ?_
  obtain ⟨a, ha⟩ : ∃ a, v = { u with links := a } := foldl_updLink_frame _ (moduleLinks n) u
  obtain ⟨b, c, h⟩ := foldl_emits (fun s k => if on then s.divert k else s.pumpLink k) (fun w k => by
    split
    · exact divert_frame w k
    · exact pumpLink_frame w k) (moduleLinks n) v
  rw [h, ha]
  rfl

theorem execLaserDrained_frame (n : Nat) : Gives (fun t => t = { s with lasers := t.lasers }) (execLaserDrained n s) :=
  .ite (.next rfl) (.next rfl)

theorem execLaserModuleInsert_frame (n src : Nat) :
    Gives (fun t => t = { s with links := t.links, lasers := t.lasers, gens := t.gens }) (execLaserModuleInsert n src s) := by
  unfold execLaserModuleInsert
  refine .ite (.next rfl) ?_
  extract_lets u
  refine .next ?_
  have hu : u = { s with lasers := u.lasers, gens := u.gens } := rfl
  obtain ⟨a, ha⟩ := foldl_links _ (fun w k => wakeLink_frame k w) (moduleLinks n) u
  rw [ha, hu]

/-! ### Host ports, time and power -/

theorem execPcieLinkUp_frame (p a b : Nat) (c : Bool) : Gives (fun t => t = { s with ports := t.ports }) (execPcieLinkUp p a b c s) :=
  .ite (.next rfl) (.next rfl)

theorem execPcieEvtWrite_frame (p : Nat) (v : Word) : Gives (fun t => t = { s with ports := t.ports }) (execPcieEvtWrite p v s) :=
  .next rfl

theorem execPtpAnnounce_frame :
    Gives (fun t => t = { s with time := t.time, clk := t.clk, links := t.links, outMsgs := t.outMsgs }) (execPtpAnnounce s) := by
  unfold execPtpAnnounce
  refine .ite ?_ (.next rfl)
  extract_lets u tm v
  have hu : u = { s with clk := u.clk } := rfl
  clear_value u
  obtain ⟨a, b, hv⟩ := sendTime_frame { u with time := { tm with announces := u.time.announces + 1 } } none announceBytes
  obtain ⟨c, d, hw⟩ := sendTime_frame v none syncBytes
  have hv : v = { u with time := { tm with announces := u.time.announces + 1 }, links := a, outMsgs := b } := hv
  refine .next ?_
  split
  · rw [hw, hv, hu]
  · rw [hv, hu]

theorem execPpsOutPulse_frame : Gives (fun t => t = { s with time := t.time, clk := t.clk }) (execPpsOutPulse s) := by
  unfold execPpsOutPulse
  refine .ite (.next ?_) (.next rfl)
  obtain ⟨c, h⟩ := advanceTo_frame (nextMultiple s.now 1000000000) s
  rw [h]

theorem execPwrBmcCapWrite_frame (via : Via) (o : Nat) (v : Word) :
    Gives (fun t => t = { s with power := t.power }) (execPwrBmcCapWrite via o v s) :=
  .ite (.next rfl) (.ite (.ite (.next rfl) (.next rfl)) (.ite (.next rfl) (.next rfl)))

theorem execCurrentGuardEnd_frame (n : Nat) :
    Gives (fun t => t = { s with cores := t.cores, tilePower := t.tilePower, clk := t.clk }) (execCurrentGuardEnd n s) := by
  refine .ite (.next rfl) (.next ?_)
  obtain ⟨a, h⟩ := applyLimit_frame n ((advanceTo (s.tpower n).guardEnd s).updTpower n (fun x => { x with guard := false }))
  rw [h]
  rfl

/-! ### Starts and security -/

theorem execClear_frame : Gives (fun t => t = { s with start := t.start }) (execClear s) := .next rfl

theorem execFwUpdateStart_frame (i : ImageView) :
    Gives (fun t => t = { s with start := t.start, flash := t.flash }) (execFwUpdateStart i s) := by
  unfold execFwUpdateStart
  split
  · exact .next rfl
  · exact .next rfl

theorem execFwUpdateDone_frame (ok : Bool) :
    Gives (fun t => t = { s with start := t.start, flash := t.flash }) (execFwUpdateDone ok s) :=
  .ite (.next rfl) (.ite (.next rfl) (.next rfl))

theorem execCommit_frame : Gives (fun t => t = { s with flash := t.flash }) (execCommit s) := .ite (.next rfl) (.next rfl)

theorem execMrExtend_frame (v : Word) : Gives (fun t => t = { s with start := t.start }) (execMrExtend v s) :=
  .ite (.next rfl) (.next rfl)

/-! ### Ultur cores -/

theorem execFence_frame (n u : Nat) (a b : Bool) : Gives (fun t => t = { s with ucores := t.ucores }) (execFence n u a b s) :=
  .ite (.next rfl) (.next rfl)

theorem execUberrInfoWrite_frame (n u : Nat) (o : CsrOp) :
    Gives (fun t => t = { s with ucores := t.ucores }) (execUberrInfoWrite n u o s) := by
  refine .ite (.next rfl) ?_
  cases o with
  | info smode v =>
    refine .next ?_
    split <;> rfl
  | read smode m =>
    refine .next ?_
    split <;> rfl
  | mie on => exact .next rfl
  | mideleg on => exact .next rfl

/-! ### Tiles and their cores -/

/-- A change of one core, and what follows from it. -/
theorem setCore_settleCore_frame {u : State} {t c : Nat} {k : Core} : ∃ a b,
    (u.setCore t c k).settleCore t c = { u with cores := a, tiles := b } := by
  obtain ⟨a, b, h⟩ := settleCore_frame (u.setCore t c k) t c
  exact ⟨a, b, h⟩

theorem execProgNop_frame (n c : Nat) : Gives (fun t => t = { s with cores := t.cores, tiles := t.tiles }) (execProgNop n c s) :=
  fun _ h => progWord_frame h

theorem execProgLoop_frame (n c : Nat) : Gives (fun t => t = { s with cores := t.cores, tiles := t.tiles }) (execProgLoop n c s) :=
  fun _ h => progWord_frame h

theorem execProgEndloop_frame (n c : Nat) : Gives (fun t => t = { s with cores := t.cores, tiles := t.tiles }) (execProgEndloop n c s) :=
  fun _ h => progWord_frame h

theorem execProgDrain_frame (n c : Nat) : Gives (fun t => t = { s with cores := t.cores, tiles := t.tiles }) (execProgDrain n c s) :=
  fun _ h => progWord_frame h

theorem execStreamSwap_frame (n c : Nat) : Gives (fun t => t = { s with cores := t.cores, tiles := t.tiles }) (execStreamSwap n c s) := by
  unfold execStreamSwap
  dsimp only
  split
  · exact .next rfl
  · split
    · refine .ite (.next ?_) (.next rfl)
      obtain ⟨a, b, h⟩ := setCore_settleCore_frame
      rw [h]
    · exact .next rfl

theorem execKeepWarmGap_frame (n c rows : Nat) :
    Gives (fun t => t = { s with cores := t.cores, clk := t.clk }) (execKeepWarmGap n c rows s) := by
  unfold execKeepWarmGap
  dsimp only
  split
  · exact .ite (.next rfl) (.next rfl)
  · exact .next rfl

theorem execCoreCold_frame (n c : Nat) :
    Gives (fun t => t = { s with cores := t.cores, tiles := t.tiles, clk := t.clk }) (execCoreCold n c s) := by
  unfold execCoreCold
  dsimp only
  split
  · refine .ite (.next ?_) (.next rfl)
    obtain ⟨a, b, h⟩ := setCore_settleCore_frame
    rw [h]
    rfl
  · exact .next rfl

theorem execLouvreSlot_frame (n : Nat) :
    Gives (fun t => t = { s with cores := t.cores, tiles := t.tiles, clk := t.clk }) (execLouvreSlot n s) := by
  unfold execLouvreSlot
  extract_lets x m u v
  split
  · exact .next rfl
  · refine .ite (.next rfl) (.next ?_)
    obtain ⟨a, h⟩ := foldl_cores (fun s c => s.updCore n c (fun k => { k with admitted := true, waiting := none })) (fun _ _ => ⟨_, rfl⟩)
      (v.waveAt n ((m - _) / 32)) v
    rw [h]
    rfl

theorem execIssueLimitStep_frame (n c : Nat) :
    Gives (fun t => t = { s with cores := t.cores, clk := t.clk }) (execIssueLimitStep n c s) := .ite (.next rfl) (.next rfl)

/-! ### Pins -/

theorem execEntdaa_frame (a : Nat) : Gives (fun t => t = { s with i3c := t.i3c, bus := t.bus }) (execEntdaa a s) :=
  .ite (.next rfl) (.next rfl)

theorem execSetdasa_frame (a b : Nat) : Gives (fun t => t = { s with i3c := t.i3c }) (execSetdasa a b s) := .ite (.next rfl) (.next rfl)

theorem execSetnewda_frame (a b : Nat) : Gives (fun t => t = { s with i3c := t.i3c }) (execSetnewda a b s) :=
  .ite (.next rfl) (.next rfl)

theorem tapDo_gives (d : Nat) (f : Tap → Tap) : Gives (fun t => t = { s with taps := t.taps }) (tapDo d f s) := fun _ h => tapDo_frame h

theorem extestAs_gives (i : TapInstr) (d : Nat) : Gives (fun t => t = { s with taps := t.taps }) (extestAs i d s) :=
  .ite (tapDo_gives d _) (tapDo_gives d _)

theorem execBypass_frame (d : Nat) : Gives (fun t => t = { s with taps := t.taps }) (execBypass d s) :=
  tapDo_gives d _

theorem execIdcode_frame (d : Nat) : Gives (fun t => t = { s with taps := t.taps }) (execIdcode d s) :=
  tapDo_gives d _

theorem execSamplePreload_frame (d a b : Nat) : Gives (fun t => t = { s with taps := t.taps }) (execSamplePreload d a b s) :=
  tapDo_gives d _

end Sys2Proof.Machine
end

section
/-! THEOREMS. Frames of commands. -/

namespace Sys2Proof.Machine

/-- Settles O60: the operations of each command touch the named parts (`Gives`), and a command is a choice among them. -/
theorem commandFrames : Obligations.CommandFrames :=
  ⟨fun k f _ => execFlitReceive_frame k f, fun k g _ => execLinkTrainingRetry_frame k g, fun n on _ => execLaserDrain_frame n on,
    fun n _ => execLaserDrained_frame n, fun n src _ => execLaserModuleInsert_frame n src,
    fun p a b c _ => execPcieLinkUp_frame p a b c, fun p v _ => execPcieEvtWrite_frame p v, fun _ => execPtpAnnounce_frame,
    fun _ => execPpsOutPulse_frame, fun via o v _ => execPwrBmcCapWrite_frame via o v, fun n _ => execCurrentGuardEnd_frame n,
    fun _ => execClear_frame, fun i _ => execFwUpdateStart_frame i, fun ok _ => execFwUpdateDone_frame ok, fun _ => execCommit_frame,
    fun v _ => execMrExtend_frame v, fun n u a b _ => execFence_frame n u a b, fun n u o _ => execUberrInfoWrite_frame n u o,
    fun n c _ => execProgNop_frame n c, fun n c _ => execProgLoop_frame n c, fun n c _ => execProgEndloop_frame n c,
    fun n c _ => execProgDrain_frame n c,
    fun n c _ => execStreamSwap_frame n c, fun n c rows _ => execKeepWarmGap_frame n c rows, fun n c _ => execCoreCold_frame n c,
    fun n _ => execLouvreSlot_frame n, fun n c _ => execIssueLimitStep_frame n c, fun a _ => execEntdaa_frame a,
    fun a b _ => execSetdasa_frame a b, fun a b _ => execSetnewda_frame a b, fun d _ => execBypass_frame d, fun d _ => execIdcode_frame d,
    fun d a b _ => execSamplePreload_frame d a b, fun d _ => extestAs_gives _ d, fun d _ => extestAs_gives _ d, fun d _ => extestAs_gives _ d⟩

end Sys2Proof.Machine
end

section
/-! SUPPORT. What TERMINATE leaves of a context's entries (02 R30). -/

namespace Sys2Proof.Machine

/-- An entry discarded where it has not finished. -/
def Entry.discarded (e : Entry) : Entry := if e.isFinished then e else { e with phase := .finished ⟨sDiscarded, 0, 0, 0⟩ }

/-- The entries after the entry `g` of theirs is discarded. -/
def discardAt (es : List Entry) (g : Entry) : List Entry :=
  if g.isFinished then es else mapIf (fun e => e.ring == g.ring && e.seq == g.seq) Entry.discarded es

/-- Every entry is discarded, or as one of `fs` at its place. -/
def DiscardedOr (fs es : List Entry) : Prop :=
  ∀ e ∈ es, e.phase = .finished ⟨sDiscarded, 0, 0, 0⟩ ∨ ∃ f ∈ fs, f.phase = e.phase ∧ f.ring = e.ring ∧ f.seq = e.seq

/-- What stands at the place of `g` has finished. -/
def FinishedAt (es : List Entry) (g : Entry) : Prop := ∀ e ∈ es, e.ring = g.ring → e.seq = g.seq → e.isFinished = true

/-! ### Entries -/

theorem Entry.isFinished_of_phase {e f : Entry} (h : f.phase = e.phase) : f.isFinished = e.isFinished := by
  simp [Entry.isFinished, h]

theorem Entry.discarded_isFinished (e : Entry) : e.discarded.isFinished = true := by
  unfold Entry.discarded
  split
  · assumption
  · rfl

theorem Entry.discarded_place (e : Entry) : e.discarded.ring = e.ring ∧ e.discarded.seq = e.seq := by
  unfold Entry.discarded
  split <;> exact ⟨rfl, rfl⟩

/-- What an entry of the list after a discard was before it. -/
theorem mem_discardAt {es : List Entry} {g e : Entry} (h : e ∈ discardAt es g) :
    ∃ d ∈ es, (e = d ∨ e = d.discarded) ∧ e.ring = d.ring ∧ e.seq = d.seq := by
  unfold discardAt mapIf at h
  split at h
  · exact ⟨e, h, .inl rfl, rfl, rfl⟩
  · obtain ⟨d, hd, rfl⟩ := List.mem_map.mp h
    refine ⟨d, hd, ?_⟩
    split
    · exact ⟨.inr rfl, d.discarded_place⟩
    · exact ⟨.inl rfl, rfl, rfl⟩

theorem DiscardedOr.discardAt {fs es : List Entry} (h : DiscardedOr fs es) (g : Entry) : DiscardedOr fs (discardAt es g) := by
  intro e he
  obtain ⟨d, hd, rfl | rfl, -⟩ := mem_discardAt he
  · exact h _ hd
  · unfold Entry.discarded
    split
    · exact h d hd
    · exact .inl rfl

theorem FinishedAt.discardAt {es : List Entry} {f : Entry} (h : FinishedAt es f) (g : Entry) : FinishedAt (discardAt es g) f := by
  intro e he hring hseq
  obtain ⟨d, hd, rfl | rfl, hr, hs⟩ := mem_discardAt he
  · exact h _ hd hring hseq
  · exact d.discarded_isFinished

theorem finishedAt_discardAt {es : List Entry} {g : Entry} (hg : g.isFinished = false) : FinishedAt (discardAt es g) g := by
  intro e he hring hseq
  simp only [discardAt, hg, Bool.false_eq_true, if_false, mapIf] at he
  obtain ⟨d, -, rfl⟩ := List.mem_map.mp he
  split at hring
  · rw [if_pos ‹_›]
    exact d.discarded_isFinished
  · rename_i hd
    rw [if_neg hd] at hseq
    exact absurd (by rw [hring, hseq]; simp) hd

/-- After the discard of `gs` each entry is discarded or as before, and the places of `gs` have finished. -/
theorem foldl_discardAt {fs : List Entry} : ∀ {gs es : List Entry}, DiscardedOr fs es →
    DiscardedOr fs (gs.foldl discardAt es) ∧ ∀ f, f ∈ gs ∧ f.isFinished = false ∨ FinishedAt es f → FinishedAt (gs.foldl discardAt es) f
  | [], es, h => ⟨h, fun f hf => by simpa using hf⟩
  | g :: gs, es, h => by
    obtain ⟨h1, h2⟩ := foldl_discardAt (gs := gs) (h.discardAt g)
    refine ⟨h1, fun f hf => h2 f ?_⟩
    rcases hf with ⟨hf, hn⟩ | hf
    · rcases List.mem_cons.mp hf with rfl | hf
      · exact .inr (finishedAt_discardAt hn)
      · exact .inl ⟨hf, hn⟩
    · exact .inr (hf.discardAt g)

/-- Every entry finished, as it had before or discarded. -/
theorem discard_all {es : List Entry} {e : Entry} (he : e ∈ es.foldl discardAt es) : e.phase = .finished ⟨sDiscarded, 0, 0, 0⟩ ∨
    ∃ f ∈ es, f.isFinished = true ∧ f.phase = e.phase ∧ f.ring = e.ring ∧ f.seq = e.seq := by
  obtain ⟨hor, hfin⟩ := foldl_discardAt (fs := es) (gs := es) (es := es) fun e he => .inr ⟨e, he, rfl, rfl, rfl⟩
  rcases hor e he with hd | ⟨f, hf, hphase, hring, hseq⟩
  · exact .inl hd
  · refine .inr ⟨f, hf, Decidable.byContradiction fun hn => ?_, hphase, hring, hseq⟩
    have hdone := hfin f (.inl ⟨hf, Bool.eq_false_iff.mpr hn⟩) e he hring.symm hseq.symm
    exact hn ((Entry.isFinished_of_phase hphase).trans hdone)

/-! ### The context -/

theorem entries_discard {s : State} (hs : Table.wf ({} : Ctx) s.ctxs = true) (n ring seq : Nat) :
    ((discard ⟨n, ring, seq⟩ s).ctx n).entries =
      mapIf (fun e => e.ring == ring && e.seq == seq) Entry.discarded (s.ctx n).entries := by
  have hruns : (endSelftest ⟨n, ring, seq⟩ (s.dropRuns ⟨n, ring, seq⟩)).ctxs = s.ctxs := by simp
  rw [discard, finishWith, State.updEntry, State.ctx_updCtx (hruns ▸ hs), State.ctx_of_ctxs hruns]
  rfl

theorem entries_foldl_discard {n : Nat} : ∀ {l : List Entry} {s : State}, Table.wf ({} : Ctx) s.ctxs = true →
    ((l.foldl (fun s e => if e.isFinished then s else discard ⟨n, e.ring, e.seq⟩ s) s).ctx n).entries =
      l.foldl discardAt (s.ctx n).entries
  | [], _, _ => rfl
  | e :: l, s, hs => by
    rw [List.foldl_cons, List.foldl_cons]
    cases he : e.isFinished with
    | true =>
      rw [if_pos rfl, entries_foldl_discard hs, discardAt, he, if_pos rfl]
    | false =>
      rw [if_neg (by decide), entries_foldl_discard (s := discard _ s) (finishWith_keepsTokens _ _ s hs).1, entries_discard hs]
      simp only [discardAt, he, Bool.false_eq_true, if_false]

/-- The end of a context's tier changes pages and frames, and of the contexts the quota and the schedule of one. -/
theorem State.endTier_eq (s : State) (n : Nat) :
    ∃ u : State, u.ctxs = s.ctxs ∧ s.endTier n = u.updCtx n (fun x => { x with quota := 0, layers := [], layer := 0 }) := by
  unfold State.endTier
  extract_lets loses unowned mine released m settled
  have hunowned : unowned.ctxs = s.ctxs := foldl_ctxs (by intros; rfl) _ s
  have hreleased : released.ctxs = unowned.ctxs := by
    refine foldl_ctxs (fun u e => ?_) _ unowned
    split
    · extract_lets d v
      split
      · exact State.startRelease_ctxs v e.1
      · rfl
    · rfl
  refine ⟨settled, Eq.trans ?_ (hreleased.trans hunowned), rfl⟩
  dsimp only [settled]
  split
  · split
    · split
      · exact (State.settleDirect_ctxs ..).trans (State.startRelease_ctxs ..)
      · rfl
    · rfl
  · rfl

theorem State.ctx_endTier {s : State} (hs : Table.wf ({} : Ctx) s.ctxs = true) (n : Nat) :
    (s.endTier n).ctx n = { s.ctx n with quota := 0, layers := [], layer := 0 } := by
  obtain ⟨u, hu, h⟩ := s.endTier_eq n
  rw [h, State.ctx_updCtx (hu ▸ hs), State.ctx_of_ctxs hu]

/-- A context that is terminated. -/
theorem ctx_terminateCtx {s : State} {n : Nat} (hs : Table.wf ({} : Ctx) s.ctxs = true) (hphase : (s.ctx n).phase ≠ .disabled) :
    ((terminateCtx n s).ctx n).phase = .disabled ∧
      ((terminateCtx n s).ctx n).entries = (s.ctx n).entries.foldl discardAt (s.ctx n).entries := by
  unfold terminateCtx
  extract_lets c discarded disabled
  rw [if_neg (by simpa using hphase)]
  have hdiscarded : Table.wf ({} : Ctx) discarded.ctxs = true := by
    refine (State.KeepsTokens.foldl (fun u e => ?_) _ s hs).1
    split
    · exact .refl u
    · exact finishWith_keepsTokens _ _ u
  have hdisabled : Table.wf ({} : Ctx) (clearBusy n disabled).ctxs = true := by
    rw [clearBusy_ctxs]
    exact Table.wf_put _ hdiscarded ..
  have hctx : (clearBusy n disabled).ctx n = { discarded.ctx n with phase := .disabled, syncing := false } := by
    rw [State.ctx_of_ctxs (clearBusy_ctxs n disabled)]
    exact State.ctx_updCtx hdiscarded ..
  rw [State.ctx_endTier hdisabled, hctx]
  exact ⟨rfl, entries_foldl_discard hs⟩

/-- Settles O9: the discards meet each entry at its place (`discard_all`); what follows keeps the entries and disables the context. -/
theorem terminateDiscards : Obligations.TerminateDiscards := by
  intro n s t hs hign hphase h
  have hexec : exec (.terminate n) s = .next (terminateCtx n (setCtxStat n 3 0 false s)) := by
    change execTerminate n s = _
    simp [execTerminate, hign, hphase]
  cases hexec.symm.trans h
  obtain ⟨hdisabled, hentries⟩ := ctx_terminateCtx (s := setCtxStat n 3 0 false s) hs.ctxs hphase
  refine ⟨hdisabled, fun e he => ?_⟩
  rw [hentries] at he
  exact discard_all he

end Sys2Proof.Machine
end

section
/-! SUPPORT. Serving a slot of a ring (02 R48). -/

namespace Sys2Proof.Machine

variable {n r k : Nat} {s : State}

theorem serveSlot_valid {pkt : List Byte} (hread : s.readMem (slotAddr ((s.ctx n).ring r)) 64 = .ok pkt)
    (hvalid : slotValid ((s.ctx n).ring r) pkt = true) :
    serveSlot n r k s = acceptPacket n r pkt [] [] .desc 0 (s.noteRead .steward (slotAddr ((s.ctx n).ring r)) 64) := by
  simp only [serveSlot, hread, hvalid, if_true]

/-- A slot that is not valid yet. -/
theorem serveSlot_invalid {pkt : List Byte} (hread : s.readMem (slotAddr ((s.ctx n).ring r)) 64 = .ok pkt)
    (hvalid : slotValid ((s.ctx n).ring r) pkt = false) :
    serveSlot n r k s = if k < 8 then updRing n r (fun g => { g with fetch := .slot k }) (s.noteRead .steward (slotAddr ((s.ctx n).ring r)) 64)
      else doorbellAhead n r (s.noteRead .steward (slotAddr ((s.ctx n).ring r)) 64) := by
  simp only [serveSlot, hread, hvalid, Bool.false_eq_true, if_false]

/-- A slot that cannot be read. -/
theorem serveSlot_error {e : AccErr} (he : e ≠ .uncorrectable) (hread : s.readMem (slotAddr ((s.ctx n).ring r)) 64 = .error e) :
    serveSlot n r k s = fltPost 7 2 r n (slotAddr ((s.ctx n).ring r)) ((s.ctx n).ring r).head.toNat e.kind
      (terminateCtx n (s.noteRead .steward (slotAddr ((s.ctx n).ring r)) 64)) := by
  cases e with
  | uncorrectable => exact absurd rfl he
  | refused | timeout | peerDown | hostDown => simp only [serveSlot, hread]

/-- The data of a packet are read again. -/
theorem rereadData_waiting {pkt : List Byte} {kept : List (List Byte)} {maps : Table (List Nat)} {what : Reread}
    (hmay : mayReread s n = true) (hfetch : ((s.ctx n).ring r).fetch = .reread what k pkt kept maps) :
    rereadData n r what s = .next (acceptPacket n r pkt kept maps what (k + 1) s) := by
  simp only [rereadData, hfetch, hmay, and_self, if_true]

/-- A command other than SEG_SYNC ends no exclusive hold. -/
theorem endSync_of_ne {e : Entry} (he : e.opcode ≠ 0x0401) : endSync n e s = s := by
  simp [endSync, he]

end Sys2Proof.Machine
end

section
/-! THEOREMS. The transport of commands: contexts, doorbells, fetching, and the life of a command. -/

namespace Sys2Proof.Machine

/-- Settles O8: each control by its checks. -/
theorem contextControlCompletes : Obligations.ContextControlCompletes := by
  refine ⟨fun n s s' hign hready hcheck hclaim => ?_, fun n r s hign hready hcheck => ?_, fun n s hign hphase => ?_,
    fun n s hign hphase => ?_⟩
  · change execEnable n s = _
    simp only [execEnable, hign, hready, hcheck, hclaim]
    rfl
  · change execEnable n s = _
    simp [execEnable, hign, hready, hcheck, setCtxStat]
  · change execDisable n s = _
    simp [execDisable, hign, hphase]
  · change execTerminate n s = _
    simp [execTerminate, hign, hphase]

/-- Settles O10: each write by whether its value is in range. -/
theorem doorbellsComplete : Obligations.DoorbellsComplete := by
  refine ⟨fun n r w v s hw hphase hen hin => ?_, fun n r w v s hw hphase hen hout => ?_, fun n v s hin => ?_, fun n v s hout => ?_,
    fun _ _ _ => rfl⟩
  · change execDoorbell n r w v s = _
    rw [execDoorbell, if_neg (by simp [hphase, hen, Nat.not_lt.mpr hw]), if_neg (Nat.not_lt.mpr hin)]
  · change execDoorbell n r w v s = _
    rw [execDoorbell, if_neg (by simp [hphase, hen, Nat.not_lt.mpr hw]), if_pos hout]
    rfl
  · change execDbCqHeadWrite n v s = _
    rw [execDbCqHeadWrite, if_pos hin]
  · change execDbCqHeadWrite n v s = _
    rw [execDbCqHeadWrite, if_neg (Nat.not_le.mpr hout)]
    rfl

/-- Settles O11: the fetcher's turn, and what serving a slot does, by what the slot holds. -/
theorem fetchingCompletes : Obligations.FetchingCompletes := by
  refine ⟨⟨fun n r s hwin hturn => ?_, fun n r k s hfetch hmay => ?_, fun n r k pkt kept maps s hmay =>
    ⟨rereadData_waiting hmay, rereadData_waiting hmay, rereadData_waiting hmay⟩⟩, ?_⟩
  · change execPacketFetch s = _
    simp [execPacketFetch, packageWindow, Nat.not_le.mpr hwin, hturn]
  · change execSlotReread n r s = _
    simp [execSlotReread, hfetch, hmay]
  · rintro n r k s u rfl
    refine ⟨fun pkt => serveSlot_valid, fun pkt hread hvalid hk => ?_, fun pkt hread hvalid hk => ?_, fun e => serveSlot_error⟩
    · rw [serveSlot_invalid hread hvalid, if_pos hk]
    · rw [serveSlot_invalid hread hvalid, if_neg (Nat.not_lt.mpr hk)]

/-- Settles O12: each event of a command's life by the phase of its entry. -/
theorem commandLifeCompletes : Obligations.CommandLifeCompletes := by
  refine ⟨fun id e s he hphase hrel => ?_, fun id t c e s he hphase hready hrank hbusy => ?_, fun id e s he hphase hen hdone hms => ?_,
    fun id e r s he hphase hop hacc hreads hheld hroom => ?_, fun id e r s he hphase hop hacc hreads hheld hroom hlost hquiet => ?_⟩
  · change execReleaseTime id s = _
    simp [execReleaseTime, he, hphase, hrel]
  · change execCommandDispatch id t c s = _
    simp [execCommandDispatch, he, hphase, hready, hrank, hbusy, lateNow]
  · change execTokenWaitTimeout id s = _
    simp [execTokenWaitTimeout, he, hphase, hen, hdone, hms, waitLimitNs, evWaitLimit]
  · change Host.Outcome.next (finishEntry id s) = _
    simp [finishEntry, he, hphase, endSync_of_ne hop, hacc, hreads, hheld, hroom]
  · change Host.Outcome.next (finishEntry id s) = _
    simp [finishEntry, he, hphase, endSync_of_ne hop, hacc, hreads, hheld, hroom, hlost, hquiet, evCqStall]

end Sys2Proof.Machine
end

section
/-! SUPPORT. The two phases of a collective (11 R329), and the data reads it asks for. -/

namespace Sys2Proof.Machine

/-- A command that has asked for its reads asks for none again. -/
theorem askReads_of_asked {id : CmdId} {e : Entry} {s : State} (h : e.asked = true) : askReads id e s = s := by
  rw [askReads, if_pos h]

/-- A running collective by its reads, and by whether the write queues take its work. -/
theorem runRed_running {r : RedAt} {op : Nat} {e : Entry} {s u : State} (h : Running s r.id op e)
    (hu : u = askReads r.id e (markLate r e s)) (f : RedRun → State × CmdResult) :
    runRed r op s f = if u.readsFor r.id then .next u
      else .next (if (f { s := u, id := r.id, e }).1.overfull then u
        else finishWith r.id (f { s := u, id := r.id, e }).2 (f { s := u, id := r.id, e }).1) := by
  obtain ⟨hentry, hphase, hop⟩ := h
  subst hu
  simp only [runRed, hentry, hphase, hop, bne_self_eq_false, Bool.or_self, Bool.false_eq_true, if_false]

/-- What runs through `runRed` reduces. -/
theorem reduces_of_runRed {mk : RedAt → Instr} {op : Nat} {f : RedRun → State × CmdResult}
    (h : ∀ r s, exec (mk r) s = runRed r op s f) : Reduces mk op f := by
  intro r e s u hrun hu
  refine ⟨fun hasked => by rw [hu, askReads_of_asked hasked], fun hreads => ?_, fun q hreads hq hroom => ?_⟩
  · rw [h, runRed_running hrun hu, if_pos hreads]
  · rw [h, runRed_running hrun hu, if_neg (by simp [hreads]), ← hq, if_neg (by simp [hroom])]

end Sys2Proof.Machine
end

section
/-! SUPPORT. SEG_SYNC once its exclusive hold, if any, has been taken (02 R59). -/

namespace Sys2Proof.Machine

/-- SEG_SYNC, where it adds only or every other command has left, finishes by the comparison of the tables. -/
theorem execSegSync_ready {id : CmdId} {e : Entry} {s : State} (h : Running s id 0x0401 e)
    (hwait : bit e.flags 0 = true ∨ ∀ f ∈ (s.ctx id.ctx).entries, f.order ≠ e.order →
      f.isFinished = true ∧ (f.ring, f.seq) ∈ (s.ctx id.ctx).held) :
    execSegSync id s = match checkTables s (s.ctx id.ctx) (bit e.flags 0) with
      | .error r => .next (finishWith id r (noteTables id (s.ctx id.ctx) s))
      | .ok (segs, crc) => .next (finishWith id (.of sOk) ((noteTables id (s.ctx id.ctx) s).updCtx id.ctx (fun c => { c with
          segs, mirrorCrc := some crc, gen := BitVec.ofNat 32 (fieldOf e.pkt 0x20 4)
          replaced := some (c.segs, c.mirrorCrc, c.gen) }))) := by
  have hothers : (!bit e.flags 0 && !((s.ctx id.ctx).entries.filter
      (fun f => f.order != e.order && !(f.isFinished && (s.ctx id.ctx).held.contains (f.ring, f.seq)))).isEmpty) = false := by
    rcases hwait with hadd | hall
    · simp [hadd]
    · suffices hnone : (s.ctx id.ctx).entries.filter (fun f => f.order != e.order &&
          !(f.isFinished && (s.ctx id.ctx).held.contains (f.ring, f.seq))) = [] by rw [hnone, List.isEmpty_nil, Bool.not_true, Bool.and_false]
      refine List.filter_eq_nil_iff.mpr fun f hf => ?_
      by_cases horder : f.order = e.order
      · simp [horder]
      · obtain ⟨hfin, hheld⟩ := hall f hf horder
        simp [hfin, hheld]
  simp only [execSegSync, h.1, hothers, Bool.false_eq_true, if_false, runCmd_running h]
  cases checkTables s (s.ctx id.ctx) (bit e.flags 0) with
  | error r => rfl
  | ok x => rfl

end Sys2Proof.Machine
end

section
/-! SUPPORT. TIER_PIN over home pages and over pages of the direct window (09 R305, R306). -/

namespace Sys2Proof.Machine

variable {id : CmdId} {e f : Entry} {s u : State}

/-- A context's change leaves the pages. -/
theorem State.updCtx_pages (s : State) (n : Nat) (g : Ctx → Ctx) : (s.updCtx n g).pages = s.pages := rfl

/-- TIER_PIN over home pages goes by whether all of them are pinned once it has tried each. -/
theorem execTierPin_home (h : Running s id 0x1C03 e) (hhome : e.regionHome = true)
    (hu : u = (e.homeRegion s).foldl (State.pinPage id.ctx) s) (hf : Running u id 0x1C03 f) :
    execTierPin id s = if (e.homeRegion s).all u.pinDone then .next (finishWith id
      ⟨sOk, 0, ((e.homeRegion s).filter (fun p => (u.page p).pin == some id.ctx)).length, 0⟩ u) else .next u := by
  obtain ⟨hentry, hphase, hop⟩ := h
  subst hu
  simp only [execTierPin, hentry, hphase, hop, hhome, bne_self_eq_false, Bool.or_self, Bool.false_eq_true, if_false, if_true,
    runCmd_running hf]

/-- Page `p` is in the direct window by a claim of context `c`. -/
def State.ownsDirect (s : State) (c p : Nat) : Bool :=
  match s.directPage p with
  | some d => d.claim == .ctx c
  | none => false

/-- TIER_PIN over direct pages goes by whether all of them are claimed once it has tried each. -/
theorem execTierPin_direct (h : Running s id 0x1C03 e) (hhome : e.regionHome = false)
    (hu : u = e.directRegion.foldl (State.claimPage id.ctx) s) (hf : Running u id 0x1C03 f) :
    execTierPin id s = if e.directRegion.all (u.claimDone id.ctx) then .next (finishWith id
      ⟨sOk, 0, (e.directRegion.filter (u.ownsDirect id.ctx)).length, 0⟩ u) else .next u := by
  obtain ⟨hentry, hphase, hop⟩ := h
  subst hu
  simp only [execTierPin, hentry, hphase, hop, hhome, bne_self_eq_false, Bool.or_self, Bool.false_eq_true, if_false,
    runCmd_running hf]
  rfl

end Sys2Proof.Machine
end

section
/-! THEOREMS. Commands that finish: barrier and collectives, tokens, segments, programs and tiers. -/

namespace Sys2Proof.Machine

/-- Settles O13: each command through `runCmd` or `runRed`. -/
theorem barrierAndCollectivesFinish : Obligations.BarrierAndCollectivesFinish := by
  refine ⟨⟨fun id e s h => (runCmd_running h _ : execSysNop id s = _), fun id e s h => (runCmd_running h _ : execTimeMark id s = _),
    fun r e s h hearlier => ?_⟩,
    fun fs => reduces_of_runRed fun _ _ => rfl, fun fs => reduces_of_runRed fun _ _ => rfl,
    reduces_of_runRed fun _ _ => rfl, reduces_of_runRed fun _ _ => rfl⟩
  change execRedBarrier r s = _
  obtain ⟨hentry, hphase, hop⟩ := h
  have hleft : (s.ctx r.id.ctx).entries.any (fun f => decide (f.order < e.order) && !(s.ctx r.id.ctx).held.contains (f.ring, f.seq)) = false := by
    simpa using hearlier
  simp only [execRedBarrier, hentry, hphase, hop, hleft, bne_self_eq_false, Bool.or_self, Bool.false_eq_true, if_false]

/-- Settles O15: SYS_TOKEN_SET and PROG_RUN through `runCmd`, SEG_SYNC by the comparison of the tables. -/
theorem tokenSegAndProgramCommandsFinish : Obligations.TokenSegAndProgramCommandsFinish := by
  refine ⟨⟨fun id e s h hsig => ?_, fun id e segs crc s h hwait hcheck => ?_, fun id e r s h hwait hcheck => ?_⟩,
    fun id e s h => ⟨fun hnone hended => ?_, fun f hsome hended => ?_⟩⟩
  · change execSysTokenSet id s = _
    simp only [execSysTokenSet, h.1, hsig, Bool.false_eq_true, if_false, runCmd_running h]
  · exact (execSegSync_ready h hwait).trans (by rw [hcheck])
  · exact (execSegSync_ready h hwait).trans (by rw [hcheck])
  · change execProgRun id s = _
    simp [execProgRun, h.1, hnone, hended, runCmd_running h, runResult]
  · change execProgRun id s = _
    simp [execProgRun, h.1, hsome, hended, runCmd_running h, runResult]

/-- Settles O16: each tier command through `runCmd`, TIER_PIN by whether all its pages are done. -/
theorem tierCommandsFinish : Obligations.TierCommandsFinish := by
  refine ⟨fun id e s h hbytes => ?_, fun id e r s h hone hbytes => ?_, fun id e s h => ?_,
    fun id e f s u h hhome hu hf => ⟨fun hpins => ?_, fun p hp hpin => ?_⟩, fun id e f s u h hhome hu hf => ⟨fun hclaims => ?_, fun p hp hpin => ?_⟩,
    fun id e s h hhome => ?_, fun id e ps s h hhome hps => ?_, fun id e s h => ?_, fun id e s h hpol => ?_, fun id e s h hpol => ?_⟩
  · change execTierLayerSchedule id s = _
    rw [execTierLayerSchedule, runCmd_running h]
    simp only [hbytes, if_false]
  · change execTierLayerSchedule id s = _
    rw [execTierLayerSchedule, runCmd_running h]
    simp [hone, hbytes]
  · change execTierQuota id s = _
    rw [execTierQuota, runCmd_running h]
    simp only [State.updCtx_pages]
  · have hdone : (e.homeRegion s).all u.pinDone = true := List.all_eq_true.mpr hpins
    exact (execTierPin_home h hhome hu hf).trans (if_pos hdone)
  · have hundone : ¬(e.homeRegion s).all u.pinDone = true := fun hall => by
      simpa [State.pinDone, hpin] using List.all_eq_true.mp hall p hp
    exact (execTierPin_home h hhome hu hf).trans (if_neg hundone)
  · have hdone : e.directRegion.all (u.claimDone id.ctx) = true := List.all_eq_true.mpr fun p hp => by
      obtain ⟨d, hd, hclaim, hrel⟩ := hclaims p hp
      simp [State.claimDone, hd, hclaim, hrel]
    have hmine : e.directRegion.filter (u.ownsDirect id.ctx) = e.directRegion := List.filter_eq_self.mpr fun p hp => by
      obtain ⟨d, hd, hclaim, -⟩ := hclaims p hp
      simp [State.ownsDirect, hd, hclaim]
    exact (execTierPin_direct h hhome hu hf).trans (by rw [if_pos hdone, hmine])
  · have hundone : ¬e.directRegion.all (u.claimDone id.ctx) = true := fun hall => by
      simpa [State.claimDone, hpin] using List.all_eq_true.mp hall p hp
    exact (execTierPin_direct h hhome hu hf).trans (if_neg hundone)
  · change execTierUnpin id s = _
    rw [execTierUnpin, runCmd_running h]
    simp only [hhome, if_true]
  · change execTierUnpin id s = _
    rw [execTierUnpin, runCmd_running h]
    subst hps
    simp only [hhome, Bool.false_eq_true, if_false]
    rw [List.filter_congr (l := e.directRegion) (q := fun p => (s.directPage p).any (fun d => d.claim == .ctx id.ctx && !d.releasing))]
    intro p _
    cases s.directPage p with
    | none => rfl
    | some d => rfl
  · change execTierEvict id s = _
    rw [execTierEvict, runCmd_running h]
  · change execTierPrefetch id s = _
    rw [execTierPrefetch, runCmd_running h]
    simp [hpol, State.prefetch, CmdResult.of]
  · change execTierPrefetch id s = _
    rw [execTierPrefetch, runCmd_running h]
    simp only [hpol, if_false]

end Sys2Proof.Machine
end

section
/-! SUPPORT. TIME_SOURCE and SYS_RESET by the branch they take. -/

namespace Sys2Proof.Machine

variable {id : CmdId} {e : Entry} {s u : State}

/-- TIME_SOURCE of a source that the package has (12 R402). -/
theorem execTimeSource_present (h : Running s id 0x2402 e) (hhas : fieldOf e.pkt 0x20 1 ≠ 1 ∨ s.variant ≠ .f8l) (w : Option Word) :
    execTimeSource id w s =
      let src := fieldOf e.pkt 0x20 1
      let reference := if s.inputUp src then w else none
      let t := { s.time with source := src }
      let s := { s with time := if reference.isSome then t.present src else t }
      .next (finishWith id (.of sOk) (if s.outerLevel.isSome then chooseSource s else takeSource src reference s)) := by
  have hneg : ¬(fieldOf e.pkt 0x20 1 = 1 ∧ s.variant = .f8l) := fun hand => hhas.elim (· hand.1) (· hand.2)
  exact (runCmd_running h _).trans (by simp only [hneg, if_false])

/-- SYS_RESET that no other reset holds and whose unit is in service, or was when it began. -/
theorem execSysReset_begun (h : Running s id 0x0005 e) (hfree : s.resetRuns id = false)
    (hbegun : e.asked = true ∨ (scopeOk (fieldOf e.pkt 0x20 2 % 8) (fieldOf e.pkt 0x20 2 / 8) &&
      s.scopeUp (fieldOf e.pkt 0x20 2 % 8) (fieldOf e.pkt 0x20 2 / 8)) = true)
    (hu : u = beginReset id (fieldOf e.pkt 0x20 2 % 8) (fieldOf e.pkt 0x20 2 / 8) s) :
    execSysReset id s =
      if !u.scopeDrained (fieldOf e.pkt 0x20 2 % 8) (fieldOf e.pkt 0x20 2 / 8) then .next u
      else if ((finishEntry id (finishWith id (.of sOk) u)).entry? id).isSome then .next u
      else .next (if scopeOk (fieldOf e.pkt 0x20 2 % 8) (fieldOf e.pkt 0x20 2 / 8) &&
          s.scopeUp (fieldOf e.pkt 0x20 2 % 8) (fieldOf e.pkt 0x20 2 / 8) then
        resetScope (fieldOf e.pkt 0x20 2) (fieldOf e.pkt 0x20 2 % 8) (fieldOf e.pkt 0x20 2 / 8) (finishEntry id (finishWith id (.of sOk) u))
        else resetDone (fieldOf e.pkt 0x20 2) (finishEntry id (finishWith id (.of sOk) u))) := by
  obtain ⟨hentry, hphase, hop⟩ := h
  subst hu
  have hgo : (!e.asked && !(scopeOk (fieldOf e.pkt 0x20 2 % 8) (fieldOf e.pkt 0x20 2 / 8) &&
      s.scopeUp (fieldOf e.pkt 0x20 2 % 8) (fieldOf e.pkt 0x20 2 / 8))) = false := by
    rcases hbegun with hasked | hup
    · rw [hasked]; rfl
    · rw [hup]; exact Bool.and_false _
  simp only [execSysReset, hentry, hphase, hop, hfree, hgo, bne_self_eq_false, Bool.or_self, Bool.false_eq_true, if_false]

/-- A word's signal leaves the open loops. -/
theorem signalled_loops (i : Inst) (w : List Byte) : (signalled i w).loops = i.loops := by
  unfold signalled
  split <;> split <;> rfl

/-- SYS_SELFTEST that no other command's test holds. -/
theorem execSysSelftest_free {rs : List TestResult} (h : Running s id 0x0003 e) (hfree : ∀ x, s.selftest = some x → x.cmd = id) :
    execSysSelftest id rs s =
      if fieldOf e.pkt 0x20 1 == 1 && !drained id s then
        if s.selftest.isSome then .next s else .next { s with selftest := some ⟨id, s.now + s.stCtrl * 1000000⟩ }
      else .next (runTests id (s.ctx id.ctx).desc (fieldOf e.pkt 0x20 1 == 1) (fieldOf e.pkt 0x24 4) rs s) := by
  obtain ⟨hentry, hphase, hop⟩ := h
  have hnone : s.selftest.any (fun x => x.cmd != id) = false := by
    cases hx : s.selftest with
    | none => rfl
    | some x => simp [hfree x hx]
  simp only [execSysSelftest, hentry, hphase, hop, hnone, bne_self_eq_false, Bool.or_self, Bool.false_eq_true, if_false]

end Sys2Proof.Machine
end

section
/-! THEOREMS. Commands on power, time and security, self-test and reset, and the sequencer's own words. -/

namespace Sys2Proof.Machine

/-- Settles O17: each command through `runCmd`. -/
theorem powerTimeSecurityCommandsFinish : Obligations.PowerTimeSecurityCommandsFinish := by
  refine ⟨fun id e s h hkind => ?_, fun id e s h hkind => ?_, fun id e s h => ?_, fun id e s h hhas houter => ?_,
    fun id w e s h hhas hin => ?_, fun id w e s h hhas houter hin => ?_, fun id w e s h hsrc hvar => ?_, fun id e s h hhas houter => ?_,
    fun id e s u sig r h hsig hr => ?_, fun id e s r h hr => ?_⟩
  · refine (runCmd_running h _ : execPwrLimit id s = _).trans ?_
    simp [hkind]
  · refine (runCmd_running h _ : execPwrLimit id s = _).trans ?_
    simp [hkind]
  · change execPwrIdle id s = _
    rw [execPwrIdle, runCmd_running h]
  · refine (execTimeSource_present h hhas _).trans ?_
    have houter' : ({ s with time := { s.time with source := fieldOf e.pkt 0x20 1 } } : State).outerLevel = none := houter
    simp [houter']
  · refine (execTimeSource_present h hhas _).trans (Eq.trans ?_ (execTimeSource_present h hhas _).symm)
    simp [hin]
  · refine (execTimeSource_present h hhas _).trans ?_
    have houter' : ({ s with time := Time.present { s.time with source := fieldOf e.pkt 0x20 1 } (fieldOf e.pkt 0x20 1) } : State).outerLevel = none := houter
    simp [hin, houter']
  · refine (runCmd_running h _ : execTimeSource id w s = _).trans ?_
    simp [hsrc, hvar]
  · refine (execTimeSource_present h hhas _).trans ?_
    have houter' : ({ s with time := { s.time with source := fieldOf e.pkt 0x20 1 } } : State).outerLevel ≠ none := houter
    simp [Option.isSome_iff_ne_none, houter']
  · subst hr
    refine (runCmd_running h _ : execSecAttest id s = _).trans ?_
    simp only [hsig]
  · change execSecCert id s = _
    rw [execSecCert, runCmd_running h, hr]

/-- Settles O18: SYS_SELFTEST by its form and the drain of its scope, SYS_RESET by the unit and what it waits for. -/
theorem selftestAndResetFinish : Obligations.SelftestAndResetFinish := by
  refine ⟨fun id rs e s h hfree hform => ?_, fun id rs e s h hfree hform hdrain => ?_, fun id rs e s h hfree hform hdrain => ?_,
    fun x s hx => ?_, fun id e s u h hfree hok hup hu => ?_, fun id e s u h hfree hasked hup hu hdrain hgone => ?_,
    fun id e s h hfree hasked hup => ?_, fun id e s h hruns => ?_⟩
  · refine (execSysSelftest_free h hfree).trans ?_
    simp [beq_eq_false_iff_ne.mpr hform]
  · refine (execSysSelftest_free h hfree).trans ?_
    simp [hform, hdrain]
  · refine (execSysSelftest_free h (fun x hx => by simp [hfree] at hx)).trans ?_
    simp [hform, hdrain, hfree]
  · change execSelftestDrainTimeout s = _
    simp only [execSelftestDrainTimeout, hx]
  · have hbegun := execSysReset_begun h hfree (.inr (by rw [hok, hup]; rfl)) hu
    refine ⟨fun hdrain hgone => hbegun.trans ?_, fun hwait => hbegun.trans ?_⟩
    · simp [hdrain, hgone, hok, hup]
    · rcases hwait with hdrain | hstays
      · simp [hdrain]
      · simp [Option.isSome_iff_ne_none, hstays]
  · refine (execSysReset_begun h hfree (.inl hasked) hu).trans ?_
    simp [hdrain, hgone, hup]
  · obtain ⟨hentry, hphase, hop⟩ := h
    change execSysReset id s = _
    simp [execSysReset, hentry, hphase, hop, hfree, hasked, hup]
  · obtain ⟨hentry, hphase, hop⟩ := h
    change execSysReset id s = _
    simp [execSysReset, hentry, hphase, hop, hruns]

/-- Settles O19: `progWord_pass` at each word. -/
theorem sequencerWordsPass : Obligations.SequencerWordsPass := by
  refine fun t c i e w s hm => ⟨fun h => ?_, fun h => ?_, fun ls l h hloops hmore => ?_, fun ls l h hloops hlast => ?_, fun h hops => ?_⟩
  · change execProgNop t c s = _
    rw [execProgNop, progWord_pass h hm _ rfl]
    simp only [signalled_loops]
  · change execProgLoop t c s = _
    rw [execProgLoop, progWord_pass h hm _ rfl]
  · change execProgEndloop t c s = _
    rw [execProgEndloop, progWord_pass h hm _ rfl]
    simp only [hloops, List.getLast?_concat, hmore, if_true, List.dropLast_concat]
  · change execProgEndloop t c s = _
    rw [execProgEndloop, progWord_pass h hm _ rfl]
    simp only [hloops, List.getLast?_concat, Nat.not_lt.mpr hlast, if_false, List.dropLast_concat]
  · change execProgDrain t c s = _
    rw [execProgDrain, progWord_pass h hm _ (List.isEmpty_iff.mpr hops)]
    simp only [signalled_loops]

end Sys2Proof.Machine
end

section
/-! SUPPORT. Engine ops whose command is `issueOrStart` of their implementation. -/

namespace Sys2Proof.Machine

variable {mk : Nat → Nat → Instr} {op : Nat} {m : OpImpl}

theorem issuesTo_of_exec (h : ∀ t c s, exec (mk t c) s = issueOrStart op m t c s) : IssuesTo mk op m := fun t c _ _ _ s hat hready htok hroom =>
  (h t c s).trans (issueOrStart_issue hat hready htok hroom)

theorem startsFrom_of_exec (h : ∀ t c s, exec (mk t c) s = issueOrStart op m t c s) : StartsFrom mk op m := fun t c _ _ _ s hrun hphase hready hroom =>
  (h t c s).trans (issueOrStart_start hrun hphase hready hroom)

end Sys2Proof.Machine
end

section
/-! SUPPORT. Tokens and signals of a run (04 R140 to R146). -/

namespace Sys2Proof.Machine

variable {i : Inst} {n : Nat}

/-- Where no op's signal is held for token `n`, none is made by taking a count. -/
theorem Inst.releaseSignal_of_none {words : List (List Byte)}
    (h : ∀ o ∈ i.ops, o.sigSince.isSome = true → wordSig (words.getD o.word []) ≠ n) : i.releaseSignal words n = i := by
  have hnone : i.ops.filter (fun o => o.sigSince.isSome && wordSig (words.getD o.word []) == n) = [] :=
    List.filter_eq_nil_iff.mpr fun o ho => by
      by_cases hsig : o.sigSince.isSome = true
      · rw [hsig, beq_eq_false_iff_ne.mpr (h o ho hsig)]
        exact Bool.false_ne_true
      · simp [hsig]
  simp only [Inst.releaseSignal, hnone, List.find?_nil]

/-- Taking a count of token `n`, where no signal waits for its room. -/
theorem Inst.takeToken_tokens {words : List (List Byte)}
    (h : ∀ o ∈ i.ops, o.sigSince.isSome = true → wordSig (words.getD o.word []) ≠ n) :
    (i.takeToken words n).1.tokens = setAt i.tokens n (i.token n - 1) := by
  have hrel := Inst.releaseSignal_of_none (i := { i.setToken n (i.token n - 1) with told := setAt i.told n ((i.told.getD n []).drop 1) }) h
  rw [Inst.takeToken, hrel]
  rfl

/-- A fold whose steps change nothing. -/
theorem foldl_fixed {α β : Type} {g : α → β → α} {a : α} (h : ∀ b, g a b = a) : ∀ l : List β, l.foldl g a = a
  | [] => rfl
  | b :: l => by rw [List.foldl_cons, h, foldl_fixed h l]

/-- A run without ops has no data reads to drop. -/
theorem State.dropOpReads_of_no_ops {s : State} (h : i.ops = []) : s.dropOpReads i = s := by
  unfold State.dropOpReads
  extract_lets words mine
  have hmine (r : PcRead) : mine r = false := by
    simp only [mine, words, h]
    split <;> simp
  refine foldl_fixed (fun e => ?_) _
  refine foldl_fixed (fun q => ?_) _
  simp [hmine]

/-- A core that stops with no op keeps its run as it is. -/
theorem releaseRun_of_no_ops {t c : Nat} {ds : List OpStop} {k : Core} {e : Entry} {s : State} (h : i.ops = []) :
    releaseRun t c ds k i e s = holdCore t c { k with save := (k.save.write 0 (seqRecord i)).write 0x3000 (paneRecord i false) } i s := by
  have hfault : i.paneFault = false := by rw [Inst.paneFault, h, List.any_nil]
  have hstop : stopOps ds t c k e s i = { s, k, i } := by rw [stopOps, h, List.foldl_nil]
  have hundo : i.undoSwap e.image.words = i := by
    unfold Inst.undoSwap
    rw [h]
    cases i.swapOut <;> rfl
  simp [releaseRun, hstop, hfault, hundo, State.dropOpReads_of_no_ops h]

/-- Only an op of a stepping word is at work on tiles. -/
theorem Inst.stepping_wordStep {eng : Engine} {words : List (List Byte)} {o : OpRec} (h : i.stepping eng words = some o) :
    wordStep (words.getD o.word []) = true := by
  unfold Inst.stepping at h
  split at h
  · split at h
    · next hstep => cases h; exact hstep
    · cases h
  · cases h

end Sys2Proof.Machine
end

section
/-! THEOREMS. Engine ops, runs, program tokens, tile steps, swaps and pre-emption. -/

namespace Sys2Proof.Machine

/-- Settles O20: every engine word's command is `issueOrStart` of its implementation. -/
theorem engineOpsIssueAndStart : Obligations.EngineOpsIssueAndStart := by
  constructor
  · refine ⟨?_, ?_, ?_, ?_, ?_, ?_, ?_, ?_, ?_, ?_, ?_, ?_, ?_, ?_, ?_, ?_, ?_, ?_, ?_, ?_, ?_, ?_⟩ <;>
      exact issuesTo_of_exec fun _ _ _ => rfl
  · refine ⟨?_, ?_, ?_, ?_, ?_, ?_, ?_, ?_, ?_, ?_, ?_, ?_, ?_, ?_, ?_, ?_, ?_, ?_, ?_, ?_, ?_, ?_⟩ <;>
      exact startsFrom_of_exec fun _ _ _ => rfl

/-- Settles O22: a run's start, its end, and the two ways in which a kept run goes on. -/
theorem runsStartAndEnd : Obligations.RunsStartAndEnd := by
  refine ⟨fun id idx t c e s hentry hphase hwork hsound hidx hnew hscope htakes hrival => ?_,
    fun t c i e s hrun hops hpc hcut hprog => ?_, fun t c i e s hrun hops hpc hcut hprog => ?_,
    fun t c i s hrun hheld hidle => ?_, fun t c i e s hrun hentry hstate hrest => ?_⟩
  · change execInstanceStart id idx t c s = _
    simp [execInstanceStart, hentry, hphase, hwork, hsound, hidx, hnew, hscope, htakes, hrival]
  · obtain ⟨hrun, hentry, hstate⟩ := hrun
    change execInstanceEnd t c s = _
    simp [execInstanceEnd, hrun, hentry, hstate, endRun, runOver, hops, hpc, hcut, hprog]
  · obtain ⟨hrun, hentry, hstate⟩ := hrun
    change execInstanceEnd t c s = _
    simp [execInstanceEnd, hrun, hentry, hstate, endRun, runOver, hops, hpc, hcut, hprog]
    split <;> rfl
  · change execInstanceEnd t c s = _
    simp [execInstanceEnd, hrun, hheld, hidle]
  · change execInstanceEnd t c s = _
    simp [execInstanceEnd, hrun, hentry, hstate, hrest]

/-- Settles O23: a token taken, an op's end by its signal, and a hold that reaches the limit. -/
theorem programTokens : Obligations.ProgramTokens := by
  refine ⟨fun t c i j q e w s h hwait hstep htaken hcount htake => ⟨?_, fun hfree => ?_⟩,
    fun t c eng i e o w s hrun hold hdone hw => ⟨fun hend => ?_, fun hsound hsig hstep hnew hroom => ⟨?_, rfl⟩, fun hsound hsig hstep hnew hfull => ?_⟩,
    fun t c n i e s hrun hentry hhold hms => ?_⟩
  · obtain ⟨hrun, hentry, hword, -, hstate, hphase, hsound⟩ := h
    change execProgTokenWaitSatisfied t c s = _
    simp [execProgTokenWaitSatisfied, hrun, hentry, hword, hstate, hphase, hsound, hwait, hstep, htaken, hcount, htake]
  · rw [← Inst.takeToken_tokens hfree, htake]
  · obtain ⟨hrun, hentry, hstate⟩ := hrun
    change execTileOpComplete t c eng s = _
    subst hw
    rcases hend with hfail | ⟨hsig, hstep⟩ | ⟨hstep, hdue, hsince⟩ | ⟨hstep, hmade⟩
    · simp [execTileOpComplete, hrun, hentry, hstate, hold, hdone, hfail]
    · simp [-List.getD_eq_getElem?_getD, execTileOpComplete, hrun, hentry, hstate, hold, hdone, hsig, hstep]
    · simp [-List.getD_eq_getElem?_getD, execTileOpComplete, hrun, hentry, hstate, hold, hdone, hstep, hdue, hsince]
    · simp [-List.getD_eq_getElem?_getD, execTileOpComplete, hrun, hentry, hstate, hold, hdone, hstep, hmade]
  · obtain ⟨hrun, hentry, hstate⟩ := hrun
    change execTileOpComplete t c eng s = _
    subst hw
    simp [-List.getD_eq_getElem?_getD, execTileOpComplete, hrun, hentry, hstate, hold, hdone, hsound, hsig, hstep, hnew, hroom]
  · obtain ⟨hrun, hentry, hstate⟩ := hrun
    change execTileOpComplete t c eng s = _
    subst hw
    simp [-List.getD_eq_getElem?_getD, execTileOpComplete, hrun, hentry, hstate, hold, hdone, hsound, hsig, hstep, hnew, Nat.not_lt.mpr hfull]
  · change execProgTokenHoldTimeout t c s = _
    simp [execProgTokenHoldTimeout, hrun, hentry, hhold, hms, waitLimitNs, evWaitLimit]

/-- Settles O24: a tile step, its held signal, a swap, and the releases of a stopping core. -/
theorem stepsSwapsAndPreemption : Obligations.StepsSwapsAndPreemption := by
  refine ⟨fun t c eng i h j l e o p m n w r q x s hrun hstep hw hdue hsince hsound hwarm hheld hrow htake hj hp htile hsignal hroom => ?_,
    fun t c eng i e o w j s hrun hstep hw hsig hsound hreads hroom hj => ?_,
    fun t c i e o s hrun hphase hop hwants hswap hfull hsettled => ⟨?_, ?_⟩,
    fun t c n ds i e s hrun hstate hheld hrest hentry => ⟨fun hfault => ?_, fun hfault hroom => ?_, fun hops => ?_⟩,
    fun t c n ds i s hrun hstate hheld hrest hfault => ?_⟩
  · obtain ⟨hrun, hentry, hstate⟩ := hrun
    change execTileStepWait t c eng s = _
    have hidle : (o.failed || (eng == .mx && !(s.core t c).warm && !(s.core t c).admitted) || i.tileHeld e.image.words o) = false := by
      rw [hsound, hheld, Bool.or_false, Bool.false_or]
      by_cases hmx : eng = .mx
      · rcases hwarm hmx with hw | hw <;> simp [hw]
      · simp [hmx]
    subst hw hj hp
    have hnew : (o.sigDue || o.sigSince.isSome) = false := by rw [hdue, hsince]; rfl
    simp only [execTileStepWait, hrun, hentry, hstep, hstate, hnew, hidle, hrow, ← htake, htile, hsignal, hroom, bne_self_eq_false,
      Bool.false_eq_true, if_false]
  · obtain ⟨hrun, hentry, hstate⟩ := hrun
    change execTileStepWait t c eng s = _
    have hdue : (o.sigDue || o.sigSince.isSome) = true := by simpa using hsig
    subst hw hj
    simp [-List.getD_eq_getElem?_getD, execTileStepWait, hrun, hentry, hstep, hstate, hdue, signalTile, hsound, hreads, hroom, OpRec.tells, Inst.stepping_wordStep hstep]
  · obtain ⟨hrun, hentry, hstate⟩ := hrun
    change execStreamSwap t c s = _
    simp [-List.getD_eq_getElem?_getD, execStreamSwap, hrun, hentry, hstate, hphase, hop, hwants, hswap, hfull, hsettled]
  · unfold swapStart
    split <;> rfl
  · change execPreemptRelease t _ s = _
    simp [execPreemptRelease, hrun, hstate, hheld, hfault]
  · change execPreemptRelease t _ s = _
    simp [execPreemptRelease, hrun, hstate, hheld, hfault, hrest, hentry, State.orWait, hroom]
  · rw [releaseRun_of_no_ops hops]
    rfl
  · change execPreemptRelease t _ s = _
    simp [execPreemptRelease, hrun, hstate, hheld, hfault, hrest]

end Sys2Proof.Machine
end

section
/-! SUPPORT. Row arrivals, run-ahead reads and remote gathers, by the branch they take (08 R266 to R281). -/

namespace Sys2Proof.Machine

variable {t c pos addr : Nat} {i : Inst} {e : Entry} {o : OpRec} {s : State}

/-- A row that was asked for, has not arrived and whose line reads are served goes by what its read gives. -/
theorem execRowArrival_served {g : GaOp} {p : GaPos} {x : Exec} (h : Runs s t c i e) (hop : i.gathering = some o) (hga : o.ga = some g)
    (hpos : g.poss[pos]? = some p) (haddr : p.addr = some addr) (hasked : p.asked = true) (hnew : p.arrived = false)
    (hx : x = Exec.of s (s.core t c) i t c e o)
    (hserved : s.linesPending (x.reader (whereSeg (x.table 0).t.where_)) addr (x.table 0).t.rowBytes = false) :
    execRowArrival t c pos s = match x.arrivedRow (x.table 0).t p addr with
      | .error er => .next ((x.failMem (whereSeg (x.table 0).t.where_) addr er).closeGather o g)
      | .ok data =>
        let (y, g) := ({ x with s := x.s.unkeep addr } : Exec).tryOut { g with poss := g.poss.set pos { p with arrived := true, data } } p.out
        let (y, g) := if y.err.isSome then (y, g) else y.askRows g
        if y.s.overfull then .next s else .next (y.closeGather o g) := by
  obtain ⟨hrun, hentry, hstate⟩ := h
  subst hx
  simp only [execRowArrival, hrun, hentry, hop, hga, hpos, haddr, hasked, hnew, hstate, hserved, bne_self_eq_false, Bool.not_true,
    Bool.or_self, Bool.false_eq_true, if_false] <;>
    rfl

/-- A run-ahead read that nothing stands in the way of. -/
theorem execRunAheadRead_ready {r : Ahead} {x : Exec} {bs : List Byte} (h : Runs s t c i e) (hop : i.gaCurrent = some o)
    (hr : aheadOf s (s.core t c) i e t c pos = some r) (hx : x = Exec.of s (s.core t c) i t c e o)
    (hlo : (o.ga.getD {}).slotEnd (x.table 0).t.dims x.isBag ≤ pos) (hhi : pos < (o.ga.getD {}).slotEnd (x.table 0).t.dims x.isBag + 64)
    (hsize : r.off + r.t.rowBytes ≤ r.seg.size) (htype : r.seg.type ≠ 2) (hread : s.readMem r.addr r.t.rowBytes = .ok bs)
    (hroom : (s.core t c).runAhead.length < 64) (hnew : ∀ r ∈ (s.core t c).runAhead, r.pos ≠ pos) :
    execRunAheadRead t c pos s =
      let u := s.setCore t c { s.core t c with runAhead := (s.core t c).runAhead ++ [⟨pos, r.addr, bs⟩] }
      let u := match r.index with
        | some (a, m) => if u.linesPending (.ahead t c) a m then u else u.readAhead t c a m
        | none => u
      .next (u.readAhead t c r.addr r.t.rowBytes) := by
  obtain ⟨hrun, hentry, hstate⟩ := h
  subst hx
  have hnone : (s.core t c).runAhead.any (fun r => r.pos == pos) = false := by simpa using hnew
  simp only [execRunAheadRead, hrun, hentry, hop, hr, hread, hstate, hlo, hhi, hsize, bne_iff_ne.mpr htype, hroom, hnone, beq_self_eq_true,
    decide_true, Bool.not_false, Bool.and_self, if_true] <;>
    rfl

/-- A remote gather of a package in a gang reads from its first line. -/
theorem execRemoteGatherRequest_member {src : Origin} {len : Nat} (h : s.gang.addr ≠ none) :
    execRemoteGatherRequest src addr len s =
      .next (s.serveRead src (lineOf (addr % 2 ^ 40)) ((linesOf (addr % 2 ^ 40) len).length * 64)) := by
  simp only [execRemoteGatherRequest, Option.isNone_iff_eq_none, h, if_false]

end Sys2Proof.Machine
end

section
/-! SUPPORT. An accumulate as it is applied (08 R286 to R289). -/

namespace Sys2Proof.Machine

variable {n errs : Nat} {a : Acc} {s u : State}

/-- An accumulate whose read is not queued is applied, where its write finds room. -/
theorem execAccumulateApply_now (ha : s.accs[n]? = some a) (hpending : s.accPending a = false)
    (hroom : s.noRoom [lineOf (s.localAddr a.addr)] = false) : execAccumulateApply ⟨n, errs⟩ s = .next (applyAcc n a errs s) := by
  simp only [execAccumulateApply, ha, hpending, hroom, Bool.not_false, if_true, Bool.false_eq_true, if_false]

/-- The state in which an accumulate reads its line. -/
def State.accRead (s : State) (n errs : Nat) (a : Acc) : State :=
  let u := readCode a.addr errs (State.forwardAcc a { s with accs := s.accs.eraseIdx n })
  if a.own then u.unkeep a.addr else u

theorem applyAcc_ok {line : List Byte} (h : (s.accRead n errs a).readMem a.addr 64 = .ok line) :
    applyAcc n a errs s = ackAccumulate a (a.apply line).2 none
      ((((s.accRead n errs a).poke a.addr (a.apply line).1).scramble a.shared).noteAccumulate a) := by
  unfold State.accRead at h ⊢
  simp only [applyAcc, h]

theorem applyAcc_uncorrectable (h : (s.accRead n errs a).readMem a.addr 64 = .error .uncorrectable) :
    applyAcc n a errs s = ackAccumulate a false (some .uncorrectable) (s.accRead n errs a) := by
  unfold State.accRead at h ⊢
  simp [applyAcc, h]

end Sys2Proof.Machine
end

section
/-! THEOREMS. Events of the gather engine and its adder, of the panes, and of the memory tiers. -/

namespace Sys2Proof.Machine

/-- Settles O25: each event by its branch lemma. -/
theorem gatherAndAdderEventsComplete : Obligations.GatherAndAdderEventsComplete := by
  refine ⟨⟨fun t c pos addr i e o g p x s hrun hop hga hpos haddr hasked hnew hx hserved =>
      ⟨fun bs y z h k hread hout herr hask hroom => ?_, fun er hread => ?_⟩,
    fun t c pos i e o r x bs s u hrun hop hr hx hlo hhi hsize htype hread hroom hnew hu => ⟨fun hindex => ?_, fun a n hindex hdone => ?_⟩,
    fun src addr len lo n s hgang hlo hn => ?_⟩, fun n errs a u s ha hpending hroom hu hown => ?_,
    fun n errs a u s ha hpending hroom hu hown => ?_, fun n errs a r s ha hpending hserv hstate hnext hwho hline => ?_⟩
  · refine (execRowArrival_served hrun hop hga hpos haddr hasked hnew hx hserved).trans ?_
    simp [hread, hout, herr, hask, hroom]
  · refine (execRowArrival_served hrun hop hga hpos haddr hasked hnew hx hserved).trans ?_
    simp only [hread]
  · refine (execRunAheadRead_ready hrun hop hr hx hlo hhi hsize htype hread hroom hnew).trans ?_
    simp only [hindex, hu]
  · refine (execRunAheadRead_ready hrun hop hr hx hlo hhi hsize htype hread hroom hnew).trans ?_
    simp only [hindex, ← hu, hdone, Bool.false_eq_true, if_false]
  · have hexec : exec (.remoteGatherRequest src addr len) s = .next (s.serveRead src lo n) := by
      rw [hlo, hn]
      exact execRemoteGatherRequest_member hgang
    refine ⟨fun bs hbs hdone => ?_, fun bs hbs hdone => ?_, fun hbs => ?_⟩
    · rw [hexec]
      simp [State.serveRead, hbs, State.readFor, hdone]
    · rw [hexec]
      simp [State.serveRead, hbs, State.readFor, hdone]
    · rw [hexec]
      simp [State.serveRead, hbs]
  · have hread : u = s.accRead n errs a := by rw [hu]; simp only [State.accRead, hown, Bool.false_eq_true, if_false]
    subst hread
    exact ⟨fun line hok => (execAccumulateApply_now ha hpending hroom : execAccumulateApply _ s = _).trans (by rw [applyAcc_ok hok]),
      fun herr => (execAccumulateApply_now ha hpending hroom : execAccumulateApply _ s = _).trans (by rw [applyAcc_uncorrectable herr])⟩
  · have hread : u = s.accRead n errs a := by rw [hu]; simp only [State.accRead, hown, if_true]
    subst hread
    exact ⟨fun line hok => (execAccumulateApply_now ha hpending hroom : execAccumulateApply _ s = _).trans (by rw [applyAcc_ok hok]),
      fun herr => (execAccumulateApply_now ha hpending hroom : execAccumulateApply _ s = _).trans (by rw [applyAcc_uncorrectable herr])⟩
  · change execAccumulateApply _ s = _
    simp [execAccumulateApply, ha, hpending, hserv, hstate, hnext, hwho, hline]

/-- Settles O26: each event by its guard. -/
theorem paneEventsComplete : Obligations.PaneEventsComplete := by
  refine ⟨fun t c s => rfl, fun t at' f u s hat hfrom hle hu => ?_, fun t c at' s hlimit hat => ?_,
    fun t c g s hgap hkeep hwarm hnone hserv => ?_, fun t c d s hcold hwarm => ?_, fun u g id s hfind hdue hgone => ?_⟩
  · change execLouvreSlot t s = _
    subst hat hu
    simp only [execLouvreSlot, hfrom, Nat.not_lt.mpr hle, if_false]
  · change execIssueLimitStep t c s = _
    subst hat
    simp only [execIssueLimitStep, hlimit, if_true]
  · change execKeepWarmGap t c _ s = _
    simp [execKeepWarmGap, hgap, hkeep, hwarm, hnone, hserv]
  · change execCoreCold t c s = _
    simp only [execCoreCold, hcold, hwarm, if_true]
  · change execUnitFence u s = _
    simp only [execUnitFence, hfind, hdue, hgone, Option.isSome_none, Bool.false_eq_true, if_false]

/-- Settles O27: each event by its guard. -/
theorem tierEventsComplete : Obligations.TierEventsComplete := by
  refine ⟨fun s u hu => ?_, fun s hpages => ?_, fun p g s u hpages hhot hhome hdef hu => ?_, fun p k r s hnext hready hstall hagain => ?_,
    fun p s hstall => ?_, fun p v s u w hmig hnone hdraw hw => ?_, fun a ep data s u ha hep hroom hwrite => ?_,
    fun p d s hd hrel hholds hnone => ?_⟩
  · change execHeatDecay s = _
    subst hu
    rfl
  · change execTierScan s = _
    have hpages' : (advanceTo (nextMultiple s.now (1000 * bits s.tierCfg 23 16)) s).pages = [] := hpages
    unfold execTierScan
    generalize advanceTo (nextMultiple s.now (1000 * bits s.tierCfg 23 16)) s = u at hpages' ⊢
    simp [hpages']
  · change execTierScan s = _
    have hpages' : u.pages = [(p, g)] := by rw [hu]; exact hpages
    have hhot' : u.hot g = true := by rw [hu]; exact hhot
    have hpage : u.page p = g := by simp [State.page, hpages', Table.get]
    simp [execTierScan, ← hu, hpages', hhot', hdef, insertHot, hpage, hhome]
  · change execMigrationCopy p s = _
    have hfree : ((s.page p).target[k]?).any (fun t => !s.slotReady p t) = false := by
      cases htarget : (s.page p).target[k]? with
      | none => rfl
      | some t => simp [hready t htarget]
    simp [execMigrationCopy, hnext, hstall, hfree, hagain]
  · change execMigrationCopy p s = _
    simp only [execMigrationCopy, hstall, Bool.true_or, if_true]
    split <;> rfl
  · change execMigrationFreeze p s = _
    subst hw
    simp [execMigrationFreeze, hmig, hnone, hdraw]
  · change execStaleEpochForward a ep data s = _
    simp [execStaleEpochForward, Nat.not_le.mpr ha, hep, hroom, hwrite]
  · change Host.Outcome.next (s.settleDirect p) = _
    simp [State.settleDirect, hd, hrel, hholds, hnone]

end Sys2Proof.Machine
end

section
/-! SUPPORT. Reads of the memory controllers and the map-out of a pseudo-channel, by the branch they take (10 R330 to R350). -/

namespace Sys2Proof.Machine

variable {n p errs : Nat} {r : PcRead} {s w : State} {bad : Bool}

theorem refreshUp_eq_three {temp : Int} : refreshUp temp = 3 ↔ 105 < temp := by
  unfold refreshUp
  (repeat' split) <;> simp <;> omega

/-- A read that is served otherwise than by an accumulate of its line. -/
theorem execHbmReadServe_read (hserv : (s.stack n).inService = true) (hstate : (s.pc n p).state ≠ .recalibrating)
    (hnext : s.nextRead n p = some r) (hacc : r.who ≠ .adder ∨ s.accAt r.line = none)
    (hread : servedRead r errs (s.popRead n p r) = (w, bad)) :
    execHbmReadServe n p errs s = .next ((if bad then failReader r w else giveReader r w).admitHeld n p) := by
  have hnone : (if r.who == .adder then s.accAt r.line else none) = none := by
    rcases hacc with hwho | hnone
    · simp [hwho]
    · simp [hnone]
  simp only [execHbmReadServe, hserv, hnext, hnone, hread, Bool.not_true, beq_eq_false_iff_ne.mpr hstate, Bool.or_self, Bool.false_eq_true,
    if_false]

/-- The 250 ms between recalibrations, and the temperature's drift where that is the cause. -/
theorem State.recalDue_of {t : Nat} {cause : RecalCause} (hgap : ∀ l, (s.pc n p).lastCal = some l → l + 250000000 ≤ t)
    (hdrift : cause = .temperature → 8 ≤ ((s.stack n).temp - s.calTemp n p).natAbs) : s.recalDue n p t cause = true := by
  unfold State.recalDue
  simp only [Bool.and_eq_true]
  constructor
  · split
    · next l hl => exact decide_eq_true (hgap l hl)
    · rfl
  · cases cause with
    | temperature => exact decide_eq_true (hdrift rfl)
    | laneErrors | period => rfl

end Sys2Proof.Machine
end

section
/-! THEOREMS. Events of the HBM stacks. -/

namespace Sys2Proof.Machine

/-- Settles O29: each event by its guard. -/
theorem hbmEventsComplete : Obligations.HbmEventsComplete := by
  refine ⟨⟨fun n r temp s hserv htemp hr => ?_, fun n r temp s hserv htemp hr => ?_, fun n p errs s hserv hstate hnext => ?_,
      fun n p errs r bad s u w hserv hstate hnext hu hacc hread => ?_, fun n p errs i r a s hserv hstate hnext hwho hacc => ?_,
      fun n p r s hfind => ?_, fun a data s u ha hroom hwrite => ?_, fun a errs l s ha hserv hline => ?_, fun a errs s ha hserv hline => ?_,
      fun a errs s ha => ?_, fun g s hg hmove hstall => ?_⟩,
    fun n p t cause s hmay ht hgap hdrift => ?_, fun n p margin s hstate => ⟨fun hend => ?_, fun hmargin hbefore => ?_⟩,
    fun n p s hserv hstate hrate => ?_,
    fun n p failed s u hserv hmap hu => ⟨fun hstage => ?_, fun hstage hstall => ?_, fun hstage hstall => ?_⟩,
    fun n p d s u hd hu => ⟨fun hmore => ?_, fun hlast => ?_⟩⟩
  · change execHbmTempRead n temp s = _
    have hup : refreshUp temp ≠ 3 := mt refreshUp_eq_three.mp (Int.not_lt.mpr htemp)
    simp [execHbmTempRead, hserv, hup, hr]
  · change execHbmTempRead n temp s = _
    simp [execHbmTempRead, hserv, refreshUp_eq_three.mpr htemp, hr]
  · change execHbmReadServe n p errs s = _
    simp [execHbmReadServe, hserv, hstate, hnext]
  · have hserve : exec (.hbmReadServe n p errs) s = _ := execHbmReadServe_read hserv hstate hnext hacc (hu ▸ hread)
    refine ⟨fun hbad => ?_, fun t c hbad hwho => ?_, fun hbad => ?_⟩
    · rw [hserve, hbad, if_pos rfl]
    · rw [hserve, hbad, if_neg Bool.false_ne_true, giveReader, hwho]
    · rw [hserve, hbad, if_neg Bool.false_ne_true]
  · change execHbmReadServe n p errs s = _
    simp [execHbmReadServe, hserv, hstate, hnext, hwho, hacc, serveAdder]
  · change execReadAgePromote n p s = _
    simp only [execReadAgePromote, hfind]
  · change execWriteQueueEnter a data s = _
    simp [execWriteQueueEnter, Nat.not_le.mpr ha, hroom, hwrite]
  · change execScrubRead a errs s = _
    simp [execScrubRead, Nat.not_le.mpr ha, hserv, hline]
  · change execScrubRead a errs s = _
    simp [execScrubRead, Nat.not_le.mpr ha, hserv, hline]
  · change execScrubRead a errs s = _
    simp only [execScrubRead, ha, if_true]
  · change execGranuleMove g s = _
    simp [execGranuleMove, hg, hmove, hstall]
  · change execRecalibration n p cause s = _
    subst ht
    simp only [execRecalibration, hmay, State.recalDue_of hgap hdrift, Bool.and_self, if_true]
    rfl
  · change execRecalibrationDone n p margin s = _
    rcases hend with hmargin | hbefore
    · simp [execRecalibrationDone, hstate, hmargin]
    · simp [execRecalibrationDone, hstate, hbefore]
  · change execRecalibrationDone n p margin s = _
    simp [execRecalibrationDone, hstate, hmargin, hbefore]
  · change execDegradingErrorRate n p s = _
    simp [execDegradingErrorRate, hserv, hstate, hrate]
  · change execMapoutGranuleStep ⟨n, failed⟩ s = _
    simp [execMapoutGranuleStep, hmap, hserv, hstage, hu]
  · change execMapoutGranuleStep ⟨n, failed⟩ s = _
    simp [execMapoutGranuleStep, hmap, hserv, hstage, ← hu, hstall]
  · change execMapoutGranuleStep ⟨n, failed⟩ s = _
    simp [execMapoutGranuleStep, hmap, hserv, hstage, ← hu, hstall]
  · subst hd hu
    simp only [mapoutPieces, ge_iff_le, Nat.not_le.mpr hmore, if_false]
    rfl
  · subst hd hu
    simp only [mapoutPieces, ge_iff_le, hlast, if_true]
    rfl

end Sys2Proof.Machine
end

section
/-! SUPPORT. Lines that an Ultur core holds (03 R91, R117): nothing is asked for, and the access goes on. -/

namespace Sys2Proof.Machine

variable {t u : Nat} {ls : List Nat} {s : State}

theorem fillLine_of_held {errs l : Nat} (h : l ∈ (s.ucore t u).lines) : fillLine t u errs s l = s := by
  simp [fillLine, h]

theorem needLines_of_held {errs : Nat} : ∀ {ls : List Nat}, (∀ l ∈ ls, l ∈ (s.ucore t u).lines) → needLines t u errs ls s = s
  | [], _ => rfl
  | l :: ls, h => by
    rw [needLines, List.foldl_cons, fillLine_of_held (h l List.mem_cons_self)]
    exact needLines_of_held fun k hk => h k (List.mem_cons_of_mem _ hk)

theorem State.missing_of_held (h : ∀ l ∈ ls, l ∈ (s.ucore t u).lines) : s.missing t u ls = [] := by
  simp only [State.missing, List.filter_eq_nil_iff]
  intro l hl
  simp [h l hl]

theorem UCore.linesAre_of_held {x : UCore} (h : ∀ l ∈ ls, l ∈ x.lines ∧ l ∉ x.badFills) : x.linesAre ls = .ready := by
  have hbad : ls.any x.badFills.contains = false := by simpa using fun l hl => (h l hl).2
  have hall : ls.all x.lines.contains = true := by simpa using fun l hl => (h l hl).1
  simp only [UCore.linesAre, hbad, hall, Bool.false_eq_true, if_false, if_true]

end Sys2Proof.Machine
end

section
/-! SUPPORT. Loads and stores of an Ultur core by what their address names. -/

namespace Sys2Proof.Machine

variable {t u a w : Nat} {l : LoadOf} {s : State}

/-- The address names the memory of a package or of its direct window. -/
def Region.isMemory : Region → Bool
  | .home _ | .direct _ | .remote _ _ => true
  | _ => false

/-- A load of memory whose bytes no store holds back. -/
theorem execHostLoad_memory {f : List (Option Nat)} (hruns : s.ucoreRuns t u = true) (hok : forbidden a w l.kind = false)
    (hregion : (regionOf a).isMemory = true)
    (hf : f = if l.kind = .fetch then List.replicate w none else forwards (s.ucore t u).buffer a w) (hdrain : needsDrain f = false)
    (htracks : (s.ucore t u).tracks a f = false) (hlr : l.kind = .lr → (s.ucore t u).noStores = true) :
    execHostLoad t u a w l s = .next (loadMemory t u a w l f s) := by
  have hf' : (if l.kind == .fetch then List.replicate w none else forwards (s.ucore t u).buffer a w) = f := by
    rw [hf]
    simp only [beq_iff_eq]
  have hgo : (needsDrain f || (s.ucore t u).tracks a f || (l.kind == .lr && !(s.ucore t u).noStores)) = false := by
    by_cases hk : l.kind = .lr
    · simp [hdrain, htracks, hlr hk]
    · simp [hdrain, htracks, hk]
  simp only [execHostLoad, hruns, hok, Bool.not_true, Bool.false_eq_true, if_false]
  cases hr : regionOf a <;> simp only [hr, Region.isMemory, Bool.false_eq_true] at hregion <;>
    simp only [hf', hgo, Bool.false_eq_true, if_false]

/-- What a load gives changes no address. -/
theorem giveLoad_localAddr {k : AccKind} {f : List (Option Nat)} {b : Nat} : (giveLoad t u a w k f s).localAddr b = s.localAddr b := by
  unfold giveLoad
  split <;> rfl

/-- A load of local memory whose lines the core holds. -/
theorem loadLocal_held {f : List (Option Nat)}
    (h : ∀ k ∈ linesOf (s.localAddr a) w, k ∈ (s.ucore t u).lines ∧ k ∉ (s.ucore t u).badFills) :
    loadLocal t u a w l f s =
      if s.localAddr a = a && !l.nc then (giveLoad t u a w l.kind f s).updUcore t u (UCore.touch (l.kind == .fetch) (linesOf (s.localAddr a) w))
      else (giveLoad t u a w l.kind f s).updUcore t u (fun x => { x with
        lines := x.lines.filter (fun k => !(linesOf (s.localAddr a) w).contains k || (x.l1i ++ x.l1d).contains k) }) := by
  have hlines : ∀ k ∈ linesOf (s.localAddr a) w, k ∈ (s.ucore t u).lines := fun k hk => (h k hk).1
  simp only [loadLocal, State.missing_of_held hlines, List.foldl_nil, needLines_of_held hlines, UCore.linesAre_of_held h,
    giveLoad_localAddr]

/-- An atomic store lands where the core has no store left and holds the lines. -/
theorem atomicStore_held {land : State → State} (hnone : (s.ucore t u).noStores = true)
    (h : ∀ k ∈ linesOf a w, k ∈ (s.ucore t u).lines ∧ k ∉ (s.ucore t u).badFills) (hroom : s.noRoom (linesOf a w) = false) :
    atomicStore t u a w land s = land s := by
  have hlines : ∀ k ∈ linesOf a w, k ∈ (s.ucore t u).lines := fun k hk => (h k hk).1
  simp only [atomicStore, hnone, State.missing_of_held hlines, List.foldl_nil, needLines_of_held hlines, UCore.linesAre_of_held h, hroom,
    Bool.not_true, Bool.false_eq_true, if_false]

/-- A store drains to local memory. -/
theorem drainLocal_lands {x : UStore} (h : x.nc = true ∨ (s.accessErr x.addr x.width).isSome = true ∨
      ∀ k ∈ linesOf x.addr x.width, k ∈ (s.ucore t u).lines ∧ k ∉ (s.ucore t u).badFills) :
    drainLocal t u x s = landStore t u x (popStore t u s) := by
  by_cases hdirect : ((s.accessErr x.addr x.width).isSome || x.nc) = true
  · simp only [drainLocal, hdirect, if_true]
  · have hheld : ∀ k ∈ linesOf x.addr x.width, k ∈ (s.ucore t u).lines ∧ k ∉ (s.ucore t u).badFills := by
      rcases h with hnc | herr | hheld
      · exact absurd (by rw [hnc, Bool.or_true]) hdirect
      · exact absurd (by rw [herr, Bool.true_or]) hdirect
      · exact hheld
    have hlines : ∀ k ∈ linesOf x.addr x.width, k ∈ (s.ucore t u).lines := fun k hk => (hheld k hk).1
    simp only [drainLocal, hdirect, if_false, needLines_of_held hlines, UCore.linesAre_of_held hheld, Bool.false_eq_true]

/-- A store to local memory, with its core's tracker empty, leaves the buffer. -/
theorem execStoreDrain_local {x : UStore} {rest : List UStore} (hbuf : (s.ucore t u).buffer = x :: rest) (htrack : (s.ucore t u).tracker = [])
    (hlocal : isTracked x.addr = false) (hshutter : ∀ o, regionOf x.addr ≠ .shutter o) :
    execStoreDrain t u s = .next (if s.noRoom (linesOf (s.localAddr x.addr) x.width) then s else drainLocal t u x s) := by
  simp only [execStoreDrain, hbuf, hlocal, htrack, List.isEmpty_nil, Bool.not_true, Bool.false_eq_true, if_false]

end Sys2Proof.Machine
end

section
/-! THEOREMS. Accesses of the Ultur cores, their errors, and the Shutter space. -/

namespace Sys2Proof.Machine

/-- Settles O33: loads and stores by the region that their address names and by what the core holds. -/
theorem ulturAccessesComplete : Obligations.UlturAccessesComplete := by
  refine ⟨fun t u a w o l s hruns hplain hok hregion hbuf => ?_, fun t u a w p o l s hruns hok hregion hbuf htracks => ?_,
    fun t u a w o l f s hruns hok hregion hf hdrain htracks hlr => execHostLoad_memory hruns hok ?_ hf hdrain htracks hlr,
    fun t u a w l f s v => ⟨fun hall hmem hnone hshutter => ?_, fun hsome hfar herr => ?_, fun hsome hnear herr hv hheld => ⟨fun hsame hnc => ?_, fun hother => ?_⟩⟩,
    fun t u a w k v s hruns hok hback hkind hroom => ?_, fun t u a w nc v s hruns hback hnone hheld hroom => ⟨fun op hok => ?_, fun hok => ?_⟩,
    fun t u x rest s hbuf htrack hlocal hshutter hroom hheld => ?_, fun t u o x rest s hbuf htrack hregion => ?_,
    fun t u x rest s v hbuf hroom hsame hfar hup hv => ?_, fun t u x rest s htrack hnow herr => ?_, fun t u pw po s hruns hnone => ?_⟩
  · change execHostLoad t u a w l s = _
    simp [execHostLoad, hruns, hplain, hok, hregion, hbuf]
  · change execHostLoad t u a w l s = _
    simp [execHostLoad, hruns, hok, hregion, hbuf, htracks]
  · rcases hregion with hr | hr | ⟨p, hr⟩ <;> rw [hr] <;> rfl
  · unfold loadMemory
    cases hr : regionOf (s.localAddr a) with
    | home o => simp [hall, hmem ⟨o, .inl hr⟩]
    | direct o => simp [hall, hmem ⟨o, .inr hr⟩]
    | none => exact absurd hr hnone
    | shutter o => exact absurd hr (hshutter o)
    | aperture p o => simp only [hall, if_true]
    | remote p o => simp only [hall, if_true]
  · obtain ⟨p, o, hr | hr⟩ := hfar <;> simp only [loadMemory, hr, hsome, loadFar, herr, Bool.false_eq_true, if_false]
  · have hlocal : loadMemory t u a w l f s = loadLocal t u a w l f s := by
      obtain ⟨o, hr | hr⟩ := hnear <;> simp only [loadMemory, hr, herr, hsome, Option.isSome_none, Bool.false_eq_true, if_false]
    rw [hlocal, loadLocal_held hheld, hv]
    simp [hsame, hnc]
  · have hlocal : loadMemory t u a w l f s = loadLocal t u a w l f s := by
      obtain ⟨o, hr | hr⟩ := hnear <;> simp only [loadMemory, hr, herr, hsome, Option.isSome_none, Bool.false_eq_true, if_false]
    rw [hlocal, loadLocal_held hheld, hv]
    rcases hother with hother | hnc
    · simp [hother]
    · simp [hnc]
  · change execHostStore t u a w k v s = _
    have hspace : ¬storeBuffer ≤ (s.ucore t u).buffer.length := Nat.not_le.mpr hroom
    rcases hkind with hkind | hkind <;> rw [hkind] at hok <;> simp [execHostStore, hruns, hok, hback, hkind, commitStore, hspace]
  · change execHostStore t u a w _ v s = _
    simp only [execHostStore, hruns, hok, hback, Bool.not_true, Bool.or_self, Bool.false_eq_true, if_false, atomicStore_held hnone hheld hroom]
  · change execHostStore t u a w _ v s = _
    simp only [execHostStore, hruns, hok, hback, Bool.not_true, Bool.or_self, Bool.false_eq_true, if_false, atomicStore_held hnone hheld hroom]
  · refine (execStoreDrain_local hbuf htrack hlocal hshutter : execStoreDrain t u s = _).trans ?_
    rw [hroom, if_neg Bool.false_ne_true, drainLocal_lands hheld]
  · change execStoreDrain t u s = _
    simp [execStoreDrain, hbuf, htrack, isTracked, hregion]
  · change execStoreDrain t u s = _
    have hspace : (s.ucore t u).tracker.length < trackerSize := hroom
    have hall : (s.ucore t u).tracker.all (fun z => targetOf z.addr == targetOf x.addr) = true := by simpa using hsame
    simp [execStoreDrain, hbuf, hfar, hup, hspace, hall, ← hv]
  · change execWriteAck t u 0 s = _
    simp [execWriteAck, htrack, Nat.not_le.mpr hnow, herr]
  · change execFence t u pw po s = _
    have hfree : ((pw || po) && !(s.ucore t u).noStores) = false := by
      by_cases hp : pw = true ∨ po = true
      · obtain ⟨hb, ht⟩ := hnone hp
        simp [UCore.noStores, hb, ht]
      · simp at hp
        simp [hp]
    simp only [execFence, hruns, hfree, Bool.not_true, Bool.or_self, Bool.false_eq_true, if_false]

/-- Settles O34: each completion with error, each access to the interrupt's CSRs, and the machine check. -/
theorem ulturErrorsComplete : Obligations.UlturErrorsComplete := by
  refine ⟨fun t u x rest s htrack hsilent => ?_, fun t u x rest s htrack hnow => ?_, fun x d s hsilent hle => ?_, fun _ _ _ _ => rfl,
    fun _ _ => rfl, fun _ _ _ _ _ => rfl, fun t u v smode s hruns hmode => ?_, fun t u n v smode s hruns hcsr => ?_,
    fun t u on s hruns => ⟨?_, ?_⟩, fun t u v s s' hruns hdraw => ?_⟩
  · change execCompletionTimeout (.store t u 0) s = _
    have hbound : x.bound s = (x.since + s.timeoutNs, 0) := by
      unfold UStore.bound
      cases hd : s.silentAt x.addr with
      | none => rfl
      | some d => exact if_neg (Nat.not_le.mpr (hsilent d hd))
    simp [execCompletionTimeout, htrack, expireStore, hbound]
  · change execWriteAck t u 0 s = _
    simp [execWriteAck, htrack, hnow, expireStore]
  · simp only [UStore.bound, hsilent, hle, if_true]
  · change execUberrInfoWrite t u (.info smode v) s = _
    have hopen : (smode && !(s.ucore t u).mideleg16) = false := by
      cases smode with
      | false => rfl
      | true => simp [hmode rfl]
    simp only [execUberrInfoWrite, hruns, hopen, Bool.not_true, Bool.false_eq_true, if_false]
    rfl
  · change execUberrInfoWrite t u (.read smode n) s = _
    simp only [execUberrInfoWrite, hruns, hcsr, Bool.not_true, Bool.false_eq_true, if_false]
  · change execUberrInfoWrite t u (.mie on) s = _
    simp only [execUberrInfoWrite, hruns, Bool.not_true, Bool.false_eq_true, if_false]
    rfl
  · change execUberrInfoWrite t u (.mideleg on) s = _
    simp only [execUberrInfoWrite, hruns, Bool.not_true, Bool.false_eq_true, if_false]
    rfl
  · change execUlturMachineCheck t u s = _
    simp only [execUlturMachineCheck, hruns, hdraw, Bool.not_true, Bool.false_eq_true, if_false]

/-- Settles O36: the Shutter space forbids all but plain aligned accesses; narrow ones read bytes, and only log a write. -/
theorem shutterAccessRules : Obligations.ShutterAccessRules := by
  refine ⟨fun t u a w o l s hruns hregion hbad => ?_, fun t u a w o k v s hruns hregion hbad => ?_, fun o w s hreach => ?_,
    fun o w v s hodd => ?_, fun o w v s hready hw heven => ⟨?_, _, rfl⟩⟩
  · change execHostLoad t u a w l s = _
    have hforb : forbidden a w l.kind = true := by simpa [forbidden, hregion] using hbad
    simp only [execHostLoad, hruns, hforb, Bool.not_true, Bool.false_eq_true, if_false, if_true]
  · change execHostStore t u a w k v s = _
    have hforb : forbidden a w k.kind = true := by simpa [forbidden, hregion] using hbad
    simp only [execHostStore, hruns, hforb, Bool.true_or, Bool.not_true, Bool.false_eq_true, if_false, if_true]
  · simp only [readShutter, hreach, Bool.not_true, Bool.false_eq_true, if_false]
  · change execShutterNarrowStore o w v s = _
    simp [execShutterNarrowStore, hodd]
  · change execShutterNarrowStore o w v s = _
    simp [execShutterNarrowStore, hready, Nat.not_le.mpr hw, heven]

end Sys2Proof.Machine
end

section
/-! SUPPORT. A host's request to memory (12 R417), and flits of a link (12 R383 to R386). -/

namespace Sys2Proof.Machine

variable {p a k : Nat} {q : Tlp} {s : State}

/-- A host's write that its controllers take. -/
theorem tlpMem_write {u : State} (hq : q.isWrite = true) (hwrite : s.writeMem a q.data = .ok u)
    (hroom : s.noRoom (linesOf (s.localAddr a) q.data.length) = false) :
    tlpMem p q a s = { (u.noteWrites a q.data.length).demandShared a q.data.length with busError := false } := by
  simp only [tlpMem, hq, hwrite, landWrite, hroom, Bool.false_eq_true, if_false, if_true]

/-- A host's read of readable memory. -/
theorem tlpMem_read {bs : List Byte} (hq : q.isWrite = false) (hread : s.readMem a (tlpSize q) = .ok bs) :
    tlpMem p q a s = s.readFor (.tlp p s.freshTag a q.mem bs) a (tlpSize q) (tlpData p a q.mem bs) := by
  simp only [tlpMem, hq, hread, Bool.false_eq_true, if_false]

/-- The flit that a NAK names, and those after it, are sent again. -/
theorem nakFrom_append {seq : Nat} {m : WaitMsg} {before after : List (Nat × WaitMsg)} (h : ∀ x ∈ before, x.1 ≠ seq) :
    nakFrom seq (before ++ (seq, m) :: after) = (seq, m) :: after := by
  have hnamed : (before ++ (seq, m) :: after).any (fun x => x.1 == seq) = true := by simp
  rw [nakFrom, if_pos hnamed, List.dropWhile_append_of_pos fun x hx => bne_iff_ne.mpr (h x hx), List.dropWhile_cons_of_neg (by simp)]

/-- A flit without an error that a carrying link receives. -/
theorem execFlitReceive_good {f : Flit} (hs : s.Canonical) (hcarries : (s.link k).carries = true) (hcrc : f.crcOk = true) :
    execFlitReceive k f s =
      if f.seq = (s.link k).expected then .next ((s.updLink k (fun l => { l.credited f.credits with
        fec := l.fec + BitVec.ofNat 64 f.corrected, lastFlit := s.now, expected := (l.expected + 1) % 4096, discarding := false
        rx := l.rx + BitVec.ofNat 64 f.bytes, unacked := ackUpTo f.ack l.unacked })).pumpLink k)
      else .next (s.updLink k (fun l => { l with fec := l.fec + BitVec.ofNat 64 f.corrected, lastFlit := s.now })) := by
  simp only [execFlitReceive, hcarries, hcrc, Bool.not_true, Bool.false_eq_true, if_false, State.updLink_updLink hs.links]
  rfl

end Sys2Proof.Machine
end

section
/-! SUPPORT. Writes to memory leave what the gang keeps (12 R377) and the power state of the tiles (14 R447). -/

namespace Sys2Proof.Machine

/-- A fold whose steps keep a part of the state keeps it. -/
theorem foldl_keeps {β γ : Type} (part : State → γ) {g : State → β → State} (h : ∀ s b, part (g s b) = part s) :
    ∀ (l : List β) (s : State), part (l.foldl g s) = part s
  | [], _ => rfl
  | b :: l, s => by rw [List.foldl_cons, foldl_keeps part h l, h]

/-- What the gang keeps, and the power state of the tiles. -/
def State.gangAndPower (s : State) : Gang × Table TilePower := (s.gang, s.tilePower)

theorem State.markBlock_gangAndPower (s : State) (b : Nat) : (s.markBlock b).gangAndPower = s.gangAndPower := by
  simp only [State.markBlock]
  split
  · rfl
  · split <;> rfl
  · split <;> rfl
  · split <;> rfl
  · split <;> rfl

theorem State.backInvalidate_gangAndPower (s : State) (ls : List Nat) : (s.backInvalidate ls).gangAndPower = s.gangAndPower := by
  rw [State.backInvalidate]
  split <;> rfl

theorem State.dropLines_gangAndPower (s : State) (a n : Nat) : (s.dropLines a n).gangAndPower = s.gangAndPower := by
  simp only [State.dropLines]
  split
  · exact (foldl_keeps State.gangAndPower (by intros; rfl) _ _).trans (s.backInvalidate_gangAndPower _)
  · exact s.backInvalidate_gangAndPower _

theorem State.storeLocal_gangAndPower (s : State) (a : Nat) (bs : List Byte) : (s.storeLocal a bs).gangAndPower = s.gangAndPower := by
  unfold State.storeLocal
  extract_lets u w v fresh
  have hu : u.gangAndPower = s.gangAndPower := by
    simp only [u]
    split
    · exact foldl_keeps State.gangAndPower State.markBlock_gangAndPower _ _
    · rfl
  exact (State.dropLines_gangAndPower u a bs.length).trans hu

theorem State.poke_gangAndPower (s : State) (a : Nat) (bs : List Byte) : (s.poke a bs).gangAndPower = s.gangAndPower := by
  unfold State.poke
  split
  · rfl
  · rfl
  · split
    · rfl
    · exact State.storeLocal_gangAndPower ..
  · exact State.storeLocal_gangAndPower ..

theorem State.writeMem_gangAndPower {s u : State} {a : Nat} {bs : List Byte} (h : s.writeMem a bs = .ok u) : u.gangAndPower = s.gangAndPower := by
  unfold State.writeMem at h
  split at h
  · cases h
  · dsimp only at h
    split at h
    · cases h
    · cases h
      exact State.poke_gangAndPower ..

theorem State.noteWrites_gangAndPower (s : State) (a n : Nat) : (s.noteWrites a n).gangAndPower = s.gangAndPower := by
  refine foldl_keeps State.gangAndPower (fun s l => ?_) _ _
  simp only [State.enqueueWrite]
  split <;> rfl

theorem State.demandShared_gangAndPower (s : State) (a n : Nat) : (s.demandShared a n).gangAndPower = s.gangAndPower := by
  unfold State.demandShared
  split
  · exact foldl_keeps State.gangAndPower (by intros; rfl) _ _
  · rfl

theorem State.reply_gangAndPower (s : State) (o : Origin) (size : Nat) (bs : List Byte) : (s.reply o size bs).gangAndPower = s.gangAndPower := by
  unfold State.reply
  split
  · obtain ⟨_, _, h⟩ := emit_frame s o.link chanRs o.pkg size bs
    rw [h]
    rfl
  · obtain ⟨_, _, h⟩ := sendTo_frame s chanRs o.pkg size bs
    rw [h]
    rfl

theorem landWrite_gangAndPower (o : Origin) (a : Nat) (bs : List Byte) (s : State) : (landWrite (some o) a bs s).gangAndPower = s.gangAndPower := by
  simp only [landWrite]
  split
  · split <;> rfl
  · split
    · next u hu => exact (State.reply_gangAndPower ..).trans ((State.demandShared_gangAndPower ..).trans ((State.noteWrites_gangAndPower ..).trans (State.writeMem_gangAndPower hu)))
    · exact State.reply_gangAndPower ..

theorem sendMsg_gangAndPower (a d : Nat) (s : State) : (sendMsg a d s).gangAndPower = s.gangAndPower := by
  change (s.tryWrite a (bytesOfNat 4 d)).gangAndPower = _
  rw [State.tryWrite]
  split
  · exact State.writeMem_gangAndPower ‹_›
  · rfl

theorem powerEvent_gangAndPower (b unit reading limit : Nat) (s : State) : (powerEvent b unit reading limit s).gangAndPower = s.gangAndPower := by
  rw [powerEvent, fltPost, fltAppend]
  split
  · split <;> rfl
  · simp only [fltPlace]
    split
    · exact sendMsg_gangAndPower ..
    · rfl

/-- A write of another package leaves the writes that wait for an earlier one. -/
theorem serveRemote_write_gang (src : Origin) (a : Nat) (bs : List Byte) (prev : Option Nat) (s : State) :
    (serveRemote src (.write a bs prev) s).gang = s.gang := by
  refine congrArg Prod.fst (a₁ := (serveRemote src (.write a bs prev) s).gangAndPower) (a₂ := s.gangAndPower) ?_
  simp only [serveRemote]
  split
  · exact landWrite_gangAndPower ..
  · exact State.reply_gangAndPower ..

end Sys2Proof.Machine
end

section
/-! THEOREMS. Register accesses, pin buses, and links. -/

namespace Sys2Proof.Machine

/-- Settles O39: register accesses by whether their path is open, a host's requests by what a BAR covers. -/
theorem registerAccessesComplete : Obligations.RegisterAccessesComplete := by
  refine ⟨⟨fun via o w v s hopen halign hw => ?_, fun via o w s hopen halign => ?_, fun p off q s hopen hreg => ?_, fun p a q s hopen hmem => ?_,
    fun p a q u s hq hwrite hroom => tlpMem_write hq hwrite hroom, fun p a q bs u s hq hread hu => ⟨fun hwait => ?_, fun hdone => ?_⟩,
    fun p q s hup hconf => ?_, fun p q s hclosed hconf => ?_, fun p q s hopen hnone => ?_⟩, fun via o w v s hclosed => ⟨?_, ?_⟩⟩
  · change execRegisterWrite via o w v s = _
    simp [execRegisterWrite, hopen, halign, Nat.not_lt.mpr hw]
  · change execRegisterReadClear via o w s = _
    simp [execRegisterReadClear, hopen, halign]
  · change execHostTlp p q s = _
    simp only [execHostTlp, hreg, hopen, if_true]
  · change execHostTlp p q s = _
    simp only [execHostTlp, hmem, hopen, if_true]
  · subst hu
    rw [tlpMem_read hq hread, State.readFor, if_pos hwait]
  · subst hu
    rw [tlpMem_read hq hread, State.readFor, if_neg (by rw [hdone]; exact Bool.false_ne_true)]
  · change execHostTlp p q s = _
    simp only [execHostTlp, hconf, hup, if_true]
  · change execHostTlp p q s = _
    cases ht : tlpTarget s p q with
    | config => exact absurd ht hconf
    | reg off | mem a | unsupported => simp only [execHostTlp, ht, hclosed, Bool.false_eq_true, if_false]
  · change execHostTlp p q s = _
    simp only [execHostTlp, hnone, hopen, if_true]
  · change execRegisterWrite via o w v s = _
    simp [execRegisterWrite, hclosed]
  · change execRegisterReadClear via o w s = _
    simp [execRegisterReadClear, hclosed]

/-- Settles O41: each transaction by its guard. -/
theorem pinBusesComplete : Obligations.PinBusesComplete := by
  refine ⟨⟨fun a s hon hnone => ?_, fun a s hon hnone => ?_, fun o a s hon hdyn => ?_, fun a o s hat => ?_, fun a o w s hat hreg => ?_,
    fun a s hat hreg => ?_⟩, fun die s hon => ⟨?_, ?_, fun pins pre => ?_⟩⟩
  · change execEntdaa a s = _
    simp [execEntdaa, hon, hnone]
  · change execSetdasa (0x30 + s.i3c.strap % 16) a s = _
    simp [execSetdasa, hon, hnone]
  · change execSetnewda o a s = _
    simp [execSetnewda, hon, hdyn]
  · change execI3cPrivateWrite a o none s = _
    simp [execI3cPrivateWrite, hat]
  · change execI3cPrivateWrite a o (some w) s = _
    simp only [execI3cPrivateWrite, hat, hreg, Bool.not_true, Bool.false_eq_true, if_false, if_true]
  · change execI3cPrivateRead a s = _
    simp only [execI3cPrivateRead, hat, hreg, Bool.not_true, Bool.false_eq_true, if_false, if_true]
  · change execBypass die s = _
    simp only [execBypass, tapDo, hon, if_true, Tap.bypass]
  · change execIdcode die s = _
    simp only [execIdcode, tapDo, hon, if_true]
  · change execSamplePreload die pins pre s = _
    simp only [execSamplePreload, tapDo, hon, if_true]

/-- Settles O43: flits and NAKs by their checks, messages by their hops and class. -/
theorem linkTrafficCompletes : Obligations.LinkTrafficCompletes := by
  refine ⟨⟨fun k f s hcarries hcrc => ?_, fun k f s hs hcarries hcrc hseq => ?_, fun k f s hs hcarries hcrc hseq => ?_,
      fun k seq s hcarries hfew => ?_, fun seq m before after h => nakFrom_append h, fun k s => rfl, fun k seq s hcarries hmany => ?_,
      fun k s hon hstate => ?_⟩,
    fun m s hgang hself hhops hcls => ?_, fun m s hgang hself hhops hcls => ?_, fun m s hgang hself hhops hcls => ?_,
    fun m s hgang hself hhops => ?_, fun src seq r s hgang hnew => ?_, fun src seq addr prev data s hwait => ?_,
    fun src seq addr prev data s hgo => ?_⟩
  · change execFlitReceive k f s = _
    simp only [execFlitReceive, hcarries, hcrc, Bool.not_true, Bool.not_false, Bool.false_eq_true, if_false, if_true]
    rfl
  · exact (execFlitReceive_good hs hcarries hcrc : execFlitReceive k f s = _).trans (if_pos hseq)
  · exact (execFlitReceive_good hs hcarries hcrc : execFlitReceive k f s = _).trans (if_neg hseq)
  · change execNakReceive k seq s = _
    simp only [execNakReceive, hcarries, Bool.not_true, Bool.false_eq_true, if_false, if_neg (Nat.not_le.mpr hfew)]
  · change execNakReceive k seq s = _
    simp only [execNakReceive, hcarries, Bool.not_true, Bool.false_eq_true, if_false, if_pos hmany]
  · change execLinkSilenceTimeout k s = _
    have hlive : ((s.link k).carries || (s.link k).joined) = true := by simpa using hon
    simp [execLinkSilenceTimeout, hlive, hstate]
  · change execMessageForward m s = _
    simp [execMessageForward, Option.isSome_iff_ne_none.mp hgang, hself, Nat.not_le.mpr hhops, hcls]
  · change execMessageForward m s = _
    simp [execMessageForward, Option.isSome_iff_ne_none.mp hgang, hself, Nat.not_le.mpr hhops, hcls]
  · change execMessageForward m s = _
    simp [execMessageForward, Option.isSome_iff_ne_none.mp hgang, hself, Nat.not_le.mpr hhops, hcls]
  · change execMessageForward m s = _
    simp [execMessageForward, Option.isSome_iff_ne_none.mp hgang, hself, hhops]
  · change execRemoteRequest src seq r s = _
    have hmember : s.gang.addr.isNone = false := by rw [← Option.not_isSome, hgang]; rfl
    simp only [execRemoteRequest, hmember, hnew, Bool.or_self, Bool.false_eq_true, if_false]
  · simp only [applyRemote, hwait, if_true]
  · simp only [applyRemote, hgo, serveRemote_write_gang, Bool.false_eq_true, if_false]

/-- Settles O44: each change by its guard. -/
theorem linkChangesComplete : Obligations.LinkChangesComplete := by
  refine ⟨fun k signal s hdown hon hmay => ?_, fun k p s htrain hpow hfew => ?_,
    fun k p s u v htrain hpow hmany hu hv => ⟨fun hfull => ?_, fun hlost hspare => ?_⟩, fun k s hcarries => ?_, fun k s hhas => ?_,
    fun k s hhas => ?_, fun k w s v hflash hhas hnew hv => ?_, fun k w s v hflash hhas hsome hv => ?_, fun n on s v hhas hv => ?_,
    fun n s hdrain hidle => ?_, fun n sources s hhas habsent => ?_, fun n s hpresent => ?_⟩
  · change execLinkTrainingRetry k signal s = _
    simp only [execLinkTrainingRetry, hdown, hon, hmay, beq_self_eq_true, Bool.and_self, if_true]
  · change execLinkTrainingDone k p s = _
    simp only [execLinkTrainingDone, htrain, hpow, hfew, bne_self_eq_false, Bool.not_true, Bool.or_self, Bool.false_eq_true, if_false, if_true]
  · change execLinkTrainingDone k p s = _
    have hspared : (decide (s.working k p < 9) && !(s.link k).spareUsed) = false := by
      rcases hfull with h9 | hused
      · simp [Nat.not_lt.mpr h9]
      · simp [hused]
    simp only [execLinkTrainingDone, htrain, hpow, Nat.not_lt.mpr hmany, hspared, ← hu, ← hv, bne_self_eq_false, Bool.not_true, Bool.or_self,
      Bool.false_eq_true, if_false]
  · change execLinkTrainingDone k p s = _
    simp only [execLinkTrainingDone, htrain, hpow, Nat.not_lt.mpr hmany, hlost, hspare, ← hu, ← hv, bne_self_eq_false, Bool.not_true,
      Bool.not_false, decide_true, Bool.and_self, Bool.or_self, Bool.false_eq_true, if_false, if_true]
  · change execLinkRetrain k s = _
    simp only [execLinkRetrain, hcarries, if_true]
  · change execLinkEnable k true s = _
    simp only [execLinkEnable, hhas, Bool.not_true, Bool.false_eq_true, if_false, if_true]
  · change execLinkEnable k false s = _
    simp only [execLinkEnable, hhas, Bool.not_true, Bool.false_eq_true, if_false]
  · change execWavelengthFailure k ⟨w, false⟩ s = _
    have hks : waveLinks k ⟨w, false⟩ s = [k] := by simp [waveLinks, -List.contains_eq_mem, hnew]
    simp only [execWavelengthFailure, hflash, hhas, hks, Bool.not_true, List.isEmpty_cons, Bool.or_self, Bool.false_eq_true, if_false,
      List.foldl_cons, List.foldl_nil, ← hv]
  · change execWavelengthFailure k ⟨w, true⟩ s = _
    simp only [execWavelengthFailure, hflash, hhas, Bool.not_true, List.isEmpty_eq_false_iff.mpr hsome, Bool.or_self, Bool.false_eq_true, if_false,
      if_true, ← hv]
  · change execLaserDrain n on s = _
    simp only [execLaserDrain, hhas, Bool.not_true, Bool.false_eq_true, if_false, ← hv]
  · change execLaserDrained n s = _
    have hall : (moduleLinks n).all (fun k => (s.link k).unacked.isEmpty) = true := by simpa using hidle
    simp only [execLaserDrained, hdrain, hall, Bool.and_self, if_true]
  · change execLaserModuleInsert n sources s = _
    simp only [execLaserModuleInsert, hhas, habsent, Bool.not_true, Bool.or_self, Bool.false_eq_true, if_false]
  · change execLaserModuleRemove n s = _
    simp only [execLaserModuleRemove, hpresent, Bool.not_true, Bool.false_eq_true, if_false]

end Sys2Proof.Machine
end

section
/-! SUPPORT. Signed gang messages and messages between devices (12 R397 to R400). -/

namespace Sys2Proof.Machine

variable {k type : Nat} {m : List Byte} {s : State}

/-- A signed message that arrives, passes its checks and is not refused. -/
theorem signedMsg_ok {u : State} {f : State → Except Nat State} (hcheck : s.gangCheck m = none) (harrives : s.gangArrives k type m = true)
    (hf : f s = .ok u) : signedMsg type k m f s = .next (noteSeq m u) := by
  simp only [signedMsg, harrives, if_true, applySigned, hcheck, hf, refuseMsg]

theorem gangCheck_ne_zero {r : Nat} (h : s.gangCheck m = some r) : r ≠ 0 := by
  unfold State.gangCheck at h
  split at h
  · cases h; decide
  · split at h <;> cases h
    decide

/-- READY of a member of the gang at its level. -/
theorem execReady_member {u : State} {cap : List Byte} (harrives : deviceArrives 0x0C k m s = true) (hlevel : levelOk (gmLevel m) = true)
    (hgang : (s.level (gmLevel m)).gang = gmGang m) (hmember : gmValue m % 2 ^ 15 ∈ (s.level (gmLevel m)).members)
    (hcap : s.freeBytes 256 = (cap, u)) :
    execReady k m s =
      let v := withCap (fun s' => (s'.updPeer (gmValue m % 2 ^ 15) (fun q => { q with
          down := false, cap, homeBytes := fieldOf cap 0x28 8 })).setLevel (gmLevel m) { s.level (gmLevel m) with
            ready := insertNat (gmValue m % 2 ^ 15) (s.level (gmLevel m)).ready }) u
      .next (if v.outerLevel == some (gmLevel m) then chooseSource v else v) := by
  have hin : (s.level (gmLevel m)).members.contains (gmValue m % 2 ^ 15) = true := List.contains_iff_mem.mpr hmember
  simp only [execReady, harrives, hlevel, hgang, hin, hcap, beq_self_eq_true, Bool.and_self, if_true]

end Sys2Proof.Machine
end

section
/-! SUPPORT. What a repair record and a draw leave of the edges (13 R430). -/

namespace Sys2Proof.Machine

/-- A lane of an edge in service that fails for the first time: it is recorded, and the edge is to retrain. -/
theorem execLaneFailure_new {e dir lane n : Nat} {s u v : State} {x : Edge} (hstate : (s.edge e).state = .inService ∨ (s.edge e).state = .retraining)
    (hlane : lane < dataLanes e + spareLanes e) (hnew : ∀ f ∈ (s.edge e).lanes, ¬ (f.dir = dir ∧ f.lane = lane))
    (hu : u = appendRepair 5 0xFF e (lane + dir * 2 ^ 10 + 0x7FF * 2 ^ 16) s) (hdraw : u.draw = (n, v))
    (hx : x = { s.edge e with lanes := (s.edge e).lanes ++ [{ dir, lane }], failedCount := satAdd 8 (s.edge e).failedCount 1
                              due := some ((s.edge e).due.getD (v.now + 100000)) }) :
    execLaneFailure e dir lane s = .next (v.updEdge e (fun _ => match x.servesAs e dir lane with
      | some l => x.mark e dir (l / 32) n
      | none => x)) := by
  have hon : ((s.edge e).state == .inService || (s.edge e).state == .retraining) = true := by simpa using hstate
  have hfirst : (s.edge e).lanes.any (fun f => f.dir == dir && f.lane == lane) = false := by simpa using hnew
  have hedge : v.edge e = s.edge e := by
    have hv : v = u.draw.2 := by rw [hdraw]
    rw [hv, hu]
    rfl
  subst hu
  simp only [execLaneFailure, hon, hfirst, hdraw, decide_eq_false (Nat.not_le.mpr hlane), Bool.not_true, Bool.or_self, Bool.false_eq_true,
    if_false]
  have hdue : (match (s.edge e).due with
      | some t => some t
      | none => some (v.now + 100000)) = some ((s.edge e).due.getD (v.now + 100000)) := by
    cases (s.edge e).due <;> rfl
  subst hx
  rw [← hdue, ← hedge]
  rfl

end Sys2Proof.Machine
end

section
/-! THEOREMS. Gang messages, station time, host ports and hinges. -/

namespace Sys2Proof.Machine

/-- Settles O45: signed messages through `signedMsg`, the devices' own by their guards. -/
theorem gangMessagesComplete : Obligations.GangMessagesComplete := by
  refine ⟨⟨fun k m s hcheck => ⟨fun u ha hf => ?_, fun u ha hf => ?_, fun u ha hf => ?_, fun u ha hf => ?_, fun u ha hf => ?_, fun u ha hf => ?_,
      fun u ha hf => ?_, fun u ha hf => ?_, fun u ha hf => ?_⟩, fun k r m s ha hcheck => ⟨gangCheck_ne_zero hcheck, ?_⟩⟩,
    fun k m s ha => ?_, fun k m s ha hbit => ?_, fun k m s ha hbit => ?_, fun k m s u v cap ha hlevel hgang hmember hcap hv => ?_,
    fun n pkg s hlevel hformed hleaving hidle hself => ?_, fun n pkg s v w hlevel hformed hleaving hidle hself hv hw => ?_,
    fun answer s hvar hnone => ?_, fun answer s hvar haddr hself => ?_, fun answer k s hvar haddr hself hlink hanswer => ?_⟩
  · change signedMsg 1 k m (doAssign m) s = _
    exact signedMsg_ok hcheck ha hf
  · change signedMsg 2 k m doUnassign s = _
    exact signedMsg_ok hcheck ha hf
  · change signedMsg 3 k m (doRoute m) s = _
    exact signedMsg_ok hcheck ha hf
  · change signedMsg 4 k m (doForm m) s = _
    exact signedMsg_ok hcheck ha hf
  · change signedMsg 5 k m (doFormEnd m) s = _
    exact signedMsg_ok hcheck ha hf
  · change signedMsg 6 k m (doJoin m) s = _
    exact signedMsg_ok hcheck ha hf
  · change signedMsg 7 k m (doLeave m) s = _
    exact signedMsg_ok hcheck ha hf
  · change signedMsg 8 k m (doDissolve m) s = _
    exact signedMsg_ok hcheck ha hf
  · change signedMsg 9 k m (doQuery (some k) m) s = _
    exact signedMsg_ok hcheck ha hf
  · change signedMsg 3 k m (doRoute m) s = _
    simp only [signedMsg, ha, if_true, applySigned, hcheck, refuseMsg, if_neg (gangCheck_ne_zero hcheck)]
  · change execReply k m s = _
    simp only [execReply, ha, if_true]
  · change execDown k m s = _
    simp only [execDown, ha, hbit, Bool.not_true, Bool.false_eq_true, if_false]
  · change execDown k m s = _
    simp only [execDown, ha, hbit, Bool.not_true, Bool.false_eq_true, if_false, if_true]
  · subst hv
    exact (execReady_member ha hlevel hgang hmember hcap : execReady k m s = _)
  · change execLeaveEffect n pkg s = _
    simp only [execLeaveEffect, hlevel, hformed, hleaving, hidle, hself, Bool.not_true, Bool.or_self, Bool.false_eq_true, if_false, if_true]
  · change execLeaveEffect n pkg s = _
    subst hw hv
    simp only [execLeaveEffect, hlevel, hformed, hleaving, hidle, hself, Bool.not_true, Bool.or_self, Bool.false_eq_true, if_false]
  · change execGangSend answer s = _
    simp only [execGangSend, hvar, hnone, Option.isNone_none, Bool.not_true, Bool.false_eq_true, if_false, if_true]
  · change execGangSend answer s = _
    have hsome : s.gang.addr.isNone = false := by rw [← Option.not_isSome, haddr]; rfl
    simp only [execGangSend, hvar, hsome, hself, Bool.not_true, Bool.false_eq_true, if_false, if_true]
  · change execGangSend answer s = _
    have hsome : s.gang.addr.isNone = false := by rw [← Option.not_isSome, haddr]; rfl
    have hmod : answer % 7 = answer := Nat.mod_eq_of_lt (Nat.lt_trans hanswer (by decide))
    simp only [execGangSend, hvar, hsome, hself, hlink, hmod, if_neg (Nat.ne_of_lt hanswer), Bool.not_true, Bool.false_eq_true, if_false]

/-- Settles O46: each event of station time by its guard. -/
theorem timeEventsComplete : Obligations.TimeEventsComplete := by
  refine ⟨fun stamp s hoff => ?_, fun stamp s v hon hv htime htod => ?_, fun stamp sec s v hon hv htime htod hsrc => ?_,
    fun s hten hsrc => ?_, fun s hten hsrc hpps => ?_, fun p s v hpps hlast hv => ?_,
    fun k m s v hup houter hself hv hsource haddr hhops hfollows => ?_, fun s v hptp hv houter hsource => ?_,
    fun k s v u hk hup hv hu => ?_, fun p tai s hup hlive hport => ?_, fun p s hup hlive hport hfails => ?_,
    fun s v hhold hleads hv => ?_, fun value s houter => ?_, fun s v hok hv => ?_⟩
  · change execPpsEdge stamp s = _
    simp only [execPpsEdge, hoff, Bool.not_false, if_true]
  · change execPpsEdge stamp s = _
    simp only [execPpsEdge, hon, ← hv, htime, htod, Bool.not_true, Bool.false_eq_true, if_false, Bool.true_or, Option.map_none]
  · change execPpsEdge stamp s = _
    simp only [execPpsEdge, hon, ← hv, htime, htod, hsrc, Bool.not_true, Bool.false_eq_true, if_false, if_true, Bool.true_or, Option.map_some]
  · change execRef10mLoss s = _
    simp [execRef10mLoss, pinsLost, hten, hsrc]
  · change execRef10mLoss s = _
    simp [execRef10mLoss, pinsLost, hten, hsrc, Time.refOk, hpps]
  · change execPpsMissing s = _
    simp only [execPpsMissing, hpps, hlast, Option.getD_some, ← hv, if_true]
  · change execPtpSync k m s = _
    have hnone : s.outerLevel.isNone = false := by rw [← Option.not_isSome, houter]; rfl
    have hfew : ¬3 < m.hops + 1 := by omega
    simp only [execPtpSync, hup, hnone, hself, ← hv, hsource, haddr, hfollows, hfew, bne_self_eq_false, decide_false, Bool.not_true, Bool.or_self,
      Bool.false_eq_true, if_false]
  · change execPtpSyncLoss s = _
    subst hv
    simp only [execPtpSyncLoss, hptp, Bool.not_true, Bool.false_eq_true, if_false]
    exact congrArg _ (if_pos (by rw [Bool.and_eq_true, hsource]; exact ⟨houter, rfl⟩))
  · change execPtpAnnounce s = _
    have hany : (upTo 32).any (fun k => (s.link k).state == .up) = true :=
      List.any_eq_true.mpr ⟨k, List.mem_range.mpr hk, by rw [hup]; rfl⟩
    simp only [execPtpAnnounce, hany, if_true, ← hv, ← hu]
  · change execPtmDialogue p (some tai) s = _
    simp [execPtmDialogue, hup, hlive, hport]
  · change execPtmDialogue p none s = _
    subst hport
    have hfew : ¬4 ≤ s.time.ptmFails + 1 := by omega
    have hlt : s.time.ptmFails + 1 < 4 := by omega
    simp [execPtmDialogue, hup, hlive, hfew, hlt]
  · change execHoldoverExpire s = _
    simp only [execHoldoverExpire, hhold, hleads, beq_self_eq_true, Bool.and_self, if_true, ← hv]
  · change execTimEpochWrite value s = _
    simp only [execTimEpochWrite, houter, Option.isSome_none, Bool.false_eq_true, if_false]
  · change execPpsOutPulse s = _
    simp only [execPpsOutPulse, hok, if_true, ← hv]

/-- Settles O47: each event by its guard. -/
theorem portAndHingeEventsComplete : Obligations.PortAndHingeEventsComplete := by
  refine ⟨fun p speed width cxl s hpow hphase hvest => ?_, fun p flr s => rfl, fun p s hdown => ?_, fun p s hup => ?_, fun p v s => rfl,
    fun p value s => rfl, fun e dir lane n s u v hstate hlane hnew hu hdraw x hx => ?_, fun e at' t s hdue hstate hgo => ?_,
    fun e t s hstate hgo => ?_, fun e t s hwait => ?_, fun e w s hstate hwidth hall => ?_, fun e w s hstate hwidth hlost => ?_,
    fun e s hstate hwidth => ?_⟩
  · change execPcieLinkUp p speed width cxl s = _
    have hother : (s.start.phase == .vestibule && p != 0) = false := by
      by_cases hv : s.start.phase = .vestibule
      · simp [hvest hv]
      · simp [hv]
    simp only [execPcieLinkUp, hpow, hother, beq_eq_false_iff_ne.mpr hphase, Bool.not_true, Bool.or_self, Bool.false_eq_true, if_false]
  · simp only [hostDownPort, hdown, if_true]
  · change execHostLinkLossTimeout p s = _
    simp only [execHostLinkLossTimeout, hup, if_true]
  · change execLaneFailure e dir lane s = _
    exact execLaneFailure_new hstate hlane hnew hu hdraw hx
  · change execHingeRetrain e t s = _
    simp only [execHingeRetrain, hdue, hstate, hgo, bne_self_eq_false, Bool.or_self, Bool.false_eq_true, if_false]
  · change execHingeCtrlRetrain ⟨e, t⟩ s = _
    simp [execHingeCtrlRetrain, hstate, hgo]
  · change execHingeCtrlRetrain ⟨e, t⟩ s = _
    have hany : ((s.edge e).state == .retraining || ((s.edge e).state == .inService && s.edgeWaits e)) = true := by simpa using hwait
    simp only [execHingeCtrlRetrain, hany, if_true]
  · change execHingeRetrainDone e s = _
    simp only [execHingeRetrainDone, hstate, hwidth, Nat.not_lt.mpr hall, bne_self_eq_false, Bool.false_eq_true, if_false]
  · change execHingeRetrainDone e s = _
    simp only [execHingeRetrainDone, hstate, hwidth, hlost, bne_self_eq_false, Bool.false_eq_true, if_false, if_true]
  · change execHingeRetrainDone e s = _
    simp only [execHingeRetrainDone, hstate, hwidth, bne_self_eq_false, Bool.false_eq_true, if_false]

end Sys2Proof.Machine
end

section
/-! SUPPORT. The repair ledger compacted (15 R484), and a bank record torn by a reset (15 R480). -/

namespace Sys2Proof.Machine

theorem mem_markSuperseded {r : RepairRecord} {newer : List RepairRecord} (h : ∀ x ∈ newer, x.supersedes r = false) :
    ∀ older : List RepairRecord, (r, false) ∈ markSuperseded (older ++ r :: newer)
  | [] => by
    have hnone : newer.any (fun x => x.supersedes r) = false := by simpa using h
    simp [markSuperseded, hnone]
  | q :: older => List.mem_cons_of_mem _ (mem_markSuperseded h older)

theorem mem_keepInForce {r : RepairRecord} : ∀ {rs : List (RepairRecord × Bool)}, (r, false) ∈ rs → r ∈ keepInForce rs
  | (q, old) :: rs, h => by
    rw [keepInForce]
    rcases List.mem_cons.mp h with heq | hrest
    · obtain ⟨rfl, rfl⟩ := Prod.mk.injEq .. ▸ heq
      simp
    · split
      · exact mem_keepInForce hrest
      · exact List.mem_cons_of_mem _ (mem_keepInForce hrest)

/-- The record in force is one of the two copies. -/
theorem Flash.bank_or (f : Flash) : f.bank = f.copy0 ∨ f.bank = f.copy1 := by
  unfold Flash.bank
  split
  · exact .inr rfl
  · exact .inl rfl

/-- Where copy 1 is good and copy 0 is not, copy 1 is in force; the other way round, copy 0. -/
theorem Flash.bank_of_bad0 {f : Flash} (h0 : f.copy0.good = false) (h1 : f.copy1.good = true) : f.bank = f.copy1 := by
  simp [Flash.bank, h0, h1]

theorem Flash.bank_of_bad1 {f : Flash} (h1 : f.copy1.good = false) : f.bank = f.copy0 := by
  simp [Flash.bank, h1]

theorem Flash.setInactive_copies (f : Flash) (v : ImageView) :
    (f.setInactive v).copy0 = f.copy0 ∧ (f.setInactive v).copy1 = f.copy1 := by
  unfold Flash.setInactive
  split <;> exact ⟨rfl, rfl⟩

/-- A reset that meets an update leaves the record in force as it was, or as the update writes it. -/
theorem tearBank_bank {s : State} (hsame : s.flash.copy0 = s.flash.copy1) (hgood : s.flash.copy1.good = true) :
    (tearBank s).flash.bank = s.flash.bank ∨ (tearBank s).flash.bank = s.flash.bank.asTrial := by
  have hbank : s.flash.bank = s.flash.copy1 := by
    rcases s.flash.bank_or with h | h
    · rw [h, hsame]
    · exact h
  obtain ⟨h0, h1⟩ := s.flash.setInactive_copies s.start.fwImage
  have hnext : (s.flash.setInactive s.start.fwImage).bank = s.flash.bank := by
    rw [Flash.bank, h0, h1]
    rfl
  unfold tearBank
  split
  · exact .inl rfl
  · dsimp only [State.draw]
    rw [hnext]
    split
    · exact .inl rfl
    · rw [Flash.bank_of_bad0 rfl (h1.symm ▸ hgood)]
      exact .inl (h1.trans hbank.symm)
    · exact .inr (Flash.bank_of_bad1 rfl)
    · rcases Flash.bank_or { s.flash.setInactive s.start.fwImage with copy0 := s.flash.bank.asTrial } with h | h
      · exact .inr h
      · exact .inl (h.trans (h1.trans hbank.symm))

end Sys2Proof.Machine
end

section
/-! SUPPORT. The limits of a tile by its temperatures (14 R449, R450), and supply domains (14 R460). -/

namespace Sys2Proof.Machine

variable {t sill die : Nat} {s : State}

theorem hasTile_lt {v : Variant} (h : v.hasTile t = true) : t < 8 := by
  cases v <;> simp [Variant.hasTile] at h <;> omega

theorem execThermalRead_cool (htile : s.variant.hasTile t = true) (hsill : sill < 800) (hdie : die < 880) :
    execThermalRead t sill die s = .next (clampTile t sill die s) := by
  obtain ⟨h8, h9⟩ : t ≠ 8 ∧ t ≠ 9 := by
    have := hasTile_lt htile
    omega
  have hcool : (decide (800 ≤ sill) || decide (880 ≤ die)) = false := by simp; omega
  have hkeep : decide (864 ≤ sill) = false := by simp; omega
  simp only [execThermalRead, h8, h9, htile, hcool, hkeep, or_self, Bool.not_true, Bool.false_and, Bool.and_false, Bool.false_eq_true,
    if_false]

theorem clampTile_limits (hs : s.Canonical) :
    ((clampTile t sill die s).tpower t).lSill = lSillOf sill ∧ ((clampTile t sill die s).tpower t).lDie = lDieOf (s.tpower t).lDie die := by
  unfold clampTile
  extract_lets x ls ld u v w
  have hv : v.tilePower = u.tilePower := by
    simp only [v]
    split
    · exact congrArg Prod.snd (powerEvent_gangAndPower ..)
    · rfl
  have hw : w.tilePower = v.tilePower := by
    simp only [w]
    split
    · exact congrArg Prod.snd (powerEvent_gangAndPower ..)
    · rfl
  have happly : (applyLimit t w).tilePower = w.tilePower := by
    obtain ⟨cores, h⟩ := applyLimit_frame t w
    rw [h]
  have hu : (applyLimit t w).tpower t = u.tpower t := by rw [State.tpower, State.tpower, happly, hw, hv]
  rw [hu, State.tpower_updTpower hs.tilePower]
  exact ⟨rfl, rfl⟩

/-- A supply domain that the variant has and that is not lost. -/
theorem execDomainPowerGood_live {d : Domain} (hhas : s.variant.hasDomain d = true) (hlive : ∀ x ∈ s.domains, ¬ (x.dom = d ∧ x.lost = true)) :
    (!s.variant.hasDomain d || s.domains.any (fun x => x.dom == d && x.lost)) = false := by
  have hnone : s.domains.any (fun x => x.dom == d && x.lost) = false := by simpa using hlive
  rw [hhas, hnone]
  rfl

end Sys2Proof.Machine
end

section
/-! THEOREMS. Power and heat, start, update and security. -/

namespace Sys2Proof.Machine

/-- Settles O48: each event by its guard. -/
theorem powerEventsComplete : Obligations.PowerEventsComplete := by
  refine ⟨fun buses s v hv => ?_, fun model s v w hv hw => ?_, fun s v ends all secs hends hv hall hsecs => ?_,
    fun via value s hphase hwatts hlo hhi => ?_, fun value s hwatts => ?_, fun t sill die s htile hsill hdie => ?_,
    fun sill die s hdie => ⟨fun hpow => ?_, fun hpow hphase => ?_⟩, fun t s hserv => ?_, fun t s hguard => ?_,
    fun n s hhas hlive => ?_, fun n s hhas hlive => ?_, fun s hlive => ?_, fun d x s hx hd hlost => ?_, fun s hlive hreset hpow => ?_,
    fun s hlive hreset => ?_, fun s hhas hlive hreset hpow => ?_, fun n s hpow => ?_, fun n s hpow => ?_, fun s hpow => ?_,
    fun s hpow hphase => ?_, fun s hpow hphase => ?_, fun s hpow hphase => ?_⟩
  · change execPowerMeasure buses s = _
    subst hv
    rfl
  · change execPowerControl model s = _
    subst hw hv
    rfl
  · change execPowerSecond s = _
    have hpower : v.power = s.power := by rw [hv]; rfl
    simp only [hsecs, hall, hpower]
    simp only [execPowerSecond, ← hends, ← hv]
  · change execPwrBmcCapWrite via offPwrLimit value s = _
    simp [execPwrBmcCapWrite, hphase, hwatts, hlo, hhi]
  · change execPwrBmcCapWrite .i3c offBmcCap value s = _
    simp [execPwrBmcCapWrite, hwatts, offBmcCap, offPwrLimit]
  · change execThermalRead t sill die s = _
    exact execThermalRead_cool htile hsill hdie
  · change execThermalRead 9 sill die s = _
    simp [execThermalRead, ioHeat, Nat.not_lt.mpr hdie, hpow]
  · change execThermalRead 8 sill die s = _
    simp [execThermalRead, ioHeat, Nat.not_lt.mpr hdie, hpow, hphase]
  · change execCurrentGuardTrip t s = _
    simp only [execCurrentGuardTrip, hserv, Bool.not_true, Bool.false_eq_true, if_false]
  · change execCurrentGuardEnd t s = _
    simp only [execCurrentGuardEnd, hguard, Bool.not_true, Bool.false_eq_true, if_false]
  · change execDomainPowerGood (.tile n) s = _
    simp only [execDomainPowerGood, execDomainPowerGood_live hhas hlive, Bool.false_eq_true, if_false]
  · change execDomainPowerGood (.laser n) s = _
    simp only [execDomainPowerGood, execDomainPowerGood_live hhas hlive, Bool.false_eq_true, if_false]
  · change execDomainPowerGood .io1 s = _
    simp only [execDomainPowerGood, execDomainPowerGood_live (d := .io1) rfl hlive, Bool.false_eq_true, if_false]
  · change execDomainPowerGood d s = _
    have hany : s.domains.any (fun x => x.dom == d && x.lost) = true := List.any_eq_true.mpr ⟨x, hx, by rw [hd, hlost]; simp⟩
    simp only [execDomainPowerGood, hany, Bool.or_true, if_true]
  · change execDomainPowerGood .io0 s = _
    simp only [execDomainPowerGood, execDomainPowerGood_live (d := .io0) rfl hlive, hreset, hpow, Bool.false_eq_true, if_false, if_true]
  · change execDomainPowerGood .io0 s = _
    simp only [execDomainPowerGood, execDomainPowerGood_live (d := .io0) rfl hlive, hreset, Bool.false_eq_true, if_false, if_true]
  · change execDomainPowerGood .io0 s = _
    simp only [execDomainPowerGood, execDomainPowerGood_live hhas hlive, hreset, hpow, Bool.false_eq_true, if_false]
  · change execDomainLost (.tile n) s = _
    simp only [execDomainLost, hpow, Bool.not_true, Bool.false_eq_true, if_false]
  · change execDomainLost (.laser n) s = _
    simp only [execDomainLost, hpow, Bool.not_true, Bool.false_eq_true, if_false]
  · change execDomainLost .io1 s = _
    simp only [execDomainLost, hpow, Bool.not_true, Bool.false_eq_true, if_false]
  · change execDomainLost .io0 s = _
    simp only [execDomainLost, hpow, hphase, Bool.not_true, Bool.false_eq_true, if_false]
  · change execDomainLost .io0 s = _
    simp only [execDomainLost, hpow, hphase, Bool.not_true, Bool.false_eq_true, if_false]
  · change execDomainLost .io0 s = _
    rcases hphase with hphase | hphase <;>
      simp only [execDomainLost, hpow, hphase, Bool.not_true, Bool.false_eq_true, if_false]

/-- Settles O49: each event by its guard, the torn record by what the reset left of it, the ledger by what stays in force. -/
theorem startAndSecurityEventsComplete : Obligations.StartAndSecurityEventsComplete := by
  refine ⟨⟨fun env s v hstart hrun => ?_, fun env reason detail s v hstart hrun => ?_, fun s hstart hstage => ?_, fun s hphase hpow hreset => ?_,
      fun s hphase hpow hreset => ?_, fun ctxs s => rfl, fun s => rfl, fun s hphase hclear => ?_, fun s hphase => ?_, fun ns taken s hns => ?_,
      fun ns taken s hns => ?_⟩,
    fun img r s hres => ?_, fun img s hres => ?_, fun s hbusy => ?_, fun s f hbusy hf => ?_, fun s hsame hgood => tearBank_bank hsame hgood,
    fun s htrial hbank htried hnew => ?_, fun s htrial => ?_, fun f r older newer hf hnone => ?_, fun value s hbit hmr => ?_, fun value s => rfl⟩
  · change execStartStage env s = _
    simp only [execStartStage, hstart, hrun, Bool.not_true, Bool.false_eq_true, if_false]
  · change execStartStage env s = _
    simp only [execStartStage, hstart, hrun, Bool.not_true, Bool.false_eq_true, if_false]
  · change execStartStageTimeout s = _
    simp only [execStartStageTimeout, hstart, hstage, Bool.not_true, Bool.false_eq_true, if_false]
  · change execStartRetry s = _
    simp [execStartRetry, hphase, hpow, hreset]
  · change execWatchdog s = _
    have hup : (s.start.phase == .ready || s.start.phase == .running) = true := by simpa using hphase
    simp only [execWatchdog, hup, hpow, hreset, Bool.not_false, Bool.and_self, if_true]
  · change execRestart s = _
    simp only [execRestart, hphase, hclear, beq_self_eq_true, Bool.true_or, if_true]
  · change execRestart s = _
    simp [execRestart, hphase]
  · change execPkgReset ns taken s = _
    have hlong : ¬(ns < 1000 ∨ (ns < 10000 ∧ taken = false)) := by omega
    simp only [execPkgReset, hlong, if_false]
  · change execPkgReset ns taken s = _
    simp only [execPkgReset, hns, true_or, if_true]
  · change execFwUpdateStart img s = _
    simp only [execFwUpdateStart, hres]
  · change execFwUpdateStart img s = _
    simp only [execFwUpdateStart, hres]
  · change execFwUpdateDone false s = _
    simp only [execFwUpdateDone, hbusy, Bool.not_true, Bool.not_false, Bool.false_eq_true, if_false, if_true]
  · change execFwUpdateDone true s = _
    subst hf
    simp only [execFwUpdateDone, hbusy, Bool.not_true, Bool.false_eq_true, if_false]
  · change execCommit s = _
    simp [execCommit, htrial, hbank, htried, hnew]
  · change execCommit s = _
    simp [execCommit, htrial]
  · rw [Flash.compact, Flash.rewrite, hf]
    exact mem_keepInForce (mem_markSuperseded hnone older)
  · change execMrExtend value s = _
    simp only [execMrExtend, hbit, hmr, decide_true, Bool.and_self, if_true, extendMr]

/-- Settles O59: the two limits by the ranges of their temperatures, and what a reading of a cool tile writes. -/
theorem thermalLimits : Obligations.ThermalLimits := by
  refine ⟨fun t ht => ?_, fun t hlo hhi => ?_, fun t ht => ?_, fun old t ht => ?_, fun old t ht => ?_, fun t hlo hhi => ⟨?_, ?_⟩,
    fun t sill die s hs htile hsill hdie => ⟨_, ?_, clampTile_limits hs⟩⟩
  · rw [lSillOf, if_pos (by omega)]
  · rw [lSillOf, if_neg (by omega), if_pos (by omega)]
  · rw [lSillOf, if_neg (by omega), if_neg (by omega)]
  · rw [lDieOf, if_pos (by omega)]
  · rw [lDieOf, if_neg (by omega), if_neg (by omega)]
  · rw [lDieOf, if_neg (by omega), if_pos (by omega)]
  · rw [lDieOf, if_neg (by omega), if_neg (by omega)]
  · change execThermalRead t sill die s = _
    exact execThermalRead_cool htile hsill hdie

end Sys2Proof.Machine
end
